-- ==== Sys2Proof/Word.lean ====
section
/-! DEFINITION. The word types and the small enumerations the spec names (R4, R6, R7, R9): a 64-bit word, a byte,
a 128-byte row or line, a 256-byte scale register, the two kinds of finite table, the seven slots, the agents. -/

namespace Sys2Proof

/-- A 64-bit word: a scalar register, a header word, a slot word (R28, R98). -/
abbrev W64 := BitVec 64

/-- A byte of memory or of a row (R8). -/
abbrev Byte := BitVec 8

/-- One 128-byte tile row or scratchpad line; element 0 is at bit 0 (R9, R145). -/
abbrev Row := BitVec 1024

/-- One 256-byte scale register; byte 0 is at bit 0 (R188). -/
abbrev Scale := BitVec 2048

/-- Words by number, in ONE canonical form: numbers strictly rising, and no entry that holds zero, which is what an
unlisted number reads as. Physical memory is a `Store 8`, which is a list of `Host.Cell`. -/
abbrev Store (w : Nat) := List (Nat × BitVec w)

/-- Records by number, numbers strictly rising; what an unlisted number reads as is said where the table is read. -/
abbrev Tab (α : Type) := List (Nat × α)

/-- The seven issue slots of a bundle, in program order (R28, R41). -/
inductive Slot where
  | s | v0 | v1 | m | l | t | x
deriving DecidableEq, Repr

/-- The slots in program order (R13, R41). -/
def Slot.all : List Slot := [.s, .v0, .v1, .m, .l, .t, .x]

/-- The number of a slot: its bit in PRES (R30) and its SLOT code in a trap record (R426). -/
def Slot.num : Slot → Nat
  | .s => 0 | .v0 => 1 | .v1 => 2 | .m => 3 | .l => 4 | .t => 5 | .x => 6

/-- The control part of a slot word (R35): HOLD, PN and PSEL. -/
structure Ctl where
  hold : BitVec 1
  pn   : BitVec 1
  psel : BitVec 5
deriving DecidableEq, Repr

/-- The control part of an unpredicated word that is not held. -/
def Ctl.plain : Ctl := { hold := 0, pn := 0, psel := 31 }

/-- A bundle header (R30). -/
structure Header where
  kind : BitVec 2
  sat  : BitVec 1
  sinc : BitVec 4
  ssem : BitVec 8
  sen  : BitVec 1
  wdec : BitVec 1
  wthr : BitVec 8
  wsem : BitVec 8
  wen  : BitVec 1
  mark : BitVec 1
  pres : BitVec 7
deriving DecidableEq, Repr

/-- The header of a bundle with no clause and the presence bits given. -/
def Header.plain (pres : BitVec 7) : Header :=
  { kind := 0, sat := 0, sinc := 0, ssem := 0, sen := 0, wdec := 0, wthr := 0, wsem := 0, wen := 0, mark := 0, pres }

/-- The outcomes of decoding one slot word that are traps (R57 steps 1 to 4). -/
inductive DecTrap where
  | illegalSlot | predReserved
deriving DecidableEq, Repr

/-- A message of the host protocol (R438): its header's fields in the spec's order but for SEQ after SESS, and its payload
bytes. -/
structure VvReq where
  magic  : BitVec 16 := 0x5656
  ver    : BitVec 8 := 1
  type   : BitVec 8
  status : BitVec 32 := 0
  sess : Nat
  seq  : Nat
  addr : Nat
  arg  : Nat
  len  : Nat
  body : List Byte
deriving DecidableEq, Repr

/-- A drain of a launch (R420): whether it is the host that asks for it, or a launch that cannot fit. DESIGN CHOICE, log 7. -/
structure DrainReq where
  launch : Nat
  host   : Bool := false
deriving DecidableEq, Repr

/-- What a start takes from outside its package (R19, R26, R448): the master's time in ticks, the brick mode with the
package extents as TOPO lays them out, the value that firmware writes to HBM_SPLIT, the frames that the pumphouse has free, by
base and bytes, the Ethernet port of the master; whether the start breaks off within the step, and whether a new start begins.
DESIGN CHOICE, log 7. DESIGN CHOICE, log 8. DEDUCED, log 37. -/
structure BootVals where
  time  : BitVec 64
  topo  : BitVec 21
  split : BitVec 64
  frames : List (Nat × Nat) := []
  port  : Bool := false
  lost  : Bool := false
  again : Bool := false
deriving DecidableEq, Repr

/-- A flit as an external port sends and receives it (R445): sequence number, kind, acknowledgement, virtual channel,
bytes 4 to 7, payload, CRC field. -/
structure Flit where
  seq  : BitVec 12
  kind : BitVec 4
  ack  : BitVec 12
  vc   : BitVec 4
  rsv  : BitVec 32
  body : BitVec 1952
  crc  : BitVec 32
deriving DecidableEq, Repr

end Sys2Proof
end

