-- ==== Sys2Proof/Config.lean ====
section
/-! DEFINITION. What the spec leaves to the part: free values, each an opaque constant that nothing can evaluate, applied to
a counter of the state or to the operands it depends on; and the few fixed sizes the spec names. -/

namespace Sys2Proof.Config

/-- Which way of an L1 set an eviction takes (R253 gives no replacement policy), by counter. DESIGN CHOICE, log 29. -/
opaque l1Victim : Nat → Nat

/-- Whether an MMA that fetches a slot rewritten since the operand cache was filled reads the cache's entry (R197). DESIGN CHOICE, log 20. -/
opaque staleTile : Nat → Bool

/-- Whether a sampler read takes the line its cache holds or the one at the slice (R287). DESIGN CHOICE, log 21. -/
opaque staleSample : Nat → Bool

/-- The sectors a compressed granule is stored in, less one (R265). DESIGN CHOICE, log 22. -/
opaque sectors : Nat → BitVec 3

/-- The detail word of a REG_ERROR record, whose layout R426 does not state, by kind, index, row and word of the register. DESIGN CHOICE, log 23. -/
opaque regErrorDetail : Nat → Nat → Nat → Nat → BitVec 64

/-- The detail word of a SEEPAGE record, whose layout R426 does not state, by scope and origin. DESIGN CHOICE, log 23. -/
opaque seepDetail : Nat → Nat → BitVec 64

/-- The word that an overlay stream's dictionary index at or above NDICT expands to, which R417 does not state, by stream
address and index. DESIGN CHOICE, log 25. -/
opaque ovlWord : Nat → Nat → BitVec 64

/-- A byte of a saved context, whose layout R421 does not state, by counter and place. DESIGN CHOICE, log 9. -/
opaque ctxByte : Nat → Nat → BitVec 8

/-- Which of a document's postings in one term counts where kept blocks of the term hold several, which R386 does not state, by
document and term. DESIGN CHOICE, log 35. -/
opaque twicePosted : Nat → Nat → Nat

/-- The header of a berm packet, which R338 and R341 do not lay out, by the launch's LID, the descriptor, the number of the exchange,
the face, FACES and BMODE. DESIGN CHOICE, log 54. -/
opaque bermHeader : List Nat → BitVec 256

/-- The ticks from a pumphouse to the engine ports of a die (R406), by die. DESIGN CHOICE, log 26. -/
opaque slotTravel : Nat → BitVec 16

/-- The DELAY that start-up measures for a die (R406, R448), by package and die. DESIGN CHOICE, log 26. -/
opaque skew : Nat → Nat → BitVec 16

/-- STEPPING of PART_ID (R2), by package. DESIGN CHOICE, log 27. -/
opaque stepping : Nat → BitVec 8

/-- What a register read of a write-only word answers, which the spec does not state, by address. DESIGN CHOICE, log 27. -/
opaque writeOnly : Nat → BitVec 64

/-- SM3 of a run of bytes given as one number and its length (R448); the spec names the function and does not define it. DESIGN CHOICE, log 28. -/
opaque sm3 : Nat → Nat → BitVec 256

/-- The SM2 signature (r, s) with a package's device identity key over bytes given as one number (R449). DESIGN CHOICE, log 28. -/
opaque sm2Sign : Nat → Nat → BitVec 512

/-- The public key of a package's device identity (R449). DESIGN CHOICE, log 28. -/
opaque sm2Key : Nat → BitVec 512

end Sys2Proof.Config
end

