-- ==== Sys2Proof/Syntax.lean ====
section
/-! DEFINITION. The instructions and steps of the part: the operand formats of R46 to R56 as structures, and ONE inductive
with one constructor for each row of the table of operations and events. -/

namespace Sys2Proof

/-- Format S-reg (R46). -/
structure SReg where (rd ra rb : BitVec 5) (fn : BitVec 6)
deriving DecidableEq, Repr
/-- Format S-imm (R46). -/
structure SImm where (rd ra : BitVec 5) (fn : BitVec 4) (imm : BitVec 37)
deriving DecidableEq, Repr
/-- Format S-wide (R46). -/
structure SWide where (rd : BitVec 5) (imm : BitVec 46)
deriving DecidableEq, Repr
/-- Format S-float (R46). -/
structure SFloat where (rd ra rb ty tys : BitVec 5) (rm : BitVec 3) (sat : BitVec 1)
deriving DecidableEq, Repr
/-- Format S-pred (R46). -/
structure SPred where (pd pa pb : BitVec 5) (tt : BitVec 4)
deriving DecidableEq, Repr
/-- Format S-branch (R46). -/
structure SBranch where (rd : BitVec 5) (fn : BitVec 4) (tgt : BitVec 13)
deriving DecidableEq, Repr
/-- Format S-fence (R46). -/
structure SFence where (mask : BitVec 16) (sc : BitVec 3)
deriving DecidableEq, Repr
/-- Format S-ctl (R46). -/
structure SCtl where (rd ra : BitVec 5) (cr : BitVec 12)
deriving DecidableEq, Repr
/-- Format V-three (R48). -/
structure VThree where
  (td : BitVec 8) (rowd : BitVec 5) (ta : BitVec 8) (rowa : BitVec 5) (tb : BitVec 8) (rowb : BitVec 5)
  (ty : BitVec 5) (rm : BitVec 3) (sat : BitVec 1) (step : BitVec 3)
deriving DecidableEq, Repr
/-- Format V-scalar (R48). -/
structure VScalar where
  (td : BitVec 8) (rowd : BitVec 5) (ta : BitVec 8) (rowa sb : BitVec 5) (idx : BitVec 8)
  (ty : BitVec 5) (rm : BitVec 3) (sat : BitVec 1) (step : BitVec 3)
deriving DecidableEq, Repr
/-- Format V-conv (R48). -/
structure VConv where
  (td : BitVec 8) (rowd : BitVec 5) (ta : BitVec 8) (rowa tys ty : BitVec 5) (rm : BitVec 3) (sat : BitVec 1)
  (step : BitVec 3)
deriving DecidableEq, Repr
/-- Format V-port (R48). -/
structure VPort where
  (td : BitVec 8) (rowd : BitVec 5) (ta : BitVec 8) (rowa : BitVec 5) (port : BitVec 8) (ty : BitVec 5)
  (rm : BitVec 3) (sat : BitVec 1) (step : BitVec 3)
deriving DecidableEq, Repr
/-- Format M-mac (R50). -/
structure MMac where (tc : BitVec 8) (rga rgb : BitVec 3) (fa fb : BitVec 5) (ka kb : BitVec 4)
deriving DecidableEq, Repr
/-- Format M-out (R50). -/
structure MOut where
  (tc td : BitVec 8) (kd : BitVec 4) (ty : BitVec 5) (rm : BitVec 3) (sat mx : BitVec 1)
deriving DecidableEq, Repr
/-- Format M-outs (R50). -/
structure MOuts where
  (tc : BitVec 8) (ra : BitVec 5) (imm : BitVec 24) (ty : BitVec 5) (rm : BitVec 3) (sat mx : BitVec 1)
deriving DecidableEq, Repr
/-- Format M-ring (R50). -/
structure MRing where (ring : BitVec 3) (rd ra rb : BitVec 5) (fn : BitVec 4)
deriving DecidableEq, Repr
/-- Format G, global access (R52). -/
structure GFmt where
  (reg : BitVec 13) (h : BitVec 4) (ro : BitVec 5) (cls : BitVec 4) (sc : BitVec 3) (off : BitVec 19) (step : BitVec 3)
deriving DecidableEq, Repr
/-- Format P, scratchpad access (R52). -/
structure PFmt where (reg : BitVec 13) (ra : BitVec 5) (imm : BitVec 24) (step : BitVec 3)
deriving DecidableEq, Repr
/-- Format A, atomic (R52). -/
structure AFmt where
  (rd rb rc : BitVec 5) (h : BitVec 4) (ro : BitVec 5) (cls : BitVec 4) (sc : BitVec 3) (ty : BitVec 5) (off : BitVec 12)
deriving DecidableEq, Repr
/-- Format Q, sampler (R52). -/
structure QFmt where
  (td : BitVec 8) (rowd : BitVec 5) (fd : BitVec 4) (sx sy sz : BitVec 5) (filt amode : BitVec 1) (step : BitVec 3)
deriving DecidableEq, Repr
/-- Format X-cmd, engine push (R55). -/
structure XCmd where (q : BitVec 6) (ra rb : BitVec 5) (mask : BitVec 16) (sc : BitVec 3) (fn : BitVec 4)
deriving DecidableEq, Repr
/-- Format X-pop (R55). -/
structure XPop where (rd : BitVec 5) (q : BitVec 6) (fn : BitVec 4)
deriving DecidableEq, Repr
/-- Format X-sem (R55). -/
structure XSem where (sem : BitVec 8) (ra : BitVec 5) (imm : BitVec 16) (fn : BitVec 4) (rd : BitVec 5)
deriving DecidableEq, Repr
/-- Format X-p2p (R55). -/
structure XP2p where
  (lane : BitVec 3) (ta : BitVec 8) (rowa ra : BitVec 5) (imm : BitVec 21) (step : BitVec 3)
deriving DecidableEq, Repr
/-- Format X-ovl (R55). -/
structure XOvl where (half : BitVec 1) (h : BitVec 4) (ra rd : BitVec 5)
deriving DecidableEq, Repr

/-- The steps of the part, one constructor for each row of the table. A slot instruction carries the operands of its
format; a step of an agent carries the number of the agent (a core, a cluster, a die, a memory die, a package, a
command queue, a launch) and what else selects it. Cores are numbered `P·384 + global core`, clusters `P·48 + c`,
compute and memory dies `P·8 + d`, command queues `P·64 + q` (R4, R17, R345, R399). -/
inductive Instr where
  -- a core issues and its results land
  | bundleIssue (core : Nat) | satSignalApply (core : Nat) | scalarResultLand (core idx : Nat)
  | rowResultLand (core idx : Nat)
  -- the S slot
  | nop (slot : Slot)
  | add (o : SReg) | sub (o : SReg) | mul (o : SReg) | mulh (o : SReg) | div (o : SReg) | rem (o : SReg)
  | addi (o : SImm)
  | and (o : SReg) | or (o : SReg) | xor (o : SReg) | shl (o : SReg) | shr (o : SReg) | sar (o : SReg)
  | andi (o : SImm) | ori (o : SImm) | xori (o : SImm) | shli (o : SImm) | shri (o : SImm) | sari (o : SImm)
  | min (o : SReg) | max (o : SReg) | clz (o : SReg) | popc (o : SReg)
  | movi (o : SWide) | movhi (o : SWide) | sel (o : SReg) | cmp (o : SReg) | cmpi (o : SImm)
  | plog (o : SPred) | pget (o : SReg) | pset (o : SReg)
  | fadd (o : SFloat) | fsub (o : SFloat) | fmul (o : SFloat) | ffma (o : SFloat) | fdiv (o : SFloat)
  | fsqrt (o : SFloat) | fmin (o : SFloat) | fmax (o : SFloat) | fcmp (o : SFloat)
  | fcvt (o : SFloat) | fcvti (o : SFloat) | icvtf (o : SFloat)
  | br (o : SBranch) | brl (o : SBranch) | brr (o : SReg) | loop (o : SImm) | loopb (o : SBranch)
  | brswap (o : SBranch) | ifence
  | xlat (o : SReg) | hrel (o : SReg) | walkEnd (die idx : Nat)
  | fenceC (o : SFence) | fenceSc (o : SFence) | spfence | fenceSmp
  | mfcr (o : SCtl) | mtcr (o : SCtl) | bankWake (core : Nat) | trap (o : SWide)
  -- the V slots
  | vadd (o : VThree) | vsub (o : VThree) | vmul (o : VThree) | vfma (o : VThree) | vmin (o : VThree)
  | vmax (o : VThree) | vabs (o : VThree) | vneg (o : VThree) | vclamp (o : VThree) | vmulh (o : VThree)
  | vadds (o : VScalar) | vsubs (o : VScalar) | vmuls (o : VScalar) | vfmas (o : VScalar) | vmins (o : VScalar)
  | vmaxs (o : VScalar)
  | vand (o : VThree) | vor (o : VThree) | vxor (o : VThree) | vnot (o : VThree) | vshl (o : VThree)
  | vshr (o : VThree) | vsar (o : VThree) | vpopc (o : VThree) | vcmp (o : VThree) | vsel (o : VThree)
  | vmov (o : VThree) | vzero (o : VThree) | viota (o : VThree)
  | vbcast (o : VScalar) | vextr (o : VScalar) | vins (o : VScalar) | vcvt (o : VConv) | vperm (o : VThree)
  | vrot (o : VScalar) | vscale (o : VScalar)
  | vrsum (o : VThree) | vdot (o : VThree) | vrmax (o : VThree) | vrmin (o : VThree)
  | vexp2 (o : VThree) | vlog2 (o : VThree) | vrcp (o : VThree) | vrsq (o : VThree) | vtanh (o : VThree)
  | pmov (o : VPort) | portResultReady (core port : Nat) | ptake (o : VPort)
  -- the M slot and scale loads
  | mma (o : MMac) | mmaz (o : MMac) | mmaRetire (core : Nat) | mout (o : MOut) | mouts (o : MOuts)
  | mOutputLand (core idx : Nat) | mzero (o : MOut)
  | rset (o : MRing) | rpush (o : MRing) | rpop (o : MRing) | rget (o : MRing)
  | ldsc (o : PFmt) | ldscWriteLand (core : Nat)
  -- scratchpad
  | lds (o : PFmt) | ldsr (o : PFmt) | ldst (o : PFmt) | scratchpadLoadLand (core idx : Nat)
  | sts (o : PFmt) | stsr (o : PFmt) | stst (o : PFmt) | storeReachesBank (core idx : Nat)
  | spclr (o : PFmt) | spfill (o : PFmt)
  -- global memory
  | ldg (o : GFmt) | ldgAcq (o : GFmt) | ldgr (o : GFmt) | ldgrAcq (o : GFmt) | ldgt (o : GFmt) | ldscg (o : GFmt)
  | globalLoadReturn (core idx : Nat) | storeReachesPointOfCoherence (core idx : Nat)
  | stg (o : GFmt) | stgRel (o : GFmt) | stgr (o : GFmt) | stgrRel (o : GFmt) | stgt (o : GFmt)
  | aadd (o : AFmt) | amin (o : AFmt) | amax (o : AFmt) | aand (o : AFmt) | aor (o : AFmt) | axor (o : AFmt)
  | axchg (o : AFmt) | acas (o : AFmt) | afadd (o : AFmt) | atomicReturn (core idx : Nat)
  | ldsmp (o : QFmt) | sampleLand (core idx : Nat)
  -- the X slot
  | epush (o : XCmd) | epop (o : XPop) | eqstat (o : XPop) | fdrd (o : XPop)
  | send (o : XP2p) | sendArrival (core idx : Nat) | recv (o : XP2p) | recvadd (o : XP2p)
  | semadd (o : XSem) | semset (o : XSem) | semrd (o : XSem) | semwait (o : XSem) | barc (o : XSem) | barg (o : XSem)
  | barrierRelease (global : Bool) (n : Nat) | ovl (o : XOvl) | ovlEnd (core : Nat)
  | cpy (o : XCmd) | cpyt (o : XCmd) | cpyf (o : XCmd) | cpyh (o : XCmd) | bxch (o : XCmd)
  -- copy and berm engines
  | cpyCommand (cluster idx : Nat) | cpytTimedStart (cluster : Nat) | cpyfCommand (cluster idx : Nat)
  | cpyhCommand (cluster idx : Nat) | bxchCommand (die idx : Nat) | bermFaceArrival (idx : Nat)
  -- the sluice engine
  | allred (o : XCmd) | rscat (o : XCmd) | agath (o : XCmd) | bcast (o : XCmd) | alltoall (o : XCmd) | reshard (o : XCmd)
  | collectiveMatch (die idx : Nat) | stagingGrant (idx : Nat) | sluicePacket (idx : Nat)
  | chunkFinish (idx die chunk : Nat) | treeRecovery (idx : Nat) | reshardRow (idx row : Nat) | reshardCommit (idx : Nat)
  | cstatReshard (o : XPop) | cstatLinks (o : XPop)
  -- the posting-list engine
  | plq (o : XCmd) | query (die idx : Nat) | check (die idx : Nat) | plres (o : XPop)
  -- pumphouse words
  | pumphouseNop (q : Nat) | launch (q : Nat) | waitsem (q : Nat) | sigsem (q : Nat) | sigcl (q : Nat)
  | waittime (q : Nat) | preempt (q : Nat) | snap (q : Nat) | inval (q : Nat) | kill (q : Nat) | fence (q : Nat)
  | stamp (q : Nat) | dieSlot (q : Nat) | syncSlotEntry (pkg idx : Nat) | queueMapping (pkg : Nat)
  -- launches
  | launchPlacement (pkg : Nat) | coreHalt (core : Nat) | launchEnd (l : Nat) | drainTimeout (l : Nat)
  | launchDrain (l : DrainReq)
  | launchResume (l : Nat) | watchdog (l : Nat) | cowResolve (core : Nat)
  | trapResume (core : Nat) | trapSkip (core : Nat) | trapAnswerKill (core : Nat)
  -- ports that the machine itself steps
  | flitReceive (die axis : Nat) (f : Flit) | linkTraining (die link : Nat) (up : Bool) | changeWindow (die port : Nat)
  | emergencyExit (die : Nat) | memwr (pkg : Nat) (r : VvReq)
  -- host registers and messages
  | qringWrite (q : Nat) (v : W64) | qptrTailWrite (q : Nat) (tail : BitVec 32) | queueEnable (q : Nat) (qpri : BitVec 3)
  | queueDisable (q : Nat) (qpri : BitVec 3) | hbmSplitWrite (pkg : Nat) (v : W64) | clkCodeWrite (die : Nat) (v : W64)
  | regrd (pkg : Nat) (r : VvReq) | regwr (pkg : Nat) (r : VvReq) | memrd (pkg : Nat) (r : VvReq)
  | attestReport (pkg : Nat) (r : VvReq) | attestPublicKey (pkg : Nat) (r : VvReq)
  -- links, time, power, start-up
  | linkDown (die port : Nat)
  | ptpMessage (pkg port : Nat) (offset : BitVec 32) (adjust : Bool)
  | thermalEmergency (die : Nat) (temp : BitVec 12)
  | boot (pkg : Nat) (digest : BitVec 256) (ok : Bool) (v : BootVals)
  | scrub (die : Nat) (pa : Nat) | ptpMasterLoss (pkg : Nat) | laneFailure (die axis : Nat)
deriving DecidableEq, Repr

end Sys2Proof
end

