-- ==== Sys2Proof/WellFormed.lean ====
section
/-! DEFINITION. Which slot instructions are well formed: the field checks of R57 step 3, which trap ILLEGAL_SLOT
(R37 to R40, R44, the format notes and each instruction's own entry), and the predicate checks of step 4, which trap
PRED_RESERVED (R36). -/

namespace Sys2Proof

/-- Whether a code lies between two codes, both included. -/
def codeIn (c : BitVec 5) (lo hi : Nat) : Bool := lo ≤ c.toNat && c.toNat ≤ hi

/-- A floating type code that is not an MX code and not narrower than a byte: `.f32` to `.e5m2` (R37). -/
def isFloatTy (c : BitVec 5) : Bool := codeIn c 0x08 0x0C

/-- An integer type code of 8 to 64 bits (R37). -/
def isIntTy (c : BitVec 5) : Bool := codeIn c 0x00 0x07

/-- An MX type code (R75). -/
def isMxTy (c : BitVec 5) : Bool := codeIn c 0x10 0x12

/-- Group A, arithmetic (R155). -/
def groupA (c : BitVec 5) : Bool := isIntTy c || isFloatTy c
/-- Group A without the unsigned codes (R158). -/
def groupASigned (c : BitVec 5) : Bool := codeIn c 0x00 0x03 || isFloatTy c
/-- Group F, float (R155). -/
def groupF (c : BitVec 5) : Bool := codeIn c 0x08 0x0A
/-- Group B, bitwise (R155). -/
def groupB (c : BitVec 5) : Bool := isIntTy c || c == 0x13
/-- Group W, any width (R155). -/
def groupW (c : BitVec 5) : Bool := groupA c || c == 0x0D || c == 0x13

/-- The number of elements of a row of a type of R145 (0 for a code that has no row width). -/
def elemCount (c : BitVec 5) : Nat :=
  match c.toNat with
  | 0x00 => 128 | 0x01 => 64 | 0x02 => 32 | 0x03 => 16
  | 0x04 => 128 | 0x05 => 64 | 0x06 => 32 | 0x07 => 16
  | 0x08 => 32 | 0x09 => 64 | 0x0A => 64 | 0x0B => 128 | 0x0C => 128
  | 0x0D => 256 | 0x0E => 170 | 0x0F => 170 | 0x13 => 256
  | _ => 0

/-- A rounding field that an instruction may hold (R38). -/
def rmOk (rm : BitVec 3) : Bool := rm.toNat ≤ 5

/-- The rounding field of an instruction that rounds only for a float type (R156). -/
def rmFor (isFloat : Bool) (rm : BitVec 3) : Bool := if isFloat then rmOk rm else rm == 0

/-- A tile field (R40). -/
def tileOk (t : BitVec 8) : Bool := t.toNat < 140

/-- A scope field (R39). -/
def scopeOk (sc : BitVec 3) : Bool := sc.toNat ≤ 5

/-- A predicate operand field that is read (R36). -/
def predSrc (p : BitVec 5) : Bool := p.toNat < 24 || p == 31

/-- A predicate operand field that is written (R36). -/
def predDst (p : BitVec 5) : Bool := p.toNat < 24

/-- The listed control-register numbers (R109). -/
def crListed (n : BitVec 12) : Bool :=
  [0x000, 0x001, 0x002, 0x003, 0x010, 0x011, 0x012, 0x020, 0x021, 0x028, 0x029, 0x02A, 0x02B, 0x02C, 0x02D,
   0x030, 0x031, 0x040, 0x041, 0x048].contains n.toNat

/-- A queue number that names an engine (R313). -/
def queueOk (q : BitVec 6) : Bool := q.toNat ≤ 2 || (8 ≤ q.toNat && q.toNat ≤ 15)

/-- The low five bits of a REG field: a row, or a scalar's number (R52). -/
def regLow (r : BitVec 13) : BitVec 5 := r.extractLsb' 0 5
/-- The high eight bits of a REG field: a tile (R52). -/
def regHigh (r : BitVec 13) : BitVec 8 := r.extractLsb' 5 8

/-- REG names a scalar (R52). -/
def regScalar (r : BitVec 13) : Bool := regHigh r == 0
/-- REG names a tile row (R52). -/
def regRow (r : BitVec 13) : Bool := tileOk (regHigh r)
/-- REG names a whole tile (R52). -/
def regTile (r : BitVec 13) : Bool := tileOk (regHigh r) && regLow r == 0
/-- REG names a scale register (R52). -/
def regScale (r : BitVec 13) : Bool := r.toNat < 16

/-- S-reg forms whose FN is zero (R121). -/
def regFn0 (o : SReg) : Bool := o.fn == 0
/-- S-reg forms that select signed or unsigned (R121). -/
def regFn1 (o : SReg) : Bool := o.fn.toNat ≤ 1
/-- S-reg forms that use RA alone (R121). -/
def regUnary (o : SReg) : Bool := o.fn == 0 && o.rb == 0
/-- Shift-immediate forms (R123). -/
def immShift (o : SImm) : Bool := o.fn == 0 && o.imm.toNat < 64
/-- Scalar floating arithmetic (R129). -/
def floatArith (o : SFloat) : Bool := groupF o.ty && o.tys == 0 && rmOk o.rm
/-- V-three with both sources, arithmetic on group A (R156, R158). -/
def vArith (o : VThree) : Bool :=
  groupA o.ty && rmFor (isFloatTy o.ty) o.rm && tileOk o.td && tileOk o.ta && tileOk o.tb
/-- V-three marked RM 0 and SAT 0, with both sources (R156). -/
def vPlain (grp : BitVec 5 → Bool) (o : VThree) : Bool :=
  grp o.ty && o.rm == 0 && o.sat == 0 && tileOk o.td && tileOk o.ta && tileOk o.tb
/-- V-three with TB and ROWB unused (R48). -/
def vUnary (o : VThree) : Bool := tileOk o.td && tileOk o.ta && o.tb == 0 && o.rowb == 0
/-- V-scalar arithmetic (R165). -/
def vsArith (o : VScalar) : Bool :=
  groupA o.ty && rmFor (isFloatTy o.ty) o.rm && tileOk o.td && tileOk o.ta && o.idx == 0
/-- V-scalar marked RM 0 and SAT 0 (R165). -/
def vsPlain (grp : BitVec 5 → Bool) (o : VScalar) : Bool :=
  grp o.ty && o.rm == 0 && o.sat == 0 && tileOk o.td && tileOk o.ta
/-- A transcendental form (R170). -/
def vTrans (o : VThree) : Bool := groupF o.ty && o.rm == 0 && o.sat == 0 && vUnary o

/-- The TY, RM and SAT that PMOV may carry to each port (R178). -/
def portAccepts (port : BitVec 8) (ty : BitVec 5) (rm : BitVec 3) (sat : BitVec 1) : Bool :=
  match port.toNat with
  | 0x01 => (ty == 0x0E || ty == 0x0F) && rm == 0 && sat == 0
  | 0x02 => ty == 0x13 && rm == 0 && sat == 0
  | 0x03 => ty == 0x0D && rm == 0 && sat == 0
  | 0x04 => ty == 0x0B && rmOk rm
  | 0x05 | 0x06 | 0x07 => (ty == 0x08 || ty == 0x0A) && rm == 0
  | 0x08 | 0x09 | 0x0A | 0x0B | 0x0C | 0x0D | 0x0E => ty == 0x04 && rm == 0 && sat == 0
  | _ => false

/-- The operand pairs of the matrix unit (R186). -/
def macPair (fa fb : BitVec 5) : Bool :=
  let eight := fun c : BitVec 5 => c == 0x0B || c == 0x0C || c == 0x10 || c == 0x11
  let sixteen := fun c : BitVec 5 => c == 0x09 || c == 0x0A
  (fa == 0x12 && fb == 0x12) || (eight fa && eight fb) || (sixteen fa && sixteen fb)
    || (fa == 0x08 && fb == 0x08) || (fa == 0x00 && fb == 0x00)

/-- The fields of MMA and MMAZ (R186, R200). -/
def macOk (o : MMac) : Bool :=
  macPair o.fa o.fb && o.rga != o.rgb && tileOk o.tc && (isMxTy o.fa || o.ka == 0) && (isMxTy o.fb || o.kb == 0)

/-- The type, rounding and MX rules of MOUT and MOUTS (R202, R203). -/
def outRules (ty : BitVec 5) (rm : BitVec 3) (mx : BitVec 1) : Bool :=
  (codeIn ty 0x00 0x02 || codeIn ty 0x08 0x0D) && rmOk rm
    && (mx == 0 || (codeIn ty 0x0B 0x0D && rm == 0)) && (!(isIntTy ty) || rm == 0)

/-- An atomic on an integer (R280). -/
def atomOk (o : AFmt) : Bool := (codeIn o.ty 2 3 || codeIn o.ty 6 7) && o.rc == 0 && scopeOk o.sc

/-- A push of a named form (R321, R349). -/
def cmdOk (o : XCmd) : Bool := o.q == 0 && o.fn.toNat ≤ 1 && scopeOk o.sc

/-- A barrier form (R231). -/
def barOk (o : XSem) : Bool := o.sem == 0 && o.ra == 0 && o.imm == 0 && o.fn == 0 && o.rd == 0

/-- The field checks of R57 step 3 that depend on the operand fields alone: `false` traps ILLEGAL_SLOT. A step that is not
a slot instruction has no fields to check. DEDUCED, log 39. -/
def Instr.fieldsOk : Instr → Bool
  | .nop _ => true
  | .add o | .sub o | .mul o | .and o | .or o | .xor o | .shl o | .shr o | .sar o => regFn0 o
  | .mulh o | .div o | .rem o | .min o | .max o => regFn1 o
  | .clz o | .popc o => regUnary o
  | .addi o | .andi o | .ori o | .xori o => o.fn == 0
  | .shli o | .shri o | .sari o => immShift o
  | .movi _ => true
  | .movhi o => o.imm.toNat < 2 ^ 18
  | .sel _ => true
  | .cmp o => o.fn.toNat < 8
  | .cmpi o => o.fn.toNat < 8
  | .plog _ => true
  | .pget o => o.ra == 0 && o.rb == 0 && o.fn == 0
  | .pset o => o.rd == 0 && o.fn == 0
  | .fadd o | .fsub o | .fmul o | .ffma o | .fdiv o => floatArith o
  | .fsqrt o => floatArith o && o.rb == 0
  | .fmin o | .fmax o => floatArith o && o.rm == 0 && o.sat == 0
  | .fcmp o => groupF o.ty && o.tys.toNat < 8 && o.rm == 0 && o.sat == 0
  | .fcvt o => codeIn o.ty 8 15 && codeIn o.tys 8 15 && o.rb == 0 && rmOk o.rm
  | .fcvti o => codeIn o.ty 0 7 && codeIn o.tys 8 15 && o.rb == 0 && rmOk o.rm && o.sat == 0
  | .icvtf o => codeIn o.ty 8 15 && codeIn o.tys 0 7 && o.rb == 0 && rmOk o.rm
  | .br o => o.rd == 0 && o.fn == 0 && o.tgt.toNat < 4096
  | .brl o => o.fn == 0 && o.tgt.toNat < 4096
  | .brr o => o.rb == 0 && o.fn == 0
  | .loop o => o.rd.toNat < 6 && (if o.fn.toNat < 8 then o.fn == 0 else o.rd == 0)
  | .loopb o => o.rd == 0 && o.fn.toNat < 6 && o.tgt.toNat < 4096
  | .brswap o => o.rd == 0 && o.fn == 0 && 4096 ≤ o.tgt.toNat
  | .ifence | .spfence | .fenceSmp => true
  | .xlat o => o.rd.toNat < 16 && o.rb == 0 && o.fn == 0
  | .hrel o => o.rd.toNat < 16 && o.ra == 0 && o.rb == 0 && o.fn == 0
  | .fenceC o => o.mask != 0 && scopeOk o.sc
  | .fenceSc o => o.mask == 0 && scopeOk o.sc
  | .mfcr o => o.ra == 0 && crListed o.cr
  | .mtcr o => o.rd == 0 && crListed o.cr
  | .trap o => o.rd == 0 && o.imm.toNat < 2 ^ 16
  | .vadd o | .vsub o | .vmul o | .vfma o => vArith o
  | .vmin o | .vmax o | .vclamp o => vPlain groupA o
  | .vmulh o | .vshl o | .vshr o | .vsar o | .vperm o => vPlain isIntTy o
  | .vabs o | .vneg o => groupASigned o.ty && o.rm == 0 && vUnary o
  | .vand o | .vor o | .vxor o => vPlain groupB o
  | .vnot o => groupB o.ty && o.rm == 0 && o.sat == 0 && vUnary o
  | .vpopc o => isIntTy o.ty && o.rm == 0 && o.sat == 0 && vUnary o
  | .vcmp o => groupA o.ty && o.sat == 0 && (isFloatTy o.ty || o.rm.toNat ≤ 5) && tileOk o.td && tileOk o.ta && tileOk o.tb
  | .vsel o => vPlain groupW o
  | .vmov o => o.ty == 0 && o.rm == 0 && o.sat == 0 && vUnary o
  | .vzero o => o.ty == 0 && o.rm == 0 && o.sat == 0 && vUnary o && o.ta == 0 && o.rowa == 0
  | .viota o => (isIntTy o.ty || groupF o.ty) && o.rm == 0 && o.sat == 0 && vUnary o && o.ta == 0 && o.rowa == 0
  | .vadds o | .vsubs o | .vmuls o | .vfmas o => vsArith o
  | .vmins o | .vmaxs o => vsPlain groupA o && o.idx == 0
  | .vbcast o => vsPlain groupW o && o.idx == 0 && o.ta == 0 && o.rowa == 0
  | .vrot o => vsPlain groupW o
  | .vextr o => vsPlain groupW o && o.td == 0 && o.rowd == 0 && o.idx.toNat < elemCount o.ty
  | .vins o => vsPlain groupW o && o.ta == 0 && o.rowa == 0 && o.idx.toNat < elemCount o.ty
  | .vscale o => groupF o.ty && rmOk o.rm && o.idx.toNat ≤ 7 && tileOk o.td && tileOk o.ta
  | .vcvt o => codeIn o.ty 0 13 && codeIn o.tys 0 13 && rmFor (!(isIntTy o.ty && isIntTy o.tys)) o.rm
      && tileOk o.td && tileOk o.ta
  | .vrsum o => groupA o.ty && rmFor (isFloatTy o.ty) o.rm && vUnary o
  | .vdot o => vArith o
  | .vrmax o | .vrmin o => groupA o.ty && o.rm == 0 && o.sat == 0 && vUnary o
  | .vexp2 o | .vlog2 o | .vrcp o | .vrsq o | .vtanh o => vTrans o
  | .pmov o => o.td == 0 && o.rowd == 0 && tileOk o.ta && portAccepts o.port o.ty o.rm o.sat
  | .ptake o => o.ta == 0 && o.rowa == 0 && o.ty == 0 && o.rm == 0 && o.sat == 0 && tileOk o.td
      && 1 ≤ o.port.toNat && o.port.toNat ≤ 14
  | .mma o | .mmaz o => macOk o
  | .mout o => tileOk o.tc && tileOk o.td && outRules o.ty o.rm o.mx && (o.mx == 1 || o.kd == 0)
  | .mouts o => tileOk o.tc && outRules o.ty o.rm o.mx
  | .mzero o => tileOk o.tc && o.td == 0 && o.kd == 0 && o.ty == 0 && o.rm == 0 && o.sat == 0 && o.mx == 0
  | .rset o => o.rd == 0 && o.fn.toNat < 3
  | .rpush o => o.ra == 0 && o.rb == 0 && (o.rd == 0 || (8 ≤ o.rd.toNat && o.rd.toNat < 16))
  | .rpop o => o.rd == 0 && o.ra == 0 && o.rb == 0
  | .rget o => o.ra == 0 && o.rb == 0 && o.fn.toNat ≤ 1
  | .ldsc o => regScale o.reg
  | .lds o | .sts o => regScalar o.reg
  | .ldsr o | .stsr o => regRow o.reg
  | .ldst o | .stst o => regTile o.reg
  | .spclr _ | .spfill _ => true
  | .ldg o | .ldgAcq o | .stg o | .stgRel o => regScalar o.reg && scopeOk o.sc
  | .ldgr o | .ldgrAcq o | .stgr o | .stgrRel o => regRow o.reg && scopeOk o.sc
  | .ldgt o | .stgt o => regTile o.reg && scopeOk o.sc
  | .ldscg o => regScale o.reg && scopeOk o.sc
  | .aadd o | .amin o | .amax o | .aand o | .aor o | .axor o | .axchg o => atomOk o
  | .acas o => (codeIn o.ty 2 3 || codeIn o.ty 6 7) && scopeOk o.sc
  | .afadd o => o.ty == 8 && o.rc == 0 && scopeOk o.sc
  | .ldsmp o => tileOk o.td
  | .epush o => queueOk o.q && o.fn.toNat ≤ 1 && scopeOk o.sc
  | .epop o => queueOk o.q && o.fn.toNat ≤ 1
  | .eqstat o => queueOk o.q && o.fn == 0
  | .fdrd o => o.q.toNat < 16 && o.fn.toNat ≤ 3
  | .send o => tileOk o.ta
  | .recv o => tileOk o.ta && o.lane == 0
  | .recvadd o => tileOk o.ta && o.lane.toNat ≤ 5
  | .semadd o | .semset o => o.fn == 0 && o.rd == 0
  | .semrd o => o.ra == 0 && o.imm == 0 && o.fn == 0
  | .semwait o => o.fn.toNat ≤ 1 && o.rd == 0
  | .barc o | .barg o => barOk o
  | .ovl _ => true
  | .cpy o | .cpyt o | .cpyf o | .cpyh o | .bxch o => cmdOk o
  | .allred o | .rscat o | .agath o | .bcast o | .alltoall o | .reshard o => cmdOk o
  | .cstatReshard o => o.q.toNat < 16 && o.fn == 0
  | .cstatLinks o => o.q == 0 && o.fn == 1
  | .plq o => 8 ≤ o.q.toNat && o.q.toNat ≤ 15 && o.fn.toNat ≤ 1 && scopeOk o.sc
  | .plres o => 8 ≤ o.q.toNat % 16
  | .bundleIssue _ | .satSignalApply _ | .scalarResultLand _ _ | .rowResultLand _ _ | .walkEnd _ _ | .bankWake _
  | .portResultReady _ _ | .mmaRetire _ | .mOutputLand _ _ | .ldscWriteLand _ | .scratchpadLoadLand _ _
  | .storeReachesBank _ _ | .globalLoadReturn _ _ | .atomicReturn _ _ | .sampleLand _ _ | .sendArrival _ _
  | .barrierRelease _ _ | .ovlEnd _ | .cpyCommand _ _ | .cpytTimedStart _ | .cpyfCommand _ _ | .cpyhCommand _ _
  | .bxchCommand _ _ | .bermFaceArrival _ | .collectiveMatch _ _ | .stagingGrant _ | .sluicePacket _
  | .chunkFinish _ _ _ | .treeRecovery _ | .reshardRow _ _ | .reshardCommit _ | .query _ _ | .check _ _
  | .pumphouseNop _ | .launch _ | .waitsem _ | .sigsem _ | .sigcl _ | .waittime _ | .preempt _ | .snap _ | .inval _
  | .kill _ | .fence _ | .stamp _ | .dieSlot _ | .syncSlotEntry _ _ | .queueMapping _ | .launchPlacement _
  | .coreHalt _ | .launchEnd _ | .drainTimeout _ | .launchResume _ | .watchdog _ | .cowResolve _ | .trapResume _
  | .trapSkip _ | .trapAnswerKill _ | .qringWrite _ _ | .qptrTailWrite _ _ | .queueEnable _ _ | .queueDisable _ _
  | .hbmSplitWrite _ _ | .clkCodeWrite _ _ | .changeWindow _ _ | .regrd _ _ | .regwr _ _ | .memrd _ _ | .memwr _ _
  | .attestReport _ _ | .attestPublicKey _ _ | .flitReceive _ _ _ | .linkTraining _ _ _ | .linkDown _ _
  | .ptpMessage _ _ _ _ | .thermalEmergency _ _ | .emergencyExit _ | .boot _ _ _ _
  | .storeReachesPointOfCoherence _ _ | .launchDrain _ | .scrub _ _ | .ptpMasterLoss _ | .laneFailure _ _ => true

/-- The predicate operand fields of R57 step 4: `false` traps PRED_RESERVED (R36, R125 to R127, R130). -/
def Instr.predsOk : Instr → Bool
  | .cmp o => predDst o.rd
  | .cmpi o => predDst o.rd
  | .fcmp o => predDst o.rd
  | .sel o => predSrc (o.fn.extractLsb' 0 5)
  | .plog o => predDst o.pd && predSrc o.pa && predSrc o.pb
  | _ => true

/-- HOLD = 1 is accepted by every slot instruction but these (R44, R231). -/
def Instr.holdable : Instr → Bool
  | .br _ | .brl _ | .brr _ | .loop _ | .loopb _ | .brswap _ | .ifence | .trap _ | .ovl _ | .barc _ | .barg _
  | .aadd _ | .amin _ | .amax _ | .aand _ | .aor _ | .axor _ | .axchg _ | .acas _ | .afadd _ => false
  | _ => true

/-- A barrier bundle's word is unpredicated (R231). -/
def Instr.barrier : Instr → Bool
  | .barc _ | .barg _ => true
  | _ => false

/-- The STEP field, zero for a format that has none (R46 to R55). -/
def Instr.step : Instr → BitVec 3
  | .vadd o | .vsub o | .vmul o | .vfma o | .vmin o | .vmax o | .vabs o | .vneg o | .vclamp o | .vmulh o
  | .vand o | .vor o | .vxor o | .vnot o | .vshl o | .vshr o | .vsar o | .vpopc o | .vcmp o | .vsel o | .vmov o
  | .vzero o | .viota o | .vperm o | .vrsum o | .vdot o | .vrmax o | .vrmin o
  | .vexp2 o | .vlog2 o | .vrcp o | .vrsq o | .vtanh o => o.step
  | .vadds o | .vsubs o | .vmuls o | .vfmas o | .vmins o | .vmaxs o | .vbcast o | .vextr o | .vins o | .vrot o
  | .vscale o => o.step
  | .vcvt o => o.step
  | .pmov o | .ptake o => o.step
  | .ldsc o | .lds o | .ldsr o | .ldst o | .sts o | .stsr o | .stst o | .spclr o | .spfill o => o.step
  | .ldg o | .ldgAcq o | .ldgr o | .ldgrAcq o | .ldgt o | .ldscg o | .stg o | .stgRel o | .stgr o | .stgrRel o
  | .stgt o => o.step
  | .ldsmp o => o.step
  | .send o | .recv o | .recvadd o => o.step
  | _ => 0

/-- A slot word: its control part and its operation. -/
structure SlotWord where
  ctl : Ctl
  op  : Instr
deriving DecidableEq, Repr

/-- The checks of R57 step 3 on a whole word: the operand fields, HOLD and STEP (R44), and the control part of a
barrier (R231). -/
def SlotWord.fieldsOk (w : SlotWord) : Bool :=
  w.op.fieldsOk && (w.ctl.hold == 0 || w.op.holdable) && (w.op.step == 0 || w.ctl.hold == 1)
    && (!w.op.barrier || (w.ctl.psel == 31 && w.ctl.pn == 0))

/-- The checks of R57 step 4 on a whole word (R36). -/
def SlotWord.predsOk (w : SlotWord) : Bool :=
  (w.ctl.psel.toNat < 24 || (w.ctl.psel == 31 && w.ctl.pn == 0)) && w.op.predsOk

/-- A slot word that passes steps 3 and 4 of R57. DEDUCED, log 39. -/
def SlotWord.wf (w : SlotWord) : Bool := w.fieldsOk && w.predsOk

/-- The header values of R31 that do not trap ILLEGAL_BUNDLE. -/
def Header.wf (h : Header) : Bool :=
  h.kind.toNat < 2 && (h.sen == 0 || h.sinc != 0) && (h.sen == 1 || (h.ssem == 0 && h.sinc == 0 && h.sat == 0))
    && (h.wen == 1 || (h.wsem == 0 && h.wthr == 0 && h.wdec == 0))

end Sys2Proof
end

