-- ==== Sys2Proof/Decode.lean ====
section
/-! DEFINITION. Reading and writing the encodings of R30, R35 and R46 to R56: header words, slot words, the seven opcode
maps, total on every word, and the encoder written from the same tables. -/

namespace Sys2Proof

/-- `n` bits of a word from bit `lo` on. -/
def field {w : Nat} (b : BitVec w) (lo n : Nat) : BitVec n := b.extractLsb' lo n

/-- The weight of a field whose lowest bit stands at bit `lo`. -/
def place {n : Nat} (lo : Nat) (x : BitVec n) : Nat := x.toNat * 2 ^ lo

/-- The operand bits of a SReg word, `none` where a bit marked zero is set (R46, R57 step 2). -/
def unSReg (b : BitVec 51) : Option SReg :=
  if field b 0 30 == 0 then
    some { rd := field b 46 5, ra := field b 41 5, rb := field b 36 5, fn := field b 30 6 }
  else none
/-- The operand bits of a SReg word, written (R46). -/
def enSReg (o : SReg) : BitVec 51 :=
  BitVec.ofNat 51 (place 46 o.rd + place 41 o.ra + place 36 o.rb + place 30 o.fn)

/-- The operand bits of a SImm word, `none` where a bit marked zero is set (R46, R57 step 2). -/
def unSImm (b : BitVec 51) : Option SImm :=
  some { rd := field b 46 5, ra := field b 41 5, fn := field b 37 4, imm := field b 0 37 }
/-- The operand bits of a SImm word, written (R46). -/
def enSImm (o : SImm) : BitVec 51 :=
  BitVec.ofNat 51 (place 46 o.rd + place 41 o.ra + place 37 o.fn + place 0 o.imm)

/-- The operand bits of a SWide word, `none` where a bit marked zero is set (R46, R57 step 2). -/
def unSWide (b : BitVec 51) : Option SWide :=
  some { rd := field b 46 5, imm := field b 0 46 }
/-- The operand bits of a SWide word, written (R46). -/
def enSWide (o : SWide) : BitVec 51 :=
  BitVec.ofNat 51 (place 46 o.rd + place 0 o.imm)

/-- The operand bits of a SFloat word, `none` where a bit marked zero is set (R46, R57 step 2). -/
def unSFloat (b : BitVec 51) : Option SFloat :=
  if field b 0 22 == 0 then
    some { rd := field b 46 5, ra := field b 41 5, rb := field b 36 5, ty := field b 31 5, tys := field b 26 5, rm := field b 23 3, sat := field b 22 1 }
  else none
/-- The operand bits of a SFloat word, written (R46). -/
def enSFloat (o : SFloat) : BitVec 51 :=
  BitVec.ofNat 51 (place 46 o.rd + place 41 o.ra + place 36 o.rb + place 31 o.ty + place 26 o.tys + place 23 o.rm + place 22 o.sat)

/-- The operand bits of a SPred word, `none` where a bit marked zero is set (R46, R57 step 2). -/
def unSPred (b : BitVec 51) : Option SPred :=
  if field b 0 32 == 0 then
    some { pd := field b 46 5, pa := field b 41 5, pb := field b 36 5, tt := field b 32 4 }
  else none
/-- The operand bits of a SPred word, written (R46). -/
def enSPred (o : SPred) : BitVec 51 :=
  BitVec.ofNat 51 (place 46 o.pd + place 41 o.pa + place 36 o.pb + place 32 o.tt)

/-- The operand bits of a SBranch word, `none` where a bit marked zero is set (R46, R57 step 2). -/
def unSBranch (b : BitVec 51) : Option SBranch :=
  if field b 13 29 == 0 then
    some { rd := field b 46 5, fn := field b 42 4, tgt := field b 0 13 }
  else none
/-- The operand bits of a SBranch word, written (R46). -/
def enSBranch (o : SBranch) : BitVec 51 :=
  BitVec.ofNat 51 (place 46 o.rd + place 42 o.fn + place 0 o.tgt)

/-- The operand bits of a SFence word, `none` where a bit marked zero is set (R46, R57 step 2). -/
def unSFence (b : BitVec 51) : Option SFence :=
  if field b 0 32 == 0 then
    some { mask := field b 35 16, sc := field b 32 3 }
  else none
/-- The operand bits of a SFence word, written (R46). -/
def enSFence (o : SFence) : BitVec 51 :=
  BitVec.ofNat 51 (place 35 o.mask + place 32 o.sc)

/-- The operand bits of a SCtl word, `none` where a bit marked zero is set (R46, R57 step 2). -/
def unSCtl (b : BitVec 51) : Option SCtl :=
  if field b 0 29 == 0 then
    some { rd := field b 46 5, ra := field b 41 5, cr := field b 29 12 }
  else none
/-- The operand bits of a SCtl word, written (R46). -/
def enSCtl (o : SCtl) : BitVec 51 :=
  BitVec.ofNat 51 (place 46 o.rd + place 41 o.ra + place 29 o.cr)

/-- The operand bits of a VThree word, `none` where a bit marked zero is set (R48, R57 step 2). -/
def unVThree (b : BitVec 51) : Option VThree :=
  some { td := field b 43 8, rowd := field b 38 5, ta := field b 30 8, rowa := field b 25 5, tb := field b 17 8, rowb := field b 12 5, ty := field b 7 5, rm := field b 4 3, sat := field b 3 1, step := field b 0 3 }
/-- The operand bits of a VThree word, written (R48). -/
def enVThree (o : VThree) : BitVec 51 :=
  BitVec.ofNat 51 (place 43 o.td + place 38 o.rowd + place 30 o.ta + place 25 o.rowa + place 17 o.tb + place 12 o.rowb + place 7 o.ty + place 4 o.rm + place 3 o.sat + place 0 o.step)

/-- The operand bits of a VScalar word, `none` where a bit marked zero is set (R48, R57 step 2). -/
def unVScalar (b : BitVec 51) : Option VScalar :=
  some { td := field b 43 8, rowd := field b 38 5, ta := field b 30 8, rowa := field b 25 5, sb := field b 20 5, idx := field b 12 8, ty := field b 7 5, rm := field b 4 3, sat := field b 3 1, step := field b 0 3 }
/-- The operand bits of a VScalar word, written (R48). -/
def enVScalar (o : VScalar) : BitVec 51 :=
  BitVec.ofNat 51 (place 43 o.td + place 38 o.rowd + place 30 o.ta + place 25 o.rowa + place 20 o.sb + place 12 o.idx + place 7 o.ty + place 4 o.rm + place 3 o.sat + place 0 o.step)

/-- The operand bits of a VConv word, `none` where a bit marked zero is set (R48, R57 step 2). -/
def unVConv (b : BitVec 51) : Option VConv :=
  if field b 12 8 == 0 then
    some { td := field b 43 8, rowd := field b 38 5, ta := field b 30 8, rowa := field b 25 5, tys := field b 20 5, ty := field b 7 5, rm := field b 4 3, sat := field b 3 1, step := field b 0 3 }
  else none
/-- The operand bits of a VConv word, written (R48). -/
def enVConv (o : VConv) : BitVec 51 :=
  BitVec.ofNat 51 (place 43 o.td + place 38 o.rowd + place 30 o.ta + place 25 o.rowa + place 20 o.tys + place 7 o.ty + place 4 o.rm + place 3 o.sat + place 0 o.step)

/-- The operand bits of a VPort word, `none` where a bit marked zero is set (R48, R57 step 2). -/
def unVPort (b : BitVec 51) : Option VPort :=
  if field b 12 5 == 0 then
    some { td := field b 43 8, rowd := field b 38 5, ta := field b 30 8, rowa := field b 25 5, port := field b 17 8, ty := field b 7 5, rm := field b 4 3, sat := field b 3 1, step := field b 0 3 }
  else none
/-- The operand bits of a VPort word, written (R48). -/
def enVPort (o : VPort) : BitVec 51 :=
  BitVec.ofNat 51 (place 43 o.td + place 38 o.rowd + place 30 o.ta + place 25 o.rowa + place 17 o.port + place 7 o.ty + place 4 o.rm + place 3 o.sat + place 0 o.step)

/-- The operand bits of a MMac word, `none` where a bit marked zero is set (R50, R57 step 2). -/
def unMMac (b : BitVec 51) : Option MMac :=
  if field b 0 19 == 0 then
    some { tc := field b 43 8, rga := field b 40 3, rgb := field b 37 3, fa := field b 32 5, fb := field b 27 5, ka := field b 23 4, kb := field b 19 4 }
  else none
/-- The operand bits of a MMac word, written (R50). -/
def enMMac (o : MMac) : BitVec 51 :=
  BitVec.ofNat 51 (place 43 o.tc + place 40 o.rga + place 37 o.rgb + place 32 o.fa + place 27 o.fb + place 23 o.ka + place 19 o.kb)

/-- The operand bits of a MOut word, `none` where a bit marked zero is set (R50, R57 step 2). -/
def unMOut (b : BitVec 51) : Option MOut :=
  if field b 0 21 == 0 then
    some { tc := field b 43 8, td := field b 35 8, kd := field b 31 4, ty := field b 26 5, rm := field b 23 3, sat := field b 22 1, mx := field b 21 1 }
  else none
/-- The operand bits of a MOut word, written (R50). -/
def enMOut (o : MOut) : BitVec 51 :=
  BitVec.ofNat 51 (place 43 o.tc + place 35 o.td + place 31 o.kd + place 26 o.ty + place 23 o.rm + place 22 o.sat + place 21 o.mx)

/-- The operand bits of a MOuts word, `none` where a bit marked zero is set (R50, R57 step 2). -/
def unMOuts (b : BitVec 51) : Option MOuts :=
  if field b 0 4 == 0 then
    some { tc := field b 43 8, ra := field b 38 5, imm := field b 14 24, ty := field b 9 5, rm := field b 6 3, sat := field b 5 1, mx := field b 4 1 }
  else none
/-- The operand bits of a MOuts word, written (R50). -/
def enMOuts (o : MOuts) : BitVec 51 :=
  BitVec.ofNat 51 (place 43 o.tc + place 38 o.ra + place 14 o.imm + place 9 o.ty + place 6 o.rm + place 5 o.sat + place 4 o.mx)

/-- The operand bits of a MRing word, `none` where a bit marked zero is set (R50, R57 step 2). -/
def unMRing (b : BitVec 51) : Option MRing :=
  if field b 0 29 == 0 then
    some { ring := field b 48 3, rd := field b 43 5, ra := field b 38 5, rb := field b 33 5, fn := field b 29 4 }
  else none
/-- The operand bits of a MRing word, written (R50). -/
def enMRing (o : MRing) : BitVec 51 :=
  BitVec.ofNat 51 (place 48 o.ring + place 43 o.rd + place 38 o.ra + place 33 o.rb + place 29 o.fn)

/-- The operand bits of a GFmt word, `none` where a bit marked zero is set (R52, R57 step 2). -/
def unGFmt (b : BitVec 51) : Option GFmt :=
  some { reg := field b 38 13, h := field b 34 4, ro := field b 29 5, cls := field b 25 4, sc := field b 22 3, off := field b 3 19, step := field b 0 3 }
/-- The operand bits of a GFmt word, written (R52). -/
def enGFmt (o : GFmt) : BitVec 51 :=
  BitVec.ofNat 51 (place 38 o.reg + place 34 o.h + place 29 o.ro + place 25 o.cls + place 22 o.sc + place 3 o.off + place 0 o.step)

/-- The operand bits of a PFmt word, `none` where a bit marked zero is set (R52, R57 step 2). -/
def unPFmt (b : BitVec 51) : Option PFmt :=
  if field b 3 6 == 0 then
    some { reg := field b 38 13, ra := field b 33 5, imm := field b 9 24, step := field b 0 3 }
  else none
/-- The operand bits of a PFmt word, written (R52). -/
def enPFmt (o : PFmt) : BitVec 51 :=
  BitVec.ofNat 51 (place 38 o.reg + place 33 o.ra + place 9 o.imm + place 0 o.step)

/-- The operand bits of a AFmt word, `none` where a bit marked zero is set (R52, R57 step 2). -/
def unAFmt (b : BitVec 51) : Option AFmt :=
  if field b 0 3 == 0 then
    some { rd := field b 46 5, rb := field b 41 5, rc := field b 36 5, h := field b 32 4, ro := field b 27 5, cls := field b 23 4, sc := field b 20 3, ty := field b 15 5, off := field b 3 12 }
  else none
/-- The operand bits of a AFmt word, written (R52). -/
def enAFmt (o : AFmt) : BitVec 51 :=
  BitVec.ofNat 51 (place 46 o.rd + place 41 o.rb + place 36 o.rc + place 32 o.h + place 27 o.ro + place 23 o.cls + place 20 o.sc + place 15 o.ty + place 3 o.off)

/-- The operand bits of a QFmt word, `none` where a bit marked zero is set (R52, R57 step 2). -/
def unQFmt (b : BitVec 51) : Option QFmt :=
  if field b 3 14 == 0 then
    some { td := field b 43 8, rowd := field b 38 5, fd := field b 34 4, sx := field b 29 5, sy := field b 24 5, sz := field b 19 5, filt := field b 18 1, amode := field b 17 1, step := field b 0 3 }
  else none
/-- The operand bits of a QFmt word, written (R52). -/
def enQFmt (o : QFmt) : BitVec 51 :=
  BitVec.ofNat 51 (place 43 o.td + place 38 o.rowd + place 34 o.fd + place 29 o.sx + place 24 o.sy + place 19 o.sz + place 18 o.filt + place 17 o.amode + place 0 o.step)

/-- The operand bits of a XCmd word, `none` where a bit marked zero is set (R55, R57 step 2). -/
def unXCmd (b : BitVec 51) : Option XCmd :=
  if field b 0 12 == 0 then
    some { q := field b 45 6, ra := field b 40 5, rb := field b 35 5, mask := field b 19 16, sc := field b 16 3, fn := field b 12 4 }
  else none
/-- The operand bits of a XCmd word, written (R55). -/
def enXCmd (o : XCmd) : BitVec 51 :=
  BitVec.ofNat 51 (place 45 o.q + place 40 o.ra + place 35 o.rb + place 19 o.mask + place 16 o.sc + place 12 o.fn)

/-- The operand bits of a XPop word, `none` where a bit marked zero is set (R55, R57 step 2). -/
def unXPop (b : BitVec 51) : Option XPop :=
  if field b 0 36 == 0 then
    some { rd := field b 46 5, q := field b 40 6, fn := field b 36 4 }
  else none
/-- The operand bits of a XPop word, written (R55). -/
def enXPop (o : XPop) : BitVec 51 :=
  BitVec.ofNat 51 (place 46 o.rd + place 40 o.q + place 36 o.fn)

/-- The operand bits of a XSem word, `none` where a bit marked zero is set (R55, R57 step 2). -/
def unXSem (b : BitVec 51) : Option XSem :=
  if field b 0 13 == 0 then
    some { sem := field b 43 8, ra := field b 38 5, imm := field b 22 16, fn := field b 18 4, rd := field b 13 5 }
  else none
/-- The operand bits of a XSem word, written (R55). -/
def enXSem (o : XSem) : BitVec 51 :=
  BitVec.ofNat 51 (place 43 o.sem + place 38 o.ra + place 22 o.imm + place 18 o.fn + place 13 o.rd)

/-- The operand bits of a XP2p word, `none` where a bit marked zero is set (R55, R57 step 2). -/
def unXP2p (b : BitVec 51) : Option XP2p :=
  if field b 3 6 == 0 then
    some { lane := field b 48 3, ta := field b 40 8, rowa := field b 35 5, ra := field b 30 5, imm := field b 9 21, step := field b 0 3 }
  else none
/-- The operand bits of a XP2p word, written (R55). -/
def enXP2p (o : XP2p) : BitVec 51 :=
  BitVec.ofNat 51 (place 48 o.lane + place 40 o.ta + place 35 o.rowa + place 30 o.ra + place 9 o.imm + place 0 o.step)

/-- The operand bits of a XOvl word, `none` where a bit marked zero is set (R55, R57 step 2). -/
def unXOvl (b : BitVec 51) : Option XOvl :=
  if field b 0 36 == 0 then
    some { half := field b 50 1, h := field b 46 4, ra := field b 41 5, rd := field b 36 5 }
  else none
/-- The operand bits of a XOvl word, written (R55). -/
def enXOvl (o : XOvl) : BitVec 51 :=
  BitVec.ofNat 51 (place 50 o.half + place 46 o.h + place 41 o.ra + place 36 o.rd)

/-- A word of a "none" format: all operand bits zero (R46, R48, R50, R55). -/
def unNone (b : BitVec 51) (i : Instr) : Option Instr := if b == 0 then some i else none

/-- The S map (R47); NOP is in `opMap`. -/
def mapS (op : Nat) (b : BitVec 51) : Option Instr :=
  match op with
  | 0x01 => (unSReg b).map .add
  | 0x02 => (unSReg b).map .sub
  | 0x03 => (unSReg b).map .mul
  | 0x04 => (unSReg b).map .mulh
  | 0x05 => (unSReg b).map .div
  | 0x06 => (unSReg b).map .rem
  | 0x07 => (unSImm b).map .addi
  | 0x08 => (unSReg b).map .and
  | 0x09 => (unSReg b).map .or
  | 0x0A => (unSReg b).map .xor
  | 0x0B => (unSReg b).map .shl
  | 0x0C => (unSReg b).map .shr
  | 0x0D => (unSReg b).map .sar
  | 0x0E => (unSImm b).map .andi
  | 0x0F => (unSImm b).map .ori
  | 0x10 => (unSImm b).map .xori
  | 0x11 => (unSImm b).map .shli
  | 0x12 => (unSImm b).map .shri
  | 0x13 => (unSImm b).map .sari
  | 0x14 => (unSReg b).map .min
  | 0x15 => (unSReg b).map .max
  | 0x16 => (unSReg b).map .clz
  | 0x17 => (unSReg b).map .popc
  | 0x18 => (unSWide b).map .movi
  | 0x19 => (unSWide b).map .movhi
  | 0x1A => (unSReg b).map .sel
  | 0x1B => (unSReg b).map .cmp
  | 0x1C => (unSImm b).map .cmpi
  | 0x1D => (unSPred b).map .plog
  | 0x1E => (unSReg b).map .pget
  | 0x1F => (unSReg b).map .pset
  | 0x20 => (unSFloat b).map .fadd
  | 0x21 => (unSFloat b).map .fsub
  | 0x22 => (unSFloat b).map .fmul
  | 0x23 => (unSFloat b).map .ffma
  | 0x24 => (unSFloat b).map .fdiv
  | 0x25 => (unSFloat b).map .fsqrt
  | 0x26 => (unSFloat b).map .fmin
  | 0x27 => (unSFloat b).map .fmax
  | 0x28 => (unSFloat b).map .fcmp
  | 0x29 => (unSFloat b).map .fcvt
  | 0x2A => (unSFloat b).map .fcvti
  | 0x2B => (unSFloat b).map .icvtf
  | 0x2C => (unSBranch b).map .br
  | 0x2D => (unSBranch b).map .brl
  | 0x2E => (unSReg b).map .brr
  | 0x2F => (unSImm b).map .loop
  | 0x30 => (unSBranch b).map .loopb
  | 0x31 => (unSBranch b).map .brswap
  | 0x32 => unNone b .ifence
  | 0x33 => (unSReg b).map .xlat
  | 0x34 => (unSReg b).map .hrel
  | 0x35 => (unSFence b).map .fenceC
  | 0x36 => (unSFence b).map .fenceSc
  | 0x37 => unNone b .spfence
  | 0x38 => unNone b .fenceSmp
  | 0x39 => (unSCtl b).map .mfcr
  | 0x3A => (unSCtl b).map .mtcr
  | 0x3B => (unSWide b).map .trap
  | _ => none

/-- The V map (R49). -/
def mapV (op : Nat) (b : BitVec 51) : Option Instr :=
  match op with
  | 0x01 => (unVThree b).map .vadd
  | 0x02 => (unVThree b).map .vsub
  | 0x03 => (unVThree b).map .vmul
  | 0x04 => (unVThree b).map .vfma
  | 0x05 => (unVThree b).map .vmin
  | 0x06 => (unVThree b).map .vmax
  | 0x07 => (unVThree b).map .vabs
  | 0x08 => (unVThree b).map .vneg
  | 0x09 => (unVScalar b).map .vadds
  | 0x0A => (unVScalar b).map .vsubs
  | 0x0B => (unVScalar b).map .vmuls
  | 0x0C => (unVScalar b).map .vfmas
  | 0x0D => (unVScalar b).map .vmins
  | 0x0E => (unVScalar b).map .vmaxs
  | 0x0F => (unVThree b).map .vclamp
  | 0x10 => (unVThree b).map .vand
  | 0x11 => (unVThree b).map .vor
  | 0x12 => (unVThree b).map .vxor
  | 0x13 => (unVThree b).map .vnot
  | 0x14 => (unVThree b).map .vshl
  | 0x15 => (unVThree b).map .vshr
  | 0x16 => (unVThree b).map .vsar
  | 0x17 => (unVThree b).map .vpopc
  | 0x18 => (unVThree b).map .vcmp
  | 0x19 => (unVThree b).map .vsel
  | 0x1A => (unVThree b).map .vmov
  | 0x1B => (unVThree b).map .vzero
  | 0x1C => (unVThree b).map .viota
  | 0x1D => (unVScalar b).map .vbcast
  | 0x1E => (unVScalar b).map .vextr
  | 0x1F => (unVScalar b).map .vins
  | 0x20 => (unVConv b).map .vcvt
  | 0x21 => (unVThree b).map .vperm
  | 0x22 => (unVScalar b).map .vrot
  | 0x23 => (unVThree b).map .vmulh
  | 0x24 => (unVScalar b).map .vscale
  | 0x28 => (unVThree b).map .vrsum
  | 0x29 => (unVThree b).map .vdot
  | 0x2A => (unVThree b).map .vrmax
  | 0x2B => (unVThree b).map .vrmin
  | 0x30 => (unVThree b).map .vexp2
  | 0x31 => (unVThree b).map .vlog2
  | 0x32 => (unVThree b).map .vrcp
  | 0x33 => (unVThree b).map .vrsq
  | 0x34 => (unVThree b).map .vtanh
  | 0x38 => (unVPort b).map .pmov
  | 0x39 => (unVPort b).map .ptake
  | _ => none

/-- The M map (R51). -/
def mapM (op : Nat) (b : BitVec 51) : Option Instr :=
  match op with
  | 0x01 => (unMMac b).map .mma
  | 0x02 => (unMMac b).map .mmaz
  | 0x03 => (unMOut b).map .mout
  | 0x04 => (unMOuts b).map .mouts
  | 0x05 => (unMOut b).map .mzero
  | 0x06 => (unMRing b).map .rset
  | 0x07 => (unMRing b).map .rpush
  | 0x08 => (unMRing b).map .rpop
  | 0x09 => (unMRing b).map .rget
  | _ => none

/-- The L map (R53). -/
def mapL (op : Nat) (b : BitVec 51) : Option Instr :=
  match op with
  | 0x01 => (unGFmt b).map .ldg
  | 0x02 => (unGFmt b).map .ldgAcq
  | 0x03 => (unGFmt b).map .ldgr
  | 0x04 => (unGFmt b).map .ldgrAcq
  | 0x05 => (unGFmt b).map .ldgt
  | 0x06 => (unPFmt b).map .lds
  | 0x07 => (unPFmt b).map .ldsr
  | 0x08 => (unPFmt b).map .ldst
  | 0x09 => (unPFmt b).map .ldsc
  | 0x0A => (unGFmt b).map .ldscg
  | 0x0B => (unQFmt b).map .ldsmp
  | _ => none

/-- The T map (R54). -/
def mapT (op : Nat) (b : BitVec 51) : Option Instr :=
  match op with
  | 0x01 => (unGFmt b).map .stg
  | 0x02 => (unGFmt b).map .stgRel
  | 0x03 => (unGFmt b).map .stgr
  | 0x04 => (unGFmt b).map .stgrRel
  | 0x05 => (unGFmt b).map .stgt
  | 0x06 => (unPFmt b).map .sts
  | 0x07 => (unPFmt b).map .stsr
  | 0x08 => (unPFmt b).map .stst
  | 0x09 => (unPFmt b).map .spclr
  | 0x0A => (unPFmt b).map .spfill
  | 0x10 => (unAFmt b).map .aadd
  | 0x11 => (unAFmt b).map .amin
  | 0x12 => (unAFmt b).map .amax
  | 0x13 => (unAFmt b).map .aand
  | 0x14 => (unAFmt b).map .aor
  | 0x15 => (unAFmt b).map .axor
  | 0x16 => (unAFmt b).map .axchg
  | 0x17 => (unAFmt b).map .acas
  | 0x18 => (unAFmt b).map .afadd
  | _ => none

/-- The X map (R56); the two forms of CSTAT are told apart by FN (R374). -/
def mapX (op : Nat) (b : BitVec 51) : Option Instr :=
  match op with
  | 0x01 => (unXCmd b).map .epush
  | 0x02 => (unXPop b).map .epop
  | 0x03 => (unXPop b).map .eqstat
  | 0x04 => (unXP2p b).map .send
  | 0x05 => (unXP2p b).map .recv
  | 0x06 => (unXP2p b).map .recvadd
  | 0x08 => (unXSem b).map .semadd
  | 0x09 => (unXSem b).map .semset
  | 0x0A => (unXSem b).map .semrd
  | 0x0B => (unXSem b).map .semwait
  | 0x0C => (unXSem b).map .barc
  | 0x0D => (unXSem b).map .barg
  | 0x0E => (unXOvl b).map .ovl
  | 0x10 => (unXCmd b).map .cpy
  | 0x11 => (unXCmd b).map .cpyt
  | 0x12 => (unXCmd b).map .cpyf
  | 0x13 => (unXCmd b).map .cpyh
  | 0x14 => (unXCmd b).map .bxch
  | 0x15 => (unXPop b).map .fdrd
  | 0x18 => (unXCmd b).map .allred
  | 0x19 => (unXCmd b).map .rscat
  | 0x1A => (unXCmd b).map .agath
  | 0x1B => (unXCmd b).map .bcast
  | 0x1C => (unXCmd b).map .alltoall
  | 0x1D => (unXCmd b).map .reshard
  | 0x1E => unXPop b >>= fun o => if o.fn == 0 then some (.cstatReshard o) else if o.fn == 1 then some (.cstatLinks o) else none
  | 0x20 => (unXCmd b).map .plq
  | 0x21 => (unXPop b).map .plres
  | _ => none

/-- The operation of a slot's word by its OP and operand bits; `none` for a dash of the map or a bit marked zero that is
set (R57 steps 1 and 2). OP 0 is NOP in every slot (R58). -/
def opMap (slot : Slot) (op : Nat) (b : BitVec 51) : Option Instr :=
  if op == 0 then unNone b (.nop slot) else
  match slot with
  | .s => mapS op b
  | .v0 | .v1 => mapV op b
  | .m => mapM op b
  | .l => mapL op b
  | .t => mapT op b
  | .x => mapX op b

/-- The control part and the operation of a slot word, before any check of its fields (R35). -/
def readSlot (slot : Slot) (w : W64) : Option SlotWord :=
  (opMap slot (field w 58 6).toNat (field w 0 51)).map fun i =>
    { ctl := { hold := field w 57 1, pn := field w 56 1, psel := field w 51 5 }, op := i }

/-- The decode of one slot word, total: steps 1 to 4 of R57. -/
def decodeSlot (slot : Slot) (w : W64) : Except DecTrap SlotWord :=
  match readSlot slot w with
  | none => .error .illegalSlot
  | some sw =>
    if !sw.fieldsOk then .error .illegalSlot
    else if !sw.predsOk then .error .predReserved
    else .ok sw

/-- The fields of a header word (R30). -/
def readHeader (w : W64) : Header :=
  { kind := field w 40 2, sat := field w 39 1, sinc := field w 35 4, ssem := field w 27 8, sen := field w 26 1,
    wdec := field w 25 1, wthr := field w 17 8, wsem := field w 9 8, wen := field w 8 1, mark := field w 7 1,
    pres := field w 0 7 }

/-- The decode of a header word: `none` traps ILLEGAL_BUNDLE (R31). -/
def decodeHeader (w : W64) : Option Header :=
  if field w 42 22 == 0 && (readHeader w).wf then some (readHeader w) else none

/-- A header word, written (R30). -/
def encodeHeader (h : Header) : W64 :=
  BitVec.ofNat 64 (place 40 h.kind + place 39 h.sat + place 35 h.sinc + place 27 h.ssem + place 26 h.sen
    + place 25 h.wdec + place 17 h.wthr + place 9 h.wsem + place 8 h.wen + place 7 h.mark + place 0 h.pres)

/-- OP and operand bits of a slot instruction, written (R46 to R56); `none` for a step that is no slot instruction. -/
def encodeOp : Instr → Option (BitVec 6 × BitVec 51)
  | .nop _ => some (0x00, 0)
  | .add o => some (0x01, enSReg o)
  | .sub o => some (0x02, enSReg o)
  | .mul o => some (0x03, enSReg o)
  | .mulh o => some (0x04, enSReg o)
  | .div o => some (0x05, enSReg o)
  | .rem o => some (0x06, enSReg o)
  | .addi o => some (0x07, enSImm o)
  | .and o => some (0x08, enSReg o)
  | .or o => some (0x09, enSReg o)
  | .xor o => some (0x0A, enSReg o)
  | .shl o => some (0x0B, enSReg o)
  | .shr o => some (0x0C, enSReg o)
  | .sar o => some (0x0D, enSReg o)
  | .andi o => some (0x0E, enSImm o)
  | .ori o => some (0x0F, enSImm o)
  | .xori o => some (0x10, enSImm o)
  | .shli o => some (0x11, enSImm o)
  | .shri o => some (0x12, enSImm o)
  | .sari o => some (0x13, enSImm o)
  | .min o => some (0x14, enSReg o)
  | .max o => some (0x15, enSReg o)
  | .clz o => some (0x16, enSReg o)
  | .popc o => some (0x17, enSReg o)
  | .movi o => some (0x18, enSWide o)
  | .movhi o => some (0x19, enSWide o)
  | .sel o => some (0x1A, enSReg o)
  | .cmp o => some (0x1B, enSReg o)
  | .cmpi o => some (0x1C, enSImm o)
  | .plog o => some (0x1D, enSPred o)
  | .pget o => some (0x1E, enSReg o)
  | .pset o => some (0x1F, enSReg o)
  | .fadd o => some (0x20, enSFloat o)
  | .fsub o => some (0x21, enSFloat o)
  | .fmul o => some (0x22, enSFloat o)
  | .ffma o => some (0x23, enSFloat o)
  | .fdiv o => some (0x24, enSFloat o)
  | .fsqrt o => some (0x25, enSFloat o)
  | .fmin o => some (0x26, enSFloat o)
  | .fmax o => some (0x27, enSFloat o)
  | .fcmp o => some (0x28, enSFloat o)
  | .fcvt o => some (0x29, enSFloat o)
  | .fcvti o => some (0x2A, enSFloat o)
  | .icvtf o => some (0x2B, enSFloat o)
  | .br o => some (0x2C, enSBranch o)
  | .brl o => some (0x2D, enSBranch o)
  | .brr o => some (0x2E, enSReg o)
  | .loop o => some (0x2F, enSImm o)
  | .loopb o => some (0x30, enSBranch o)
  | .brswap o => some (0x31, enSBranch o)
  | .ifence => some (0x32, 0)
  | .xlat o => some (0x33, enSReg o)
  | .hrel o => some (0x34, enSReg o)
  | .fenceC o => some (0x35, enSFence o)
  | .fenceSc o => some (0x36, enSFence o)
  | .spfence => some (0x37, 0)
  | .fenceSmp => some (0x38, 0)
  | .mfcr o => some (0x39, enSCtl o)
  | .mtcr o => some (0x3A, enSCtl o)
  | .trap o => some (0x3B, enSWide o)
  | .vadd o => some (0x01, enVThree o)
  | .vsub o => some (0x02, enVThree o)
  | .vmul o => some (0x03, enVThree o)
  | .vfma o => some (0x04, enVThree o)
  | .vmin o => some (0x05, enVThree o)
  | .vmax o => some (0x06, enVThree o)
  | .vabs o => some (0x07, enVThree o)
  | .vneg o => some (0x08, enVThree o)
  | .vadds o => some (0x09, enVScalar o)
  | .vsubs o => some (0x0A, enVScalar o)
  | .vmuls o => some (0x0B, enVScalar o)
  | .vfmas o => some (0x0C, enVScalar o)
  | .vmins o => some (0x0D, enVScalar o)
  | .vmaxs o => some (0x0E, enVScalar o)
  | .vclamp o => some (0x0F, enVThree o)
  | .vand o => some (0x10, enVThree o)
  | .vor o => some (0x11, enVThree o)
  | .vxor o => some (0x12, enVThree o)
  | .vnot o => some (0x13, enVThree o)
  | .vshl o => some (0x14, enVThree o)
  | .vshr o => some (0x15, enVThree o)
  | .vsar o => some (0x16, enVThree o)
  | .vpopc o => some (0x17, enVThree o)
  | .vcmp o => some (0x18, enVThree o)
  | .vsel o => some (0x19, enVThree o)
  | .vmov o => some (0x1A, enVThree o)
  | .vzero o => some (0x1B, enVThree o)
  | .viota o => some (0x1C, enVThree o)
  | .vbcast o => some (0x1D, enVScalar o)
  | .vextr o => some (0x1E, enVScalar o)
  | .vins o => some (0x1F, enVScalar o)
  | .vcvt o => some (0x20, enVConv o)
  | .vperm o => some (0x21, enVThree o)
  | .vrot o => some (0x22, enVScalar o)
  | .vmulh o => some (0x23, enVThree o)
  | .vscale o => some (0x24, enVScalar o)
  | .vrsum o => some (0x28, enVThree o)
  | .vdot o => some (0x29, enVThree o)
  | .vrmax o => some (0x2A, enVThree o)
  | .vrmin o => some (0x2B, enVThree o)
  | .vexp2 o => some (0x30, enVThree o)
  | .vlog2 o => some (0x31, enVThree o)
  | .vrcp o => some (0x32, enVThree o)
  | .vrsq o => some (0x33, enVThree o)
  | .vtanh o => some (0x34, enVThree o)
  | .pmov o => some (0x38, enVPort o)
  | .ptake o => some (0x39, enVPort o)
  | .mma o => some (0x01, enMMac o)
  | .mmaz o => some (0x02, enMMac o)
  | .mout o => some (0x03, enMOut o)
  | .mouts o => some (0x04, enMOuts o)
  | .mzero o => some (0x05, enMOut o)
  | .rset o => some (0x06, enMRing o)
  | .rpush o => some (0x07, enMRing o)
  | .rpop o => some (0x08, enMRing o)
  | .rget o => some (0x09, enMRing o)
  | .ldg o => some (0x01, enGFmt o)
  | .ldgAcq o => some (0x02, enGFmt o)
  | .ldgr o => some (0x03, enGFmt o)
  | .ldgrAcq o => some (0x04, enGFmt o)
  | .ldgt o => some (0x05, enGFmt o)
  | .lds o => some (0x06, enPFmt o)
  | .ldsr o => some (0x07, enPFmt o)
  | .ldst o => some (0x08, enPFmt o)
  | .ldsc o => some (0x09, enPFmt o)
  | .ldscg o => some (0x0A, enGFmt o)
  | .ldsmp o => some (0x0B, enQFmt o)
  | .stg o => some (0x01, enGFmt o)
  | .stgRel o => some (0x02, enGFmt o)
  | .stgr o => some (0x03, enGFmt o)
  | .stgrRel o => some (0x04, enGFmt o)
  | .stgt o => some (0x05, enGFmt o)
  | .sts o => some (0x06, enPFmt o)
  | .stsr o => some (0x07, enPFmt o)
  | .stst o => some (0x08, enPFmt o)
  | .spclr o => some (0x09, enPFmt o)
  | .spfill o => some (0x0A, enPFmt o)
  | .aadd o => some (0x10, enAFmt o)
  | .amin o => some (0x11, enAFmt o)
  | .amax o => some (0x12, enAFmt o)
  | .aand o => some (0x13, enAFmt o)
  | .aor o => some (0x14, enAFmt o)
  | .axor o => some (0x15, enAFmt o)
  | .axchg o => some (0x16, enAFmt o)
  | .acas o => some (0x17, enAFmt o)
  | .afadd o => some (0x18, enAFmt o)
  | .epush o => some (0x01, enXCmd o)
  | .epop o => some (0x02, enXPop o)
  | .eqstat o => some (0x03, enXPop o)
  | .send o => some (0x04, enXP2p o)
  | .recv o => some (0x05, enXP2p o)
  | .recvadd o => some (0x06, enXP2p o)
  | .semadd o => some (0x08, enXSem o)
  | .semset o => some (0x09, enXSem o)
  | .semrd o => some (0x0A, enXSem o)
  | .semwait o => some (0x0B, enXSem o)
  | .barc o => some (0x0C, enXSem o)
  | .barg o => some (0x0D, enXSem o)
  | .ovl o => some (0x0E, enXOvl o)
  | .cpy o => some (0x10, enXCmd o)
  | .cpyt o => some (0x11, enXCmd o)
  | .cpyf o => some (0x12, enXCmd o)
  | .cpyh o => some (0x13, enXCmd o)
  | .bxch o => some (0x14, enXCmd o)
  | .fdrd o => some (0x15, enXPop o)
  | .allred o => some (0x18, enXCmd o)
  | .rscat o => some (0x19, enXCmd o)
  | .agath o => some (0x1A, enXCmd o)
  | .bcast o => some (0x1B, enXCmd o)
  | .alltoall o => some (0x1C, enXCmd o)
  | .reshard o => some (0x1D, enXCmd o)
  | .cstatReshard o => some (0x1E, enXPop o)
  | .cstatLinks o => some (0x1E, enXPop o)
  | .plq o => some (0x20, enXCmd o)
  | .plres o => some (0x21, enXPop o)
  | .bundleIssue _ | .satSignalApply _ | .scalarResultLand _ _ | .rowResultLand _ _ | .walkEnd _ _ | .bankWake _
  | .portResultReady _ _ | .mmaRetire _ | .mOutputLand _ _ | .ldscWriteLand _ | .scratchpadLoadLand _ _
  | .storeReachesBank _ _ | .globalLoadReturn _ _ | .atomicReturn _ _ | .sampleLand _ _ | .sendArrival _ _
  | .barrierRelease _ _ | .ovlEnd _ | .cpyCommand _ _ | .cpytTimedStart _ | .cpyfCommand _ _ | .cpyhCommand _ _
  | .bxchCommand _ _ | .bermFaceArrival _ | .collectiveMatch _ _ | .stagingGrant _ | .sluicePacket _
  | .chunkFinish _ _ _ | .treeRecovery _ | .reshardRow _ _ | .reshardCommit _ | .query _ _ | .check _ _
  | .pumphouseNop _ | .launch _ | .waitsem _ | .sigsem _ | .sigcl _ | .waittime _ | .preempt _ | .snap _ | .inval _
  | .kill _ | .fence _ | .stamp _ | .dieSlot _ | .syncSlotEntry _ _ | .queueMapping _ | .launchPlacement _
  | .coreHalt _ | .launchEnd _ | .drainTimeout _ | .launchResume _ | .watchdog _ | .cowResolve _ | .trapResume _
  | .trapSkip _ | .trapAnswerKill _ | .qringWrite _ _ | .qptrTailWrite _ _ | .queueEnable _ _ | .queueDisable _ _
  | .hbmSplitWrite _ _ | .clkCodeWrite _ _ | .changeWindow _ _ | .regrd _ _ | .regwr _ _ | .memrd _ _ | .memwr _ _
  | .attestReport _ _ | .attestPublicKey _ _ | .flitReceive _ _ _ | .linkTraining _ _ _ | .linkDown _ _
  | .ptpMessage _ _ _ _ | .thermalEmergency _ _ | .emergencyExit _ | .boot _ _ _ _
  | .storeReachesPointOfCoherence _ _ | .launchDrain _ | .scrub _ _ | .ptpMasterLoss _ | .laneFailure _ _ => none

/-- The slots whose map holds an instruction (R47 to R56). -/
def Instr.slots : Instr → List Slot
  | .nop sl => [sl]
  | .add _ | .sub _ | .mul _ | .mulh _ | .div _ | .rem _ | .addi _ | .and _ | .or _ | .xor _ | .shl _ | .shr _
  | .sar _ | .andi _ | .ori _ | .xori _ | .shli _ | .shri _ | .sari _ | .min _ | .max _ | .clz _ | .popc _
  | .movi _ | .movhi _ | .sel _ | .cmp _ | .cmpi _ | .plog _ | .pget _ | .pset _ | .fadd _ | .fsub _ | .fmul _
  | .ffma _ | .fdiv _ | .fsqrt _ | .fmin _ | .fmax _ | .fcmp _ | .fcvt _ | .fcvti _ | .icvtf _ | .br _ | .brl _
  | .brr _ | .loop _ | .loopb _ | .brswap _ | .ifence | .xlat _ | .hrel _ | .fenceC _ | .fenceSc _ | .spfence
  | .fenceSmp | .mfcr _ | .mtcr _ | .trap _ => [.s]
  | .vadd _ | .vsub _ | .vmul _ | .vfma _ | .vmin _ | .vmax _ | .vabs _ | .vneg _ | .vadds _ | .vsubs _ | .vmuls _
  | .vfmas _ | .vmins _ | .vmaxs _ | .vclamp _ | .vand _ | .vor _ | .vxor _ | .vnot _ | .vshl _ | .vshr _ | .vsar _
  | .vpopc _ | .vcmp _ | .vsel _ | .vmov _ | .vzero _ | .viota _ | .vbcast _ | .vextr _ | .vins _ | .vcvt _
  | .vperm _ | .vrot _ | .vmulh _ | .vscale _ | .vrsum _ | .vdot _ | .vrmax _ | .vrmin _ | .vexp2 _ | .vlog2 _
  | .vrcp _ | .vrsq _ | .vtanh _ | .pmov _ | .ptake _ => [.v0, .v1]
  | .mma _ | .mmaz _ | .mout _ | .mouts _ | .mzero _ | .rset _ | .rpush _ | .rpop _ | .rget _ => [.m]
  | .ldg _ | .ldgAcq _ | .ldgr _ | .ldgrAcq _ | .ldgt _ | .lds _ | .ldsr _ | .ldst _ | .ldsc _ | .ldscg _
  | .ldsmp _ => [.l]
  | .stg _ | .stgRel _ | .stgr _ | .stgrRel _ | .stgt _ | .sts _ | .stsr _ | .stst _ | .spclr _ | .spfill _
  | .aadd _ | .amin _ | .amax _ | .aand _ | .aor _ | .axor _ | .axchg _ | .acas _ | .afadd _ => [.t]
  | .epush _ | .epop _ | .eqstat _ | .send _ | .recv _ | .recvadd _ | .semadd _ | .semset _ | .semrd _ | .semwait _
  | .barc _ | .barg _ | .ovl _ | .cpy _ | .cpyt _ | .cpyf _ | .cpyh _ | .bxch _ | .fdrd _ | .allred _ | .rscat _
  | .agath _ | .bcast _ | .alltoall _ | .reshard _ | .plq _ | .plres _ | .cstatReshard _ | .cstatLinks _ => [.x]
  | .bundleIssue _ | .satSignalApply _ | .scalarResultLand _ _ | .rowResultLand _ _ | .walkEnd _ _ | .bankWake _
  | .portResultReady _ _ | .mmaRetire _ | .mOutputLand _ _ | .ldscWriteLand _ | .scratchpadLoadLand _ _
  | .storeReachesBank _ _ | .globalLoadReturn _ _ | .atomicReturn _ _ | .sampleLand _ _ | .sendArrival _ _
  | .barrierRelease _ _ | .ovlEnd _ | .cpyCommand _ _ | .cpytTimedStart _ | .cpyfCommand _ _ | .cpyhCommand _ _
  | .bxchCommand _ _ | .bermFaceArrival _ | .collectiveMatch _ _ | .stagingGrant _ | .sluicePacket _
  | .chunkFinish _ _ _ | .treeRecovery _ | .reshardRow _ _ | .reshardCommit _ | .query _ _ | .check _ _
  | .pumphouseNop _ | .launch _ | .waitsem _ | .sigsem _ | .sigcl _ | .waittime _ | .preempt _ | .snap _ | .inval _
  | .kill _ | .fence _ | .stamp _ | .dieSlot _ | .syncSlotEntry _ _ | .queueMapping _ | .launchPlacement _
  | .coreHalt _ | .launchEnd _ | .drainTimeout _ | .launchResume _ | .watchdog _ | .cowResolve _ | .trapResume _
  | .trapSkip _ | .trapAnswerKill _ | .qringWrite _ _ | .qptrTailWrite _ _ | .queueEnable _ _ | .queueDisable _ _
  | .hbmSplitWrite _ _ | .clkCodeWrite _ _ | .changeWindow _ _ | .regrd _ _ | .regwr _ _ | .memrd _ _ | .memwr _ _
  | .attestReport _ _ | .attestPublicKey _ _ | .flitReceive _ _ _ | .linkTraining _ _ _ | .linkDown _ _
  | .ptpMessage _ _ _ _ | .thermalEmergency _ _ | .emergencyExit _ | .boot _ _ _ _
  | .storeReachesPointOfCoherence _ _ | .launchDrain _ | .scrub _ _ | .ptpMasterLoss _ | .laneFailure _ _ => []

/-- A slot word, written (R35); zero for a step that is no slot instruction. -/
def encodeSlot (w : SlotWord) : W64 :=
  match encodeOp w.op with
  | some (op, b) =>
    BitVec.ofNat 64 (place 58 op + place 57 w.ctl.hold + place 56 w.ctl.pn + place 51 w.ctl.psel + place 0 b)
  | none => 0

/-- A slot word that its slot's map can hold and that passes its checks. -/
def SlotWord.encodable (slot : Slot) (w : SlotWord) : Bool := w.op.slots.contains slot && w.wf

/-- The slots of a header's PRES field, in order (R28, R30). -/
def presentSlots (pres : BitVec 7) : List Slot := Slot.all.filter fun sl => pres.getLsbD sl.num

/-- The words of a bundle after its header, each with its slot: the present words stand in slot order (R28). -/
def pairWords : List Slot → List W64 → List (Slot × W64)
  | sl :: ss, w :: ws => (sl, w) :: pairWords ss ws
  | _, _ => []

/-- The words of a plain bundle of one operation: no header clause, one present word that is neither held nor
predicated. -/
def encodePlain (slot : Slot) (i : Instr) : List W64 :=
  [encodeHeader (Header.plain (BitVec.ofNat 7 (2 ^ slot.num))), encodeSlot { ctl := .plain, op := i }]

/-- The instruction that a header and the words after it are as a STEP of core `c`: a bundle without header clauses, whose
one word is present, not held and not predicated, is that word's operation; every other bundle is one BUNDLE_ISSUE
(R28, R32). `none` where the header or a word traps at decode. -/
def decodeBundle (c : Nat) (ws : List W64) : Option Instr :=
  match ws with
  | [] => none
  | h :: rest =>
    match decodeHeader h with
    | none => none
    | some hdr =>
      match presentSlots hdr.pres, rest with
      | [sl], w :: _ =>
        match decodeSlot sl w with
        | .error _ => none
        | .ok sw =>
          if hdr == Header.plain hdr.pres && sw.ctl == Ctl.plain && sl != .v1 then some sw.op else some (.bundleIssue c)
      | ss, _ =>
        if (pairWords ss rest).all (fun p => (decodeSlot p.1 p.2).toBool) && ss.length ≤ rest.length then
          some (.bundleIssue c)
        else none

/-- The 64-bit word numbered `k` of a number whose bit 0 is the least significant bit of the first word (R6, R28). -/
def wordOf (w k : Nat) : W64 := BitVec.ofNat 64 (w >>> (64 * k))

/-- The words of a bundle given as one number. DESIGN CHOICE, log 6. -/
def wordsOf (w : Nat) : List W64 := (List.range 8).map (wordOf w)

/-- What the decoder reads from a bundle whose bits are `w`, the header first; bits above `nbits` are zero.
DESIGN CHOICE, log 6. -/
def decodeTableWord (nbits w : Nat) : Option Instr := decodeBundle 0 (wordsOf (w % 2 ^ nbits))

end Sys2Proof
end

