-- ==== Sys2Proof/Machine/Numeric.lean ====
section
/-! DEFINITION. Number formats and the arithmetic contract (R72 to R97): exact values, one rounding rule, the special
cases and flags, MX blocks, chunked accumulation, the reduction tree. -/

namespace Sys2Proof.Machine

/-- What a floating format has beside finite values (R73): infinities and NaN, E4M3's one NaN magnitude, or neither. -/
inductive Specials where
  | ieee | nanOnly | finiteOnly
deriving DecidableEq, Repr

/-- A floating format: exponent bits, mantissa bits, bias and specials (R72, R73). -/
structure FloatFmt where
  exp  : Nat
  man  : Nat
  bias : Nat
  sp   : Specials
deriving DecidableEq, Repr

/-- An element format (R37, R73, R74). -/
inductive Fmt where
  | int (signed : Bool) (w : Nat)
  | flt (f : FloatFmt)
deriving DecidableEq, Repr

/-- FP32. -/
def fp32 : FloatFmt := ⟨8, 23, 127, .ieee⟩
/-- FP16. -/
def fp16 : FloatFmt := ⟨5, 10, 15, .ieee⟩
/-- BF16. -/
def bf16 : FloatFmt := ⟨8, 7, 127, .ieee⟩
/-- FP8 E4M3. -/
def e4m3 : FloatFmt := ⟨4, 3, 7, .nanOnly⟩
/-- FP8 E5M2. -/
def e5m2 : FloatFmt := ⟨5, 2, 15, .ieee⟩
/-- FP6 E3M2. -/
def e3m2 : FloatFmt := ⟨3, 2, 3, .finiteOnly⟩
/-- FP6 E2M3. -/
def e2m3 : FloatFmt := ⟨2, 3, 1, .finiteOnly⟩
/-- FP4 E2M1. -/
def e2m1 : FloatFmt := ⟨2, 1, 1, .finiteOnly⟩

/-- The width of a floating format in bits. -/
def FloatFmt.width (f : FloatFmt) : Nat := 1 + f.exp + f.man

/-- The width of an element format in bits. -/
def Fmt.width : Fmt → Nat
  | .int _ w => w
  | .flt f => f.width

/-- The format of a type code (R37); the MX codes name their element format. -/
def fmtOf (c : BitVec 5) : Fmt :=
  match c.toNat with
  | 0x00 => .int true 8 | 0x01 => .int true 16 | 0x02 => .int true 32 | 0x03 => .int true 64
  | 0x04 => .int false 8 | 0x05 => .int false 16 | 0x06 => .int false 32 | 0x07 => .int false 64
  | 0x08 => .flt fp32 | 0x09 => .flt fp16 | 0x0A => .flt bf16 | 0x0B => .flt e4m3 | 0x0C => .flt e5m2
  | 0x0D => .flt e2m1 | 0x0E => .flt e3m2 | 0x0F => .flt e2m3
  | 0x10 => .flt e4m3 | 0x11 => .flt e5m2 | 0x12 => .flt e2m1
  | _ => .int true 4

/-- An exact value (R79): a NaN, an infinity, a signed zero, or `±m·2^e` with `m` not 0. -/
inductive XVal where
  | nan
  | inf (neg : Bool)
  | zero (neg : Bool)
  | fin (neg : Bool) (m : Nat) (e : Int)
deriving DecidableEq, Repr

/-- `±m·2^e`, a zero of that sign where `m` is 0. -/
def XVal.mk (neg : Bool) (m : Nat) (e : Int) : XVal := if m == 0 then .zero neg else .fin neg m e

/-- An integer as an exact value. -/
def XVal.ofInt (i : Int) : XVal := if i == 0 then .zero false else .fin (i < 0) i.natAbs 0

/-- Whether a value is a NaN. -/
def XVal.isNan : XVal → Bool
  | .nan => true
  | _ => false
/-- Whether a value is an infinity. -/
def XVal.isInf : XVal → Bool
  | .inf _ => true
  | _ => false
/-- Whether a value is a zero. -/
def XVal.isZero : XVal → Bool
  | .zero _ => true
  | _ => false
/-- The sign of a value, `false` for a NaN. -/
def XVal.sign : XVal → Bool
  | .nan => false
  | .inf n | .zero n | .fin n _ _ => n
/-- The value with the other sign. -/
def XVal.neg : XVal → XVal
  | .nan => .nan
  | .inf n => .inf !n
  | .zero n => .zero !n
  | .fin n m e => .fin (!n) m e
/-- The value with a positive sign. -/
def XVal.abs : XVal → XVal
  | .nan => .nan
  | .inf _ => .inf false
  | .zero _ => .zero false
  | .fin _ m e => .fin false m e
/-- The value times `2^k`. -/
def XVal.shift (x : XVal) (k : Int) : XVal :=
  match x with
  | .fin n m e => .fin n m (e + k)
  | y => y

/-- A two's complement number of `w` bits. -/
def toSigned (w v : Nat) : Int := if v % 2 ^ w < 2 ^ (w - 1) then (v % 2 ^ w : Nat) else (v % 2 ^ w : Nat) - (2 ^ w : Nat)

/-- An integer modulo `2^w`. -/
def wrapInt (w : Nat) (i : Int) : Nat := (i % (2 ^ w : Nat)).toNat

/-- The integer an element holds (R74). -/
def intOf (signed : Bool) (w v : Nat) : Int := if signed then toSigned w v else (v % 2 ^ w : Nat)

/-- The magnitude code of the largest finite value (R73). -/
def FloatFmt.maxCode (f : FloatFmt) : Nat :=
  match f.sp with
  | .ieee => (2 ^ f.exp - 1) * 2 ^ f.man - 1
  | .nanOnly => 2 ^ (f.exp + f.man) - 2
  | .finiteOnly => 2 ^ (f.exp + f.man) - 1

/-- The magnitude code of infinity, for a format that has one. -/
def FloatFmt.infCode (f : FloatFmt) : Nat := (2 ^ f.exp - 1) * 2 ^ f.man

/-- The canonical NaN (R73); `+0` for a format without one (R86). -/
def FloatFmt.nanCode (f : FloatFmt) : Nat :=
  match f.sp with
  | .ieee => f.infCode + 2 ^ (f.man - 1)
  | .nanOnly => 2 ^ (f.exp + f.man) - 1
  | .finiteOnly => 0

/-- The exact value of a floating encoding (R72, R73). -/
def FloatFmt.value (f : FloatFmt) (bits : Nat) : XVal :=
  let mag := bits % 2 ^ (f.exp + f.man)
  let neg := bits / 2 ^ (f.exp + f.man) % 2 == 1
  let e := mag / 2 ^ f.man
  let m := mag % 2 ^ f.man
  if f.sp == .ieee && e == 2 ^ f.exp - 1 then (if m == 0 then .inf neg else .nan)
  else if f.sp == .nanOnly && mag == 2 ^ (f.exp + f.man) - 1 then .nan
  else if e == 0 then .mk neg m (1 - f.bias - f.man)
  else .fin neg (2 ^ f.man + m) (e - f.bias - f.man)

/-- The exact value of an element (R79). -/
def Fmt.value (f : Fmt) (bits : Nat) : XVal :=
  match f with
  | .int s w => .ofInt (intOf s w bits)
  | .flt f => f.value bits

/-- The value of an E8M0 scale code as an exponent; `none` for the NaN code (R73). -/
def scaleExp (c : Nat) : Option Int := if c == 0xFF then none else some (c - 127)

/-- Rounding modes (R38). -/
inductive Mode where
  | rne | rz | rdn | rup | rsto
deriving DecidableEq, Repr

/-- The mode of a code 1 to 5 (R38, R76). -/
def modeOf (c : Nat) : Mode :=
  match c with
  | 2 => .rz | 3 => .rdn | 4 => .rup | 5 => .rsto | _ => .rne

/-- What rounding reads and writes beside its operand: the generator state (R78) and the flags raised so far (R77). -/
structure Rnd where
  seed  : BitVec 32
  flags : BitVec 5
deriving DecidableEq, Repr

/-- NV. -/
def fNV : BitVec 5 := 0b00001
/-- DZ. -/
def fDZ : BitVec 5 := 0b00010
/-- OF. -/
def fOF : BitVec 5 := 0b00100
/-- UF. -/
def fUF : BitVec 5 := 0b01000
/-- NX. -/
def fNX : BitVec 5 := 0b10000

/-- Flags raised are ORed (R77). -/
def Rnd.raise (r : Rnd) (f : BitVec 5) : Rnd := { r with flags := r.flags ||| f }

/-- One step of the rounding generator (R78). -/
def stepSeed (x : BitVec 32) : BitVec 32 :=
  let x := x ^^^ (x <<< 13)
  let x := x ^^^ (x >>> 17)
  x ^^^ (x <<< 5)

/-- One draw: the generator stepped and 16 bits of it (R78). -/
def Rnd.draw (r : Rnd) : Nat × Rnd := ((stepSeed r.seed).toNat % 2 ^ 16, { r with seed := stepSeed r.seed })

/-- A magnitude code with a sign. -/
def FloatFmt.signed (f : FloatFmt) (neg : Bool) (mag : Nat) : Nat :=
  (if neg then 2 ^ (f.exp + f.man) else 0) + mag

/-- The result of a finite value beyond the largest (R85). -/
def FloatFmt.overflow (f : FloatFmt) (neg : Bool) (mode : Mode) (sat : Bool) : Nat :=
  let max := f.signed neg f.maxCode
  match f.sp with
  | .finiteOnly => max
  | .nanOnly => if sat then max else f.nanCode
  | .ieee =>
    let toInf := match mode with
      | .rne | .rsto => true
      | .rz => false
      | .rdn => neg
      | .rup => !neg
    if sat || !toInf then max else f.signed neg f.infCode

/-- `floor(m·2^e / q)` for `q = 2^qe`, and the fraction as a numerator over `2^k` (R82). -/
def quantum (m : Nat) (e qe : Int) : Nat × Nat × Nat :=
  if qe ≤ e then (m <<< (e - qe).toNat, 0, 0)
  else
    let k := (qe - e).toNat
    (m >>> k, m % 2 ^ k, k)

/-- Whether the fraction `f / 2^k` rounds the integer `n` up (R82); `d` is the draw of RSTO. -/
def roundsUp (mode : Mode) (neg : Bool) (n f k d : Nat) : Bool :=
  match mode with
  | .rne => 2 * f > 2 ^ k || (f != 0 && 2 * f == 2 ^ k && n % 2 == 1)
  | .rz => false
  | .rdn => f != 0 && neg
  | .rup => f != 0 && !neg
  | .rsto => (f <<< 16) >>> k + d ≥ 2 ^ 16

/-- `floor(log2 |x|)` of a finite value. -/
def topExp (m : Nat) (e : Int) : Int := e + m.log2

/-- The bound of an integer format on the side of a sign (R86, R89). -/
def intBound (signed : Bool) (w : Nat) (neg : Bool) : Nat :=
  if signed then (if neg then 2 ^ (w - 1) else 2 ^ (w - 1) - 1) else (if neg then 0 else 2 ^ w - 1)

/-- The pseudocode of R82, with the draw already made. -/
def roundWith (x : XVal) (fmt : Fmt) (mode : Mode) (sat : Bool) (d : Nat) : Nat × BitVec 5 :=
  match fmt, x with
  | .flt f, .nan => (f.nanCode, if f.sp == .finiteOnly then fNV else 0)
  | .flt f, .inf n =>
    match f.sp with
    | .ieee => (f.signed n f.infCode, 0)
    | .nanOnly => (if sat then f.signed n f.maxCode else f.nanCode, fNV)
    | .finiteOnly => (f.signed n f.maxCode, fNV)
  | .flt f, .zero n => (f.signed n 0, 0)
  | .flt f, .fin neg m e =>
    let qmin : Int := 1 - f.bias - f.man
    let qe := max (topExp m e - f.man) qmin
    let (n, fr, k) := quantum m e qe
    let n' := if roundsUp mode neg n fr k d then n + 1 else n
    let mag := n' + (qe - qmin).toNat * 2 ^ f.man
    if mag > f.maxCode then (f.overflow neg mode sat, fOF ||| fNX)
    else (f.signed neg mag,
      if fr == 0 then 0 else if topExp m e < 1 - f.bias then fNX ||| fUF else fNX)
  | .int _ _, .nan => (0, fNV)
  | .int s w, .inf n => (intBound s w n, fNV)
  | .int _ _, .zero _ => (0, 0)
  | .int s w, .fin neg m e =>
    let (n, fr, k) := quantum m e 0
    let n' := if roundsUp mode neg n fr k d then n + 1 else n
    let v : Int := if neg then -n' else n'
    let lo : Int := if s then -(2 ^ (w - 1) : Nat) else 0
    let hi : Int := if s then (2 ^ (w - 1) : Nat) - 1 else (2 ^ w : Nat) - 1
    if v < lo || v > hi then (intBound s w neg, fNV)
    else (wrapInt w v, if fr == 0 then 0 else fNX)

/-- The one rounding (R82, R83): RSTO draws once per call, whatever the value. -/
def round (x : XVal) (fmt : Fmt) (mode : Mode) (sat : Bool) (r : Rnd) : Nat × Rnd :=
  if mode == .rsto then
    let (d, r) := r.draw
    let (v, f) := roundWith x fmt mode sat d
    (v, r.raise f)
  else
    let (v, f) := roundWith x fmt mode sat 0
    (v, r.raise f)

/-- An integer converted to an integer format: wrapped, or clamped where SAT is set, with no flag (R89). -/
def convInt (signed : Bool) (w : Nat) (sat : Bool) (i : Int) : Nat :=
  if sat then
    let lo : Int := if signed then -(2 ^ (w - 1) : Nat) else 0
    let hi : Int := if signed then (2 ^ (w - 1) : Nat) - 1 else (2 ^ w : Nat) - 1
    wrapInt w (max lo (min hi i))
  else wrapInt w i

/-- The exact sum of two finite values, the sign of an exact zero by R90. -/
def addFin (mode : Mode) (n1 : Bool) (m1 : Nat) (e1 : Int) (n2 : Bool) (m2 : Nat) (e2 : Int) : XVal :=
  let e := min e1 e2
  let a : Int := (m1 <<< (e1 - e).toNat : Nat)
  let b : Int := (m2 <<< (e2 - e).toNat : Nat)
  let s := (if n1 then -a else a) + (if n2 then -b else b)
  if s == 0 then .zero (mode == .rdn) else .fin (s < 0) s.natAbs e

/-- The exact sum, with NV for opposite infinities (R86, R90). -/
def xadd (mode : Mode) (a b : XVal) : XVal × BitVec 5 :=
  match a, b with
  | .nan, _ | _, .nan => (.nan, 0)
  | .inf n, .inf k => if n == k then (.inf n, 0) else (.nan, fNV)
  | .inf n, _ | _, .inf n => (.inf n, 0)
  | .zero n, .zero k => (.zero (if n == k then n else mode == .rdn), 0)
  | .zero _, y => (y, 0)
  | x, .zero _ => (x, 0)
  | .fin n m e, .fin n' m' e' => (addFin mode n m e n' m' e', 0)

/-- The exact product, with NV for `0 × ∞` (R86). -/
def xmul (a b : XVal) : XVal × BitVec 5 :=
  match a, b with
  | .nan, _ | _, .nan => (.nan, 0)
  | .inf _, .zero _ | .zero _, .inf _ => (.nan, fNV)
  | .inf n, y => (.inf (n != y.sign), 0)
  | x, .inf n => (.inf (n != x.sign), 0)
  | .zero n, y => (.zero (n != y.sign), 0)
  | x, .zero n => (.zero (n != x.sign), 0)
  | .fin n m e, .fin n' m' e' => (.fin (n != n') (m * m') (e + e'), 0)

/-- The exact `a × b + c`; a NaN operand raises nothing (R86). -/
def xfma (mode : Mode) (a b c : XVal) : XVal × BitVec 5 :=
  if a.isNan || b.isNan || c.isNan then (.nan, 0)
  else
    let (p, f) := xmul a b
    let (s, g) := xadd mode p c
    (s, f ||| g)

/-- Extra bits kept of a quotient or a root before its one rounding: beyond every format's 24 bits and the 16 of RSTO, the
last bit being set where anything below it was not zero. -/
def guardBits : Nat := 96

/-- A quotient, exact to its guard bits with a sticky last bit. -/
def divFin (neg : Bool) (m : Nat) (e : Int) (m' : Nat) (e' : Int) : XVal :=
  let q := (m <<< guardBits) / m'
  let sticky := if (m <<< guardBits) % m' == 0 then 0 else 1
  .fin neg (2 * q + sticky) (e - e' - guardBits - 1)

/-- The quotient, with DZ for a finite non-zero value over zero (R88) and NV for `0/0` and `∞/∞`. -/
def xdiv (a b : XVal) : XVal × BitVec 5 :=
  match a, b with
  | .nan, _ | _, .nan => (.nan, 0)
  | .inf _, .inf _ | .zero _, .zero _ => (.nan, fNV)
  | .inf n, y => (.inf (n != y.sign), 0)
  | .zero n, y => (.zero (n != y.sign), 0)
  | .fin n _ _, .inf k => (.zero (n != k), 0)
  | .fin n _ _, .zero k => (.inf (n != k), fDZ)
  | .fin n m e, .fin k m' e' => (divFin (n != k) m e m' e', 0)

/-- The integer square root, one bit at a time from bit `k - 1` down. -/
def isqrt : Nat → Nat → Nat → Nat
  | 0, _, acc => acc
  | k + 1, n, acc =>
    let t := acc + 2 ^ k
    isqrt k n (if t * t ≤ n then t else acc)

/-- The square root of a finite positive value, exact to its guard bits with a sticky last bit. -/
def sqrtFin (m : Nat) (e : Int) : XVal :=
  let odd := e % 2 != 0
  let m1 := (if odd then 2 * m else m) <<< guardBits
  let e1 := (if odd then e - 1 else e) - guardBits
  let s := isqrt (m1.log2 / 2 + 1) m1 0
  .fin false (2 * s + (if s * s == m1 then 0 else 1)) (e1 / 2 - 1)

/-- The square root; NV below `-0` (R86). -/
def xsqrt (a : XVal) : XVal × BitVec 5 :=
  match a with
  | .nan => (.nan, 0)
  | .zero n => (.zero n, 0)
  | .inf false => (.inf false, 0)
  | .inf true => (.nan, fNV)
  | .fin true _ _ => (.nan, fNV)
  | .fin false m e => (sqrtFin m e, 0)

/-- Whether `a < b` as numbers, zeros of both signs equal; neither is a NaN. -/
def xlt (a b : XVal) : Bool :=
  match a, b with
  | .nan, _ | _, .nan => false
  | .inf n, .inf k => n && !k
  | .inf n, _ => n
  | _, .inf k => !k
  | .zero _, .zero _ => false
  | .zero _, .fin k _ _ => !k
  | .fin n _ _, .zero _ => n
  | .fin n m e, .fin k m' e' =>
    let l := min e e'
    let x : Int := (m <<< (e - l).toNat : Nat)
    let y : Int := (m' <<< (e' - l).toNat : Nat)
    (if n then -x else x) < (if k then -y else y)

/-- Whether `a = b` as numbers. -/
def xeq (a b : XVal) : Bool := !a.isNan && !b.isNan && !xlt a b && !xlt b a

/-- The maximum of R90. -/
def xmax (a b : XVal) : XVal :=
  if a.isNan || b.isNan then .nan
  else if a.isZero && b.isZero then .zero (a.sign && b.sign)
  else if xlt a b then b else a

/-- The minimum of R90. -/
def xmin (a b : XVal) : XVal :=
  if a.isNan || b.isNan then .nan
  else if a.isZero && b.isZero then .zero (a.sign || b.sign)
  else if xlt b a then b else a

/-- A value already exact in a floating format, written in it: no rounding, no flag. -/
def encodeExact (f : FloatFmt) (x : XVal) : Nat := (roundWith x (.flt f) .rne false 0).1

/-- Element `i` of a value packed `w` bits at a time (R9). -/
def elem (w v i : Nat) : Nat := (v >>> (w * i)) % 2 ^ w

/-- The first `n` elements of a packed value. -/
def elems (w n v : Nat) : List Nat := (List.range n).map (elem w v)

/-- Elements packed `w` bits at a time, element 0 lowest (R9). -/
def pack (w : Nat) : List Nat → Nat
  | [] => 0
  | x :: xs => x % 2 ^ w + pack w xs <<< w

/-- A function over elements in ascending order, threading the rounding state (R83). -/
def mapRnd {α β : Type} (f : α → Rnd → β × Rnd) : List α → Rnd → List β × Rnd
  | [], r => ([], r)
  | x :: xs, r =>
    let (y, r) := f x r
    let (ys, r) := mapRnd f xs r
    (y :: ys, r)

/-- The combination tree of R97: lanes `i` and `i + h` at each level; `fuel` is at least the number of levels. -/
def tree {α : Type} (op : α → α → Rnd → α × Rnd) : Nat → List α → Rnd → List α × Rnd
  | 0, v, r => (v, r)
  | fuel + 1, v, r =>
    if v.length ≤ 1 then (v, r)
    else
      let h := v.length / 2
      let (w, r) := mapRnd (fun p r => op p.1 p.2 r) ((v.take h).zip (v.drop h)) r
      tree op fuel w r

/-! MX blocks (R91, R92). -/

/-- The largest exponent of an MX element format (R91). -/
def emaxElem (f : FloatFmt) : Int :=
  if f == e2m1 then 2 else if f == e4m3 then 8 else 15

/-- The exact value of an MX element under a scale code (R92). -/
def mxValue (f : FloatFmt) (scale bits : Nat) : XVal :=
  match scaleExp scale with
  | none => .nan
  | some k => (f.value bits).shift k

/-- The block's largest magnitude as `floor(log2 amax)`; `none` where every element is zero. -/
def blockTop : List XVal → Option Int
  | [] => none
  | x :: xs =>
    match x, blockTop xs with
    | .fin _ m e, some t => some (max (topExp m e) t)
    | .fin _ m e, none => some (topExp m e)
    | _, t => t

/-- The scale code of a block with a non-zero finite maximum (R91). -/
def blockScale (f : FloatFmt) (top : Int) : Nat := (max 0 (min 254 (top - emaxElem f + 127))).toNat

/-- `mx_quantise` (R91): the scale code and the element codes. -/
def mxQuantise (f : FloatFmt) (sat : Bool) (block : List XVal) (r : Rnd) : (Nat × List Nat) × Rnd :=
  if block.any (fun x => x.isNan || x.isInf) then ((0xFF, block.map fun _ => 0), r)
  else
    match blockTop block with
    | none => ((0, block.map fun x => f.signed x.sign 0), r)
    | some t =>
      let c := blockScale f t
      let (es, r) := mapRnd (fun x r => round (x.shift (127 - (c : Int))) (.flt f) .rne sat r) block r
      ((c, es), r)

/-! Matrix accumulation (R93 to R96). -/

/-- A value as an integer multiple of `2^s`, for an exponent that is at least `s`. -/
def scaled (s : Int) : XVal → Int
  | .fin n m e => let a : Int := (m <<< (e - s).toNat : Nat); if n then -a else a
  | _ => 0

/-- The least exponent among finite values, at most `d`. -/
def leastExp (d : Int) : List XVal → Int
  | [] => d
  | .fin _ _ e :: xs => min e (leastExp d xs)
  | _ :: xs => leastExp d xs

/-- The exact sum of finite terms: `+0` where it is zero, unless every term is `-0` (R94). -/
def sumTerms (ts : List XVal) : XVal :=
  let s := leastExp 0 ts
  let t := (ts.map (scaled s)).foldl (· + ·) 0
  if t == 0 then .zero (ts.all fun x => x == .zero true) else .fin (t < 0) t.natAbs s

/-- One chunk added to an FP32 accumulator (R94, R95): the new accumulator and the flags NV and OF. Whether its operands hold
a NaN is judged chunk by chunk. DESIGN CHOICE, log 50. -/
def accChunk (acc : XVal) (as bs : List XVal) : XVal × BitVec 5 :=
  let ps := (as.zip bs).map fun p => xmul p.1 p.2
  let terms := ps.map Prod.fst
  let nanIn := acc.isNan || as.any XVal.isNan || bs.any XVal.isNan
  if acc.isNan || terms.any XVal.isNan then (.nan, if nanIn then 0 else fNV)
  else
    let infs := (acc :: terms).filter XVal.isInf
    if infs.any XVal.sign && infs.any (fun x => !x.sign) then (.nan, fNV)
    else
      let s := match terms.find? XVal.isInf with
        | some i => i
        | none => sumTerms terms
      let (v, f) := roundWith (xadd .rne acc s).1 (.flt fp32) .rne false 0
      (fp32.value v, f &&& fOF)

/-- One INT8 chunk added to an INT32 accumulator, which wraps (R96). -/
def accChunkInt (acc : Nat) (as bs : List Int) : Nat :=
  wrapInt 32 (acc + ((as.zip bs).map fun p => p.1 * p.2).foldl (· + ·) 0)

end Sys2Proof.Machine
end

