-- ==== Sys2Proof/Machine/State.lean ====
section
/-! DEFINITION. The state of the part as plain data: cores, clusters, dies, memory dies, packages, launches, physical
memory, and the state after reset. -/

namespace Sys2Proof.Machine

/-- Why the machine stops with a fault. None is raised by a meaning of this model: every trap of the part is TAKEN, as a
next state (R13, R424), and ordinary data ends no run. -/
inductive Fault where
  /-- Raised by nobody: kept so that the type names its one case. Safe. -/
  | unreachable
deriving DecidableEq, Repr

/-- Why a step is refused. -/
inductive Refusal where
  /-- Raised by an arm of `exec` whose meaning is not written yet. Safe: the run stops. -/
  | notModelled (mnemonic : String)
deriving DecidableEq, Repr

/-- Trap codes (R424). -/
inductive Trap where
  | illegalBundle | illegalSlot | predReserved | bundleConflict | tileOff | tileRange | handleInvalid | handleRevoked
  | pageFault | permFault | cowWrite | seepage | misalign | semOverflow | ringEmptyPop | ispmRange | regError | dataError
  | trap | watchdog
deriving DecidableEq, Repr

/-- A handle's five states (R138). -/
inductive HState where
  | invalid | pending | valid | faulted | revoked
deriving DecidableEq, Repr

/-- A translation: its address space, the virtual address its page begins at, and the leaf entry (R243, R249). -/
structure Xlation where
  space : Nat
  base  : Nat
  leaf  : W64
deriving DecidableEq, Repr

/-- A handle register (R138): its state, recorded virtual address, and the copy of page and attributes. -/
structure Handle where
  state : HState := .invalid
  va    : W64 := 0
  page  : Xlation := ⟨0, 0, 0⟩
deriving DecidableEq, Repr

/-- Where delivered bytes come from: the fabric physical address a page's backing begins at, its stored and delivered
formats, its size and whether its granules are compressed (R257, R259, R265). Bytes of a page that is no conversion page
are named by their fabric physical address, under a source of frame, formats and size 0. -/
structure Src where
  frame : Nat
  sfmt  : Nat
  dfmt  : Nat
  size  : Nat
  comp  : Bool
deriving DecidableEq, Repr

/-- A register that a result lands in, by its physical name (R100); an XLAT hit carries its translation. -/
inductive Dest where
  | none
  | handle (n : Nat) (page : Xlation)
  | scalar (n : Nat)
  | pred (n : Nat)
  | row (t r : Nat)
  | tile (t : Nat)
  | scale (k : Nat)
deriving DecidableEq, Repr

/-- The kinds of result that land by a step of their own; of some, whether the instruction can raise flags (R120). -/
inductive LandKind where
  | scalar (raises : Bool) | row (raises : Bool) | load | atomic (raises : Bool) | sample
deriving DecidableEq, Repr

/-- A result on its way (R119, R153, R223, R281, R286): its register is busy until it lands. DESIGN CHOICE, log 3. -/
structure Landing where
  kind   : LandKind
  dest   : Dest
  val    : List Row
  flags  : BitVec 5
  due    : Nat
  region : Nat
  seq    : Nat
deriving DecidableEq, Repr

/-- A global load on its way (R279): what it reads, and its bytes once it has taken its value (R290). DESIGN CHOICE, log 3. -/
structure LoadPend where
  dest   : Dest
  src    : Src
  off    : Nat
  size   : Nat
  cls    : Nat
  acq    : Bool
  sc     : Nat
  val    : Option (List Byte)
  due    : Nat
  region : Nat
  seq    : Nat
deriving DecidableEq, Repr

/-- A line of the L1 (R253, R304): data, valid and dirty bits by byte, the dirty bytes that no committed store on its way
will bring down, the classes of the stores that dirtied it, and whether it holds an uncorrectable error (R450). -/
structure L1Line where
  src   : Src
  line  : Nat
  data  : Row
  valid : BitVec 128
  dirty : BitVec 128
  loose : BitVec 128
  cls   : BitVec 16
  bad   : Bool := false
deriving DecidableEq, Repr

/-- An engine push as its queue entry (R314). -/
structure Push where
  q     : Nat
  core  : Nat
  lid   : Nat
  kind  : Nat
  line  : Row
  opnd  : W64
  mask  : BitVec 16
  sc    : Nat
  res   : Bool
  scout : Nat
  -- pushed by the pumphouse through a die slot (R405)
  host  : Bool := false
  -- its number in its queue's order, and the tick it entered its queue
  no    : Nat := 0
  at'   : Nat := 0
deriving DecidableEq, Repr

/-- What an entry of the gated buffer does once committed (R271). A store lists its bytes by delivered place; class 16
stands for a write-down of bytes of several classes (R254). -/
inductive Effect where
  | store (src : Src) (bytes : List (Nat × Byte)) (cls sc : Nat) (rel : Bool)
  | sp (addr : Nat) (bytes : List Byte)
  | spclr (line n : Nat)
  | spfill (line n : Nat)
  | signal (sem v : Nat)
  | satSignal (sem v : Nat) (pc : BitVec 13)
  | semadd (sem v : Nat)
  | semset (sem v : Nat)
  | push (p : Push)
deriving DecidableEq, Repr

/-- A gated or a committed effect, with its place in program order and its count of buffer entries. -/
structure Gate where
  seq  : Nat
  size : Nat
  eff  : Effect
deriving DecidableEq, Repr

/-- A committed effect that has not performed yet; `due` is the first tick at which it may. A write-down names the
bytes taken from the L1. -/
structure OutEnt where
  seq : Nat
  due : Nat
  eff : Effect
deriving DecidableEq, Repr

/-- A SAT = 1 header signal waiting for the effects it covers (R32, R33). -/
structure SatSignal where
  seq : Nat
  sem : Nat
  inc : Nat
  pc  : BitVec 13
deriving DecidableEq, Repr

/-- A pending LDSC or LDSCG write of a scale register and the bundles it still has to wait (R211). -/
structure ScalePend where
  k    : Nat
  val  : Scale
  left : Nat
  seq  : Nat
deriving DecidableEq, Repr

/-- A held word and whether its last advance carried out of its field (R42). -/
structure Held where
  word  : SlotWord
  fault : Bool
deriving DecidableEq, Repr

/-- One input row a port has collected, with its TY (R177, R182). -/
structure PortIn where
  row : Row
  ty  : BitVec 5
deriving DecidableEq, Repr

/-- A transform port (R177): inputs collected, result rows on their way with the tick they become readable, result
rows readable, the lookup table, which half loads next, the CRC chain. -/
structure Port where
  ins   : List PortIn := []
  wait  : List (Nat × Row × BitVec 5) := []
  outs  : List Row := []
  table : BitVec 2048 := 0
  half  : Bool := false
  chain : BitVec 32 := 0
deriving DecidableEq, Repr

/-- The registers that a restart mark shadows and a rollback restores (R45, R84, R118, R184, R211). -/
structure Regs where
  x     : Store 64 := []
  p     : BitVec 24 := 0
  k     : Store 2048 := []
  h     : Tab Handle := []
  rrb   : BitVec 5 := 0
  void  : Bool := false
  fill  : BitVec 3 := 0
  depth : BitVec 3 := 0
  lc    : Store 64 := []
  held  : Tab Held := []
  rmode : BitVec 3 := 1
  seed  : BitVec 32 := 0
  scout : BitVec 7 := 8
  ports : Tab Port := []
  kpend : List ScalePend := []
deriving DecidableEq, Repr

/-- An operand ring (R189): its words, and the popped slots not released yet, oldest first (R191). -/
structure Ring where
  base  : BitVec 24 := 0
  size  : Nat := 0
  keep  : Bool := false
  count : Nat := 0
  head  : Nat := 0
  gen   : BitVec 16 := 0
  occ   : List Nat := []
deriving DecidableEq, Repr

/-- An entry of the operand cache (R196): its tag, the 32 rows, and whether it holds an uncorrectable error (R450); the list is
kept least recently used first. -/
structure OpEntry where
  ring : Nat
  gen  : BitVec 16
  slot : Nat
  rows : List Row
  bad  : Bool := false
deriving DecidableEq, Repr

/-- An MMA in flight (R194, R200): where it writes, its operands, and the rings it popped. -/
structure Mma where
  tc    : Nat
  keep  : Bool
  fa    : BitVec 5
  fb    : BitVec 5
  a     : List Row
  b     : List Row
  sa    : Scale
  sb    : Scale
  old   : List Row
  rings : List Nat
  due   : Nat
  seq   : Nat
deriving DecidableEq, Repr

/-- A MOUT, MOUTS or MZERO on its way (R194): tile rows, scale bytes, scratchpad lines, flags. -/
structure MOutPend where
  tile  : Option (Nat × List Row)
  scale : Option (Nat × List Byte)
  lines : Option (Nat × Nat × List Byte)
  -- the flags raised; none of an instruction that can raise none (R120)
  flags : Option (BitVec 5)
  due   : Nat
  seq   : Nat
deriving DecidableEq, Repr

/-- A SEND on its way (R237): destination lane and line, row, arrival tick. -/
structure SendPend where
  lane : Nat
  off  : Nat
  row  : Row
  due  : Nat
  seq  : Nat
deriving DecidableEq, Repr

/-- An overlay load on its way (R418): half, destination, address, the tick its expansion ends where it has begun, its place in
program order. -/
structure OvlPend where
  half : Bool
  rd   : Nat
  va   : W64
  due  : Nat
  seq  : Nat
deriving DecidableEq, Repr

/-- What a core does (R13, R34, R415, R421). `placed` cores issue bundles; `ended` ones have retired END; `halted` ones
have raised their halt line; `trapped` ones wait for an answer; `stopped` ones are held by a save or a kill. -/
inductive RunSt where
  | free | placed | ended | halted | trapped | stopped
deriving DecidableEq, Repr

/-- A trap record (R426), with the host's answer where it came while the core's launch was saved. -/
structure TrapRec where
  state : Nat := 0
  pc    : BitVec 13 := 0
  rb    : Bool := false
  slot  : Nat := 0
  code  : Nat := 0
  w1    : W64 := 0
  w2    : W64 := 0
  ans   : Nat := 0
deriving DecidableEq, Repr

/-- The tag of an instruction-scratchpad half (R413, R418). -/
structure HalfTag where
  id  : BitVec 32
  crc : BitVec 32
deriving DecidableEq, Repr

/-- A register that check bits protect (R151): a tile row, a scalar, the predicates, a scale register, a handle, the state of
a ring. -/
inductive Checked where
  | row (t r : Nat)
  | scalar (n : Nat)
  | preds
  | scale (k : Nat)
  | handle (h : Nat)
  | ring (n : Nat)
deriving DecidableEq, Repr

/-- A word of a register that holds bad check bits (R152): the register, the word, and whether an eight-bit code could
correct it. -/
structure BadWord where
  reg  : Checked
  word : Nat
  fix  : Bool
deriving DecidableEq, Repr

/-- A core (R4, R98 to R118 and the registers of later chapters). -/
structure Core where
  run     : RunSt := .free
  launch  : Nat := 0
  pc      : BitVec 13 := 0
  regs    : Regs := {}
  -- the shadow of the last restart mark (R34, R118)
  shadow  : Regs := {}
  mark    : BitVec 13 := 0
  region  : Nat := 0
  seq     : Nat := 0
  -- the sequence number at the last mark: the region is fresh while it is the next bundle's
  markSeq : Nat := 0
  -- the semaphore changes of the region that a rollback returns or drops (R62)
  decr    : List (Nat × Nat) := []
  -- control registers that no rollback restores
  flags   : BitVec 5 := 0
  bconf   : BitVec 32 := 0
  corr    : BitVec 16 := 0
  uncorr  : BitVec 16 := 0
  tbank   : BitVec 16 := 0b1010101010101010
  image   : BitVec 32 := 0
  ecc     : Bool := false
  tiles   : BitVec 8 := 0
  -- tile registers (R144), their bad words, and the wake of retained banks (R147)
  tile    : Store 1024 := []
  bad     : List BadWord := []
  waking  : List (Nat × Nat) := []
  -- instruction scratchpad (R28, R29)
  ispm    : Store 64 := []
  tagA    : Option HalfTag := none
  tagB    : Option HalfTag := none
  loopBuf : Option (BitVec 13 × BitVec 13) := none
  -- issue: first tick at which the core may issue, and the tick a timed wait of the next bundle ends
  ready   : Nat := 0
  hold    : Option Nat := none
  -- matrix unit (R186 to R199)
  rings   : Tab Ring := []
  opc     : List OpEntry := []
  mma     : Option Mma := none
  mout    : List MOutPend := []
  -- results on their way
  land    : List Landing := []
  loads   : List LoadPend := []
  sends   : List SendPend := []
  ovls    : List OvlPend := []
  -- memory side of the core
  l1      : List L1Line := []
  gated   : List Gate := []
  outq    : List OutEnt := []
  sat     : List SatSignal := []
  -- SAT = 1 signals that have overflowed, oldest first: each traps at a bundle boundary (R33)
  satTrap : List (Nat × BitVec 13) := []
  htlb    : List Xlation := []
  itlb    : List Xlation := []
  ibad    : List (Nat × Nat) := []
  -- results of engine commands by queue number, and result slots reserved and not yet written (R313, R314)
  elems   : Tab (List W64) := []
  resv    : Tab Nat := []
  -- barriers: arrived at the cluster's, at the crest's; header wait already passed (R232, R454)
  arrC    : Bool := false
  arrG    : Bool := false
  -- the tick at which it arrived, or at which it had ended with everything performed (R232, R234)
  arrAt   : Nat := 0
  passed  : Option (Nat × Nat) := none
  -- a barrier that has released: the first tick at which the waiting bundle may issue (R233)
  pass    : Option Nat := none
  -- the semaphore conditions that alone keep its bundle waiting: semaphore, threshold, whether passing subtracts (R227)
  waiting : List (Nat × Nat × Bool) := []
  -- a bundle whose conditions a change of a semaphore has met, which issues next: of each, the semaphore, what was taken from
  -- it, and the lane that had passed it last before (R227)
  granted : Option (List (Nat × Nat × Nat)) := none
  -- END has retired (R34)
  fin     : Bool := false
  trap    : TrapRec := {}
deriving DecidableEq, Repr

/-- A line of a sampler cache (R284), and whether it holds an uncorrectable error (R450). -/
structure SampLine where
  src  : Src
  line : Nat
  data : Row
  bad  : Bool := false
deriving DecidableEq, Repr

/-- A command in the time buffer of a copy engine (R333): its start time, the tick it entered, its entry. -/
structure Timed where
  time    : W64
  entered : Nat
  push    : Push
deriving DecidableEq, Repr

/-- A cluster: scratchpad (R214, R217), semaphores (R225, R226), CLSTAT (R230), the sampler cache, the copy-engine TLB. -/
structure Cluster where
  launch : Nat := 0
  sp     : Store 1024 := []
  full   : Store 1 := []
  -- scratchpad lines that hold an uncorrectable error (R450)
  badSp  : List Nat := []
  sem    : Store 16 := []
  adm    : Store 32 := []
  last   : Tab Nat := []
  barcs  : BitVec 32 := 0
  spovr  : BitVec 16 := 0
  semovf : BitVec 16 := 0
  samp   : List SampLine := []
  sampTo : Nat := 0
  ctlb   : List Xlation := []
  -- its entries that the scout has fetched and no data access has used; what walks have given to accesses that are still to be
  -- made: translations, and failures by space and page of 64 KiB (R249, R250)
  pins   : List Xlation := []
  got    : List Xlation := []
  cbad   : List (Nat × Nat) := []
  tbuf   : List Timed := []
deriving DecidableEq, Repr

/-- A seepage record (R309): a line and the source it is delivered from, the scope of the release, the core that made it. -/
structure SeepRec where
  src    : Src
  line   : Nat
  sc     : Nat
  origin : Nat
deriving DecidableEq, Repr

/-- What a page walk is for (R250). -/
inductive WalkFor where
  | handle (core h : Nat)
  | copy (cluster : Nat)
  | engine (die : Nat)
  | overlay (core : Nat)
deriving DecidableEq, Repr

/-- A walk in a walker queue (R250): the page it is of, and the misses that have joined it with their addresses. -/
structure Walk where
  space : Nat
  root  : Nat
  va    : W64
  who   : List (WalkFor × W64)
deriving DecidableEq, Repr

/-- A port of a compute die (R22, R445 to R447): its STATE and WIDTH codes, when its training began, and both sides of the
retry protocol. -/
structure LinkPort where
  state : Nat := 0
  width : Nat := 0
  -- the tick at which it began to train (R447), the width held before a thermal emergency (R453)
  since : Nat := 0
  held  : Option Nat := none
  -- the sender's side (R446): the next SEQ, the replay buffer with what the far end has not acknowledged, the flits on their
  -- way, each oldest first
  sseq  : BitVec 12 := 0
  out   : List Flit := []
  wire  : List Flit := []
  -- the sequence number expected, whether flits are being dropped until the replay, failures in a row of it (R446)
  next  : BitVec 12 := 0
  drop  : Bool := false
  fails : Nat := 0
  -- the last acknowledgement received, and the payloads delivered that no packet has been made of, by SEQ and virtual
  -- channel, oldest first
  acked : BitVec 12 := 0
  rx    : List (BitVec 12 × BitVec 4 × BitVec 1952) := []
deriving DecidableEq, Repr

/-- A request for a width (a port and its WIDTH code) or for a clock CODE, with the TBASE window it was made in (R423). -/
structure ChangeReq where
  port   : Option Nat
  value  : Nat
  window : Nat
deriving DecidableEq, Repr

/-- A compute die: its walker queue and engine TLB (R249, R250), LINKS (R22), ENGSTAT (R343), SLUSTAT (R366),
CLK (R452). Ports 0 to 2 are the interposer links, 3 to 5 the external ports, by axis. -/
structure Die where
  walks : List Walk := []
  etlb  : List Xlation := []
  -- what walks have given to its engines' accesses that are still to be made (R250)
  got   : List Xlation := []
  ebad  : List (Nat × Nat) := []
  ports : Tab LinkPort := []
  downs : BitVec 8 := 0
  bermlink : BitVec 16 := 0
  semsat   : BitVec 16 := 0
  scoutf   : BitVec 16 := 0
  failed   : BitVec 16 := 0
  badhop : BitVec 16 := 0
  recovs : BitVec 16 := 0
  pool   : Nat := 4096
  aborts : BitVec 16 := 0
  temp  : BitVec 12 := 0
  emerg : Bool := false
  -- the first tick of the time below 95 °C in an emergency (R453)
  cool  : Option Nat := none
  -- packets that routers have handed to its sluice engine as control (R357)
  control : List (BitVec 256 × BitVec 2048) := []
  code  : BitVec 4 := 8
  -- the CODE last requested (R453)
  asked : BitVec 4 := 8
  reqs  : List ChangeReq := []
deriving DecidableEq, Repr

/-- A memory die: CODEC (R264), SECTORS (R267), seepage records and SEEPSTAT (R309, R312), PLSTAT (R397), MEMERR (R451). -/
structure MemDie where
  rmws   : BitVec 32 := 0
  sats   : BitVec 32 := 0
  grans  : BitVec 32 := 0
  sects  : BitVec 32 := 0
  seep   : List SeepRec := []
  straps : BitVec 32 := 0
  sdrops : BitVec 32 := 0
  plcmds  : BitVec 32 := 0
  pldrops : BitVec 16 := 0
  ecorr   : BitVec 32 := 0
  euncorr : BitVec 32 := 0
deriving DecidableEq, Repr

/-- A NOTIFY message (R441): its kind and what its bytes 8 to 15 hold, in the order the spec names them. -/
structure Note where
  kind : Nat
  a    : Nat
  b    : Nat
  c    : Nat
deriving DecidableEq, Repr

/-- The 32-byte header of a message of the host protocol, in the spec's order (R438). -/
structure VvHead where
  magic  : BitVec 16 := 0x5656
  ver    : BitVec 8 := 1
  type   : BitVec 8
  seq    : BitVec 32
  sess   : BitVec 16
  len    : BitVec 16
  status : BitVec 32 := 0
  addr   : W64 := 0
  arg    : W64 := 0
deriving DecidableEq, Repr

/-- A response of the host protocol (R438): its header and its payload. -/
structure Response where
  head : VvHead
  body : List Byte
deriving DecidableEq, Repr

/-- A session of the host protocol (R440): the next SEQ and the response kept. -/
structure Session where
  next : BitVec 32 := 0
  kept : Option Response := none
deriving DecidableEq, Repr

/-- A die slot on its way to its tick, with the tick it arrives (R405, R406). -/
structure SyncSlot where
  tick   : W64
  arrive : W64
  entry  : Push
deriving DecidableEq, Repr

/-- A free frame that the pumphouse may allocate (R269): its physical address in the package, and its bytes. -/
structure Frame where
  base : Nat
  size : Nat
deriving DecidableEq, Repr

/-- An entry of the boot record in flash (R448): the step, and 0 START, 1 END, 2 FAIL; with the step's digest. -/
structure BootEntry where
  step   : Nat
  event  : Nat
  digest : BitVec 256
deriving DecidableEq, Repr

/-- A package: its time base (R111), its place in the fabric (R21), HBM_SPLIT (R26), and the registers of the pumphouse. -/
structure Pkg where
  -- TBASE less the fabric's tick count, the tick of its last correction, TSTAT (R111, R444)
  toff    : W64 := 0
  lastAdj : Nat := 0
  offset  : BitVec 32 := 0
  locked  : Bool := false
  mport   : Bool := false
  topo  : BitVec 21 := 0
  homeg : BitVec 7 := 16
  homeSet : Bool := false
  -- NOTIFY messages: held until session 0 has a destination, sent since with their SEQ, and NVSTAT (R441, R443)
  noteTo  : Bool := false
  held    : List Note := []
  sent    : List (VvHead × Note) := []
  nsent   : BitVec 32 := 0
  nlost   : BitVec 16 := 0
  -- queue semaphores, QERR and SKEW (R406, R407)
  qsem    : Store 32 := []
  qerr    : BitVec 32 := 0
  skew    : Store 16 := []
  syncs   : List SyncSlot := []
  -- frames free for copy-on-write (R269)
  frames  : List Frame := []
  -- sessions, responses sent, VVSTAT (R440, R442)
  sess    : Tab Session := []
  answers : List Response := []
  -- MEMWR messages that wait for a copy-on-write page to be resolved (R439)
  vwait   : List VvReq := []
  rejects : BitVec 32 := 0
  gaps    : BitVec 16 := 0
  resent  : BitVec 16 := 0
  -- start-up (R448): whether it is done, the step that runs next, how each step ran, the measurement, the boot record
  up      : Bool := false
  bstep   : Nat := 0
  bmode   : List Nat := []
  meas    : BitVec 256 := 0
  flash   : List BootEntry := []
deriving DecidableEq, Repr

/-- A command queue (R399 to R403): its registers, the tick its state last changed, and the word in progress: its units,
whether its control slot is done, the die slots still to be sent. -/
structure Queue where
  root    : BitVec 29 := 0
  base    : BitVec 30 := 0
  log2    : BitVec 5 := 0
  tail    : BitVec 32 := 0
  head    : BitVec 32 := 0
  qpri    : BitVec 3 := 0
  en      : Bool := false
  bad     : Bool := false
  mapped  : Bool := false
  blocked : Bool := false
  since   : Nat := 0
  -- whether the pumphouse is amid a word that EN = 0 lets end (R399)
  ending  : Bool := false
  word    : List W64 := []
  ctlDone : Bool := false
  dies    : List Nat := []
  -- the tick tagged to the slots of a SYNC word (R406)
  tick    : Option W64 := none
  -- the launch that the current LAUNCH word has admitted, or that the current KILL or SNAP waits for
  admitted : Option Nat := none
  -- the translations that the current INVAL word has removed, once it has begun (R252)
  inval   : Option (List Xlation) := none
deriving DecidableEq, Repr

/-- Where a launch stands (R411, R415, R422). -/
inductive LPhase where
  | none | waiting | placed | saved | ended
deriving DecidableEq, Repr

/-- A launch descriptor (R408) and the image header that goes with it (R409). -/
structure LaunchDesc where
  image  : Nat
  entry  : Nat
  imgVa  : Nat
  cmask  : BitVec 48
  pri    : Nat
  pre    : Bool
  sluice : Bool
  fabric : Bool
  tiles  : Nat
  detect : Bool
  csem   : Nat
  plslot : List Nat
  drain  : Nat
  wdog   : Nat
  start  : W64
  crec   : Nat
  ctx    : Nat
  ctxLen : Nat
  args   : List W64
  box    : List Nat
  nres   : Nat
  na     : Nat
  crc    : BitVec 32
  code   : Nat
  data   : Nat
  dlen   : Nat
  rings  : Nat
deriving DecidableEq, Repr

/-- The descriptor of a launch that nothing has admitted. -/
def LaunchDesc.none : LaunchDesc :=
  { image := 0, entry := 0, imgVa := 0, cmask := 0, pri := 0, pre := false, sluice := false, fabric := false, tiles := 0,
    detect := false, csem := 0, plslot := [], drain := 0, wdog := 0, start := 0, crec := 0, ctx := 0, ctxLen := 0, args := [],
    box := [], nres := 0, na := 0, crc := 0, code := 0, data := 0, dlen := 0, rings := 0 }

/-- A command that an engine runs (R316): its entry, the runs, phases or words it has done, the units its COUNT has
counted, the status it will end with so far, whether data it read was replaced by zeros. Of a BXCH also: its number k for
its descriptor, and the faces it has sent that have not performed. Of a posted command of queue 2: its place k on its box,
whether it counts on one, and the commands naming its descriptor that came before it on its die, by queue and number. -/
structure Run where
  push   : Push
  prog   : Nat := 0
  count  : Nat := 0
  status : Nat := 1
  zeroed : Bool := false
  k      : Nat := 0
  out    : Nat := 0
  counts : Bool := true
  before : List (Nat × Nat) := []
deriving DecidableEq, Repr

/-- Bytes on their way between dies in router packets (R341, R356, R445): the die where they are, the dies still to come, the bytes;
and of an external link that they are crossing, the payloads of 256 bytes not sent yet, the SEQs of the last flits of those on the
link, those that have come. -/
structure Carry where
  at'  : Nat
  path : List Nat := []
  data : List Byte := []
  across : Bool := false
  left : List (BitVec 2048) := []
  cut  : List (BitVec 12) := []
  got  : List (BitVec 2048) := []
deriving DecidableEq, Repr

/-- A face on its way between berm engines (R338 to R340): the launch's LID, the dies, the descriptor, its number k, the
face it fills, the sender's FACES and BMODE, its bytes and where they are, or the status of a failure notice. -/
structure BermMsg where
  lid   : Nat
  src   : Nat
  dst   : Nat
  fd    : Nat
  k     : Nat
  face  : Nat
  faces : BitVec 8
  mode  : BitVec 8
  carry : Carry
  fail  : Option Nat
  sc    : Nat
deriving DecidableEq, Repr

/-- A BXCH that a die has taken from its queue (R338): which, its FACES and BMODE, where its increments go, the faces that
have given theirs, the faces that will never be filled (R341). -/
structure BermCmd where
  die   : Nat
  fd    : Nat
  k     : Nat
  faces : BitVec 8
  mode  : BitVec 8
  sem   : Nat
  cl    : Nat
  got   : BitVec 8
  lost  : BitVec 8
deriving DecidableEq, Repr

/-- A saved context (R421): cores, clusters, and the entries to push again, the timed ones with their times.
DESIGN CHOICE, log 9. -/
structure SavedCtx where
  cores    : Tab Core
  clusters : Tab Cluster
  pushes   : List Push
  runs     : List Run
deriving DecidableEq, Repr

/-- A snapshot that waits for the launch's next crest barrier: the queue that ordered it, its pages, and once it has been applied
the translations that its invalidation removed (R252, R419). -/
structure Snap where
  queue : Nat
  pages : List Nat
  inval : Option (List Xlation) := none
deriving DecidableEq, Repr

/-- A launch (R408): its descriptor fields and what it accounts for. -/
structure Launch where
  lid    : Nat := 0
  queue  : Nat := 0
  root   : Nat := 0
  strict : Bool := false
  csc    : Nat := 3
  fds    : Store 64 := []
  zeroed : Nat := 0
  traps  : Nat := 0
  phase  : LPhase := .none
  desc   : LaunchDesc := LaunchDesc.none
  -- the TBASE tick it became ready, its entry tick, its order key (R348), forced saves, the drain requested (R420)
  readyAt : Option Nat := none
  entryTick : W64 := 0
  lord   : List Nat := []
  saves  : Nat := 0
  drain  : Option Nat := none
  -- running time accounted at the last save, and the tick of the last placement (R425)
  ran    : Nat := 0
  since  : Nat := 0
  snaps  : List Snap := []
  saved  : Option SavedCtx := none
  -- RESHARD words by descriptor (R378), recoveries by die, and completion records of posting-list slots by engine, slot
  -- and word (R393)
  rseq   : Store 32 := []
  rretry : Store 16 := []
  rstate : Store 2 := []
  recov  : Store 16 := []
  prec   : Store 64 := []
  -- BXCH commands taken by die and descriptor, the ones still owed faces, and faces that came before their command (R339)
  bk     : Store 32 := []
  bcmds  : List BermCmd := []
  bheld  : List BermMsg := []
  -- collectives posted by die and box (R347)
  posts  : Tab Nat := []
  -- a kill on its way: STATUS and trap code (R424, R428)
  doom   : Option (Nat × Nat) := none
deriving DecidableEq, Repr

/-- An engine's input queue (R313, R315): the entries that have entered it, and the entries reserved by pushes that have
not committed yet, by launch. -/
structure EngQueue where
  entries  : List Push := []
  reserved : Tab Nat := []
  running  : List Run := []
  count    : Nat := 0
deriving DecidableEq, Repr

/-- A sluice packet: its 32-byte header and its payload (R356), the dies it goes between next, and on an external link the SEQ
of its last flit once it has been cut (R445). The die that built it stands beside: R359 tells the contributions of two member
children apart, and the header of one that a relay forwards does not name its sender. DEDUCED, log 32. -/
structure Packet where
  frm  : Nat
  peer : Nat
  hdr  : BitVec 256
  data : BitVec 2048
  cut  : Option (BitVec 12) := none
  src    : Nat
deriving DecidableEq, Repr

/-- A payload that an engine has been handed (R357): who sent it, where it lies in the chunk, its wire format. -/
structure Part where
  src    : Nat
  eoff   : Nat
  wire   : Nat
  scales : BitVec 56
  data   : BitVec 2048
deriving DecidableEq, Repr

/-- A member's share of a chunk in flight: its source bytes, child contributions and results received, the packet places it has
reduced, or for ALLTOALL the elements that have come, whether the chunk is written and marked. -/
structure MemberChunk where
  die  : Nat
  src  : List Byte
  got  : List Part
  res  : List Part
  sent : Nat
  done : Bool
deriving DecidableEq, Repr

/-- A chunk in flight (R358): its tree, the flags ORed into its set (R362), its members. -/
structure ChunkRun where
  chunk : Nat
  tree  : Nat
  afl   : BitVec 5
  at'   : List MemberChunk
deriving DecidableEq, Repr

/-- A row of a RESHARD or an ALLTOALL that is not sent yet or was refused (R373 to R376): the members it goes between, its slot
in the schedule, the place in the schedule at which it is sent next, its elements with their bytes, the staged row that it was
split from; of an ALLTOALL its chunk. -/
structure ReRow where
  chunk  : Nat := 0
  src    : Nat
  dst    : Nat
  phase  : Nat
  round  : Nat
  turn   : Nat
  elems  : List (Nat × List Byte)
  origin : Option Nat
deriving DecidableEq, Repr

/-- A row on its way (R374, R376): the staging row that it has drawn at its destination, and where its bytes are. -/
structure WayRow where
  row   : ReRow
  no    : Option Nat
  carry : Carry
deriving DecidableEq, Repr

/-- A staged row that still holds elements for other members: its number, its member, whether it was drawn from
the pool's unreserved rows, the rows split from it that are not accepted yet. -/
structure HeldRow where
  no     : Nat
  member : Nat
  extra  : Bool
  out    : Nat
deriving DecidableEq, Repr

/-- A leaf that a RESHARD has resolved (R375): where, the leaf as it was, the frame it took. -/
structure Undo where
  pkg   : Nat
  space : Nat
  root  : Nat
  va    : Nat
  leaf  : W64
  owner : Nat
  frame : Frame
deriving DecidableEq, Repr

/-- A collective that has matched (R347, R358, R363): its launch's LID and key, its place, its members and their commands in
group order, its trees as lists of die and parent, the trees reserved for, the members that have granted, and once it has
started the links live then, the finished chunks as bits of a number, the next chunk, the chunks in flight, what each member
has written, whether chunks or data are moving. Of a RESHARD also: its rows, the staged ones, the leaves resolved, the tick of its
commit, the rows on their way, and once it is aborted its status with the translations that the invalidation of its new range
removed (R375). -/
structure Coll where
  lid     : Nat
  lord    : List Nat
  k       : Nat
  box     : List Nat
  kind    : Nat
  dies    : List Nat
  pushes  : List Push
  trees   : List (List (Nat × Nat))
  need    : Nat
  granted : Nat
  started : Bool
  live    : List (Nat × Nat)
  fin     : Nat
  next    : Nat
  runs    : List ChunkRun
  counts  : List Nat
  zeroed  : Bool
  moving  : Bool
  rows    : List ReRow
  held    : List HeldRow
  nrow    : Nat
  undo    : List Undo
  tau     : Option Nat
  onWay   : List WayRow := []
  ending  : Option (Nat × List Xlation) := none
deriving DecidableEq, Repr

/-- The state of a fabric. `now` counts ticks of 625 ps, `cur` is the core whose operation the next slot instruction is,
`turn` picks the next of the steps that may come, `ctr` counts free values drawn, `lgen` is the generation of the live link table that
every die knows (R369), `agenda` lists steps to come first with
the ticks before each. `dead` and `weak` list the 256-byte granules that hold an uncorrectable and a correctable error
(R450). Cores are numbered `P·384 + g`, clusters `P·48 + c`, compute and memory dies `P·8 + d`,
command queues `P·64 + q`, packages by `P` (R4, R17, R399). What no table lists is as at reset. -/
structure State where
  now      : Nat
  cur      : Nat
  turn     : Nat
  ctr      : Nat
  lgen     : BitVec 32
  agenda   : List (Nat × Instr)
  mem      : Store 8
  dead     : List Nat
  weak     : List Nat
  cores    : Tab Core
  clusters : Tab Cluster
  dies     : Tab Die
  mdies    : Tab MemDie
  pkgs     : Tab Pkg
  queues   : Tab Queue
  launches : Tab Launch
  engqs    : Tab EngQueue
  berms    : List BermMsg
  colls    : List Coll
  packets  : List Packet
deriving DecidableEq, Repr

/-- The state after reset: nothing placed, memory with nothing listed. DESIGN CHOICE, log 1. -/
def State.reset : State :=
  { now := 0, cur := 0, turn := 0, ctr := 0, lgen := 0, agenda := [], mem := [], dead := [], weak := [], cores := [], clusters := [],
    dies := [], mdies := [], pkgs := [], queues := [], launches := [], engqs := [], berms := [], colls := [], packets := [] }

end Sys2Proof.Machine
end

