-- ==== Sys2Proof/Machine/Store.lean ====
section
/-! DEFINITION. The operations of the two kinds of finite table: `Store`, words by number in canonical form, and `Tab`,
records by number. -/

namespace Sys2Proof

/-- The word at a number; zero where none is listed. -/
def Store.read {w : Nat} : Store w → Nat → BitVec w
  | [], _ => 0
  | (a, v) :: t, k => if a == k then v else Store.read t k

/-- A word written, the canonical form kept: a zero removes the entry. -/
def Store.write {w : Nat} : Store w → Nat → BitVec w → Store w
  | [], k, v => if v == 0 then [] else [(k, v)]
  | (a, x) :: t, k, v =>
    if k < a then (if v == 0 then (a, x) :: t else (k, v) :: (a, x) :: t)
    else if k == a then (if v == 0 then t else (k, v) :: t)
    else (a, x) :: Store.write t k v

/-- Whether every number of a table lies above a bound, in rising order, and no entry is zero. -/
def Store.wfFrom {w : Nat} : Option Nat → Store w → Bool
  | _, [] => true
  | b, (a, v) :: t => (match b with | none => true | some l => l < a) && v != 0 && Store.wfFrom (some a) t

/-- The canonical form: numbers strictly rising, and no entry that holds zero. -/
def Store.wf {w : Nat} (s : Store w) : Bool := Store.wfFrom none s

/-- The words of a run of numbers. -/
def Store.readRun {w : Nat} (s : Store w) (k n : Nat) : List (BitVec w) := (List.range n).map fun i => s.read (k + i)

/-- Words written at a run of numbers. -/
def Store.writeRun {w : Nat} (s : Store w) (k : Nat) : List (BitVec w) → Store w
  | [] => s
  | v :: vs => Store.writeRun (s.write k v) (k + 1) vs

/-- Every entry numbered from `lo` up to but not including `hi` removed: those numbers read as zero. -/
def Store.clearRange {w : Nat} (s : Store w) (lo hi : Nat) : Store w := s.filter fun e => e.1 < lo || hi ≤ e.1

/-- The entries numbered from `lo` up to but not including `hi`. -/
def Store.slice {w : Nat} (s : Store w) (lo hi : Nat) : Store w := s.filter fun e => lo ≤ e.1 && e.1 < hi

/-- The record at a number. -/
def Tab.find {α : Type} : Tab α → Nat → Option α
  | [], _ => none
  | (a, v) :: t, k => if a == k then some v else Tab.find t k

/-- The record at a number, a default where none is listed. -/
def Tab.get {α : Type} (t : Tab α) (d : α) (k : Nat) : α := (Tab.find t k).getD d

/-- A record written. -/
def Tab.put {α : Type} : Tab α → Nat → α → Tab α
  | [], k, v => [(k, v)]
  | (a, x) :: t, k, v =>
    if k < a then (k, v) :: (a, x) :: t
    else if k == a then (k, v) :: t
    else (a, x) :: Tab.put t k v

/-- A record removed. -/
def Tab.drop {α : Type} (t : Tab α) (k : Nat) : Tab α := t.filter fun e => e.1 != k

/-- A function applied to every record listed. -/
def Tab.mapVal {α β : Type} (t : Tab α) (f : Nat → α → β) : Tab β := t.map fun e => (e.1, f e.1 e.2)

/-- The numbers of a table strictly rise. -/
def Tab.wfFrom {α : Type} : Option Nat → Tab α → Bool
  | _, [] => true
  | b, (a, _) :: t => (match b with | none => true | some l => l < a) && Tab.wfFrom (some a) t

/-- The numbers of a table strictly rise. -/
def Tab.wf {α : Type} (t : Tab α) : Bool := Tab.wfFrom none t

/-- An element removed from a list by its position. -/
def removeAt {α : Type} : List α → Nat → List α
  | [], _ => []
  | _ :: t, 0 => t
  | x :: t, k + 1 => x :: removeAt t k

/-- An element of a list replaced by its position. -/
def replaceAt {α : Type} (l : List α) (k : Nat) (v : α) : List α :=
  match l, k with
  | [], _ => []
  | _ :: t, 0 => v :: t
  | x :: t, k + 1 => x :: replaceAt t k v

end Sys2Proof
end

