-- ==== Sys2Proof/Machine/Ops.lean ====
section
/-! DEFINITION. The named operations over the state: numbering of agents, access to records, register access through the
rotating names, tile rows, and the bits a trap code is written as. -/

namespace Sys2Proof.Machine

/-! Numbering (R4, R17, R18). -/

/-- The package of a core. -/
def corePkg (c : Nat) : Nat := c / 384
/-- The global core number of a core (R18). -/
def gcore (c : Nat) : Nat := c % 384
/-- The lane of a core in its cluster. -/
def coreLane (c : Nat) : Nat := c % 8
/-- The cluster of a core. -/
def coreCluster (c : Nat) : Nat := corePkg c * 48 + gcore c / 8
/-- The compute die of a core. -/
def coreDie (c : Nat) : Nat := corePkg c * 8 + gcore c / 48
/-- The core of a lane of a cluster. -/
def clusterCore (cl lane : Nat) : Nat := cl / 48 * 384 + cl % 48 * 8 + lane
/-- The compute die of a cluster. -/
def clusterDie (cl : Nat) : Nat := cl / 48 * 8 + cl % 48 / 6
/-- The package of a die. -/
def diePkg (f : Nat) : Nat := f / 8
/-- The eight cores of a cluster. -/
def clusterCores (cl : Nat) : List Nat := (List.range 8).map (clusterCore cl)

/-- The reset value of RSEED.STATE (R78). -/
def seedReset (c : Nat) : BitVec 32 := 0x6A09E667 ^^^ BitVec.ofNat 32 (gcore c)

/-- A core as nothing has touched it. DESIGN CHOICE, log 1. -/
def Core.atReset (c : Nat) : Core := { regs := { seed := seedReset c }, shadow := { seed := seedReset c } }

/-- The core of a number. -/
def State.core (s : State) (c : Nat) : Core := s.cores.get (Core.atReset c) c
/-- The state with one core's record replaced. -/
def State.setCore (s : State) (c : Nat) (k : Core) : State := { s with cores := s.cores.put c k }
/-- The cluster of a number. -/
def State.cluster (s : State) (n : Nat) : Cluster := s.clusters.get {} n
/-- The state with one cluster's record replaced. -/
def State.setCluster (s : State) (n : Nat) (k : Cluster) : State := { s with clusters := s.clusters.put n k }
/-- The compute die of a number. -/
def State.die (s : State) (f : Nat) : Die := s.dies.get {} f
/-- The state with one compute die's record replaced. -/
def State.setDie (s : State) (f : Nat) (k : Die) : State := { s with dies := s.dies.put f k }
/-- The memory die of a number. -/
def State.mdie (s : State) (f : Nat) : MemDie := s.mdies.get {} f
/-- The state with one memory die's record replaced. -/
def State.setMdie (s : State) (f : Nat) (k : MemDie) : State := { s with mdies := s.mdies.put f k }
/-- The package of a number. -/
def State.pkg (s : State) (p : Nat) : Pkg := s.pkgs.get {} p
/-- The state with one package's record replaced. -/
def State.setPkg (s : State) (p : Nat) (k : Pkg) : State := { s with pkgs := s.pkgs.put p k }
/-- TBASE of a package (R111). -/
def State.tbase (s : State) (p : Nat) : W64 := BitVec.ofNat 64 s.now + (s.pkg p).toff

/-- A package's TBASE as a number: times in microseconds and milliseconds count its ticks (R452). DESIGN CHOICE, log 3. -/
def State.ticks (s : State) (p : Nat) : Nat := (s.tbase p).toNat
/-- The queue of a number. -/
def State.queue (s : State) (q : Nat) : Queue := s.queues.get {} q
/-- The state with one queue's record replaced. -/
def State.setQueue (s : State) (q : Nat) (k : Queue) : State := { s with queues := s.queues.put q k }
/-- The launch of a number. -/
def State.launch (s : State) (l : Nat) : Launch := s.launches.get {} l
/-- The state with one launch's record replaced. -/
def State.setLaunch (s : State) (l : Nat) (k : Launch) : State := { s with launches := s.launches.put l k }

/-- A fresh number for a free value: the counter, which advances. DESIGN CHOICE, log 5. -/
def State.fresh (s : State) : Nat × State := (s.ctr, { s with ctr := s.ctr + 1 })

/-- The header of a NOTIFY message: type 6, of session 0, with 16 bytes of payload (R438, R439, R441). DESIGN CHOICE, log 38. -/
def noteHead (seq : BitVec 32) : VvHead := { type := 6, seq, sess := 0, len := 16 }

/-- A NOTIFY message sent: the device's own counter of messages sent gives its SEQ (R441, R443). DESIGN CHOICE, log 38. -/
def Pkg.sendNote (p : Pkg) (n : Note) : Pkg := { p with sent := p.sent ++ [(noteHead p.nsent, n)], nsent := p.nsent + 1 }

/-- A NOTIFY message sent, or held while session 0 has no destination; a 65th held one replaces the oldest (R441).
DESIGN CHOICE, log 38. -/
def Pkg.notify (p : Pkg) (n : Note) : Pkg :=
  if p.noteTo then p.sendNote n
  else if p.held.length < 64 then { p with held := p.held ++ [n] }
  else { p with held := p.held.drop 1 ++ [n], nlost := if p.nlost == 0xFFFF then p.nlost else p.nlost + 1 }

/-- A NOTIFY message of a package. DESIGN CHOICE, log 38. -/
def State.notify (s : State) (p : Nat) (n : Note) : State := s.setPkg p ((s.pkg p).notify n)

/-! Rotating names (R100). -/

/-- The physical scalar of a name. -/
def physScalar (rrb : BitVec 5) (n : BitVec 5) : Nat :=
  if n.toNat < 24 then n.toNat else 24 + (n.toNat - 24 + 32 - rrb.toNat) % 8

/-- The physical tile of a name. -/
def physTile (rrb : BitVec 5) (n : BitVec 8) : Nat :=
  if n.toNat < 96 || 127 < n.toNat then n.toNat else 96 + (n.toNat - 96 + 32 - rrb.toNat) % 32

/-- A scalar, by its name (R98): `s0` reads zero. -/
def Regs.rd (r : Regs) (n : BitVec 5) : W64 := if n == 0 then 0 else r.x.read (physScalar r.rrb n)

/-- A scalar written by its physical number; `s0` discards (R40). -/
def Regs.wrPhys (r : Regs) (n : Nat) (v : W64) : Regs := if n == 0 then r else { r with x := r.x.write n v }

/-- A predicate as the value before the bundle (R36): 31 reads 1. -/
def Regs.pr (r : Regs) (n : BitVec 5) : Bool := n == 31 || r.p.getLsbD n.toNat

/-- A predicate written. -/
def Regs.setPr (r : Regs) (n : Nat) (b : Bool) : Regs :=
  { r with p := if b then r.p ||| BitVec.ofNat 24 (2 ^ n) else r.p &&& ~~~(BitVec.ofNat 24 (2 ^ n)) }

/-- A loop count. -/
def Regs.loopCount (r : Regs) (n : Nat) : W64 := r.lc.read n
/-- A loop count written. -/
def Regs.setLoop (r : Regs) (n : Nat) (v : W64) : Regs := { r with lc := r.lc.write n v }

/-- A scale register. -/
def Regs.scale (r : Regs) (k : Nat) : Scale := r.k.read k
/-- A handle register. -/
def Regs.handle (r : Regs) (h : Nat) : Handle := r.h.get {} h
/-- A handle register written. -/
def Regs.setHandle (r : Regs) (h : Nat) (v : Handle) : Regs := { r with h := r.h.put h v }

/-- A port as launch entry leaves it (R177). -/
def Port.atEntry (n : Nat) : Port := { chain := if n == 0x0B then 0xFFFFFFFF else 0 }

/-- A transform port. -/
def Regs.port (r : Regs) (n : Nat) : Port := r.ports.get (Port.atEntry n) n
/-- A transform port written. -/
def Regs.setPort (r : Regs) (n : Nat) (p : Port) : Regs := { r with ports := r.ports.put n p }

/-- A row of a tile, by physical number (R144). -/
def Core.row (k : Core) (t r : Nat) : Row := k.tile.read (t * 32 + r)
/-- A row of a tile written; a write of a whole word replaces its bad check bits (R152). -/
def Core.setRow (k : Core) (t r : Nat) (v : Row) : Core :=
  { k with tile := k.tile.write (t * 32 + r) v, bad := k.bad.filter fun b => b.reg != .row t r }
/-- The 32 rows of a tile. -/
def Core.rows (k : Core) (t : Nat) : List Row := (List.range 32).map (k.row t)
/-- Rows of a tile written from row `r` on. -/
def Core.setRows (k : Core) (t r : Nat) : List Row → Core
  | [] => k
  | v :: vs => (k.setRow t r v).setRows t (r + 1) vs

/-- A ring. -/
def Core.ring (k : Core) (n : Nat) : Ring := k.rings.get {} n
/-- A ring written. -/
def Core.setRing (k : Core) (n : Nat) (r : Ring) : Core := { k with rings := k.rings.put n r }

/-- The shadow carries results of earlier regions too: what lands in a register lands in both (R118, R274 step 1). -/
def Core.landRegs (k : Core) (region : Nat) (f : Regs → Regs) : Core :=
  let k := { k with regs := f k.regs }
  if region < k.region then { k with shadow := f k.shadow } else k

/-- A scalar register written at once by an issuing bundle. -/
def Core.wrX (k : Core) (n : Nat) (v : W64) : Core := { k with regs := k.regs.wrPhys n v }

/-- A row of 128 bytes as a number's low 1024 bits. -/
def rowOf (n : Nat) : Row := BitVec.ofNat 1024 n

/-- The bytes of a word, lowest first (R6). -/
def bytesOf {w : Nat} (n : Nat) (v : BitVec w) : List Byte := (List.range n).map fun i => v.extractLsb' (8 * i) 8

/-- Bytes read as one number, lowest first (R6). -/
def natOfBytes : List Byte → Nat
  | [] => 0
  | b :: bs => b.toNat + 256 * natOfBytes bs

/-- A value landed in a register (R119, R153): scalars and predicates of an earlier region land in the shadow too. -/
def Core.landAt (k : Core) (region : Nat) (d : Dest) (v : List Row) : Core :=
  match d, v with
  | .none, _ => k
  | .handle n pg, _ => k.landRegs region fun r => r.setHandle n { r.handle n with state := .valid, page := pg }
  | .scalar n, x :: _ => k.landRegs region fun r => r.wrPhys n (x.truncate 64)
  | .pred n, x :: _ => k.landRegs region fun r => r.setPr n (x.getLsbD 0)
  | .row t r, x :: _ => k.setRow t r x
  | .tile t, rows => k.setRows t 0 rows
  | .scale n, lo :: hi :: _ => k.landRegs region fun r => { r with k := r.k.write n (hi ++ lo) }
  | _, _ => k

/-- The code of a trap (R424). -/
def Trap.code : Trap → Nat
  | .illegalBundle => 0x01 | .illegalSlot => 0x02 | .predReserved => 0x03 | .bundleConflict => 0x04 | .tileOff => 0x05
  | .tileRange => 0x06 | .handleInvalid => 0x07 | .handleRevoked => 0x08 | .pageFault => 0x09 | .permFault => 0x0A
  | .cowWrite => 0x0B | .seepage => 0x0C | .misalign => 0x0D | .semOverflow => 0x0E | .ringEmptyPop => 0x0F
  | .ispmRange => 0x10 | .regError => 0x11 | .dataError => 0x12 | .trap => 0x13 | .watchdog => 0x14

/-- The page-class traps, which roll back (R274). -/
def Trap.pageClass : Trap → Bool
  | .handleRevoked | .pageFault | .permFault | .cowWrite => true
  | _ => false

/-- Bank `b`'s field of TBANK (R113). -/
def bankCode (tbank : BitVec 16) (b : Nat) : BitVec 2 := tbank.extractLsb' (2 * b) 2

/-- The bank of a main tile (R146). -/
def tileBank (t : Nat) : Option Nat := if t < 128 then some (t / 16) else none

/-- The 32 scratchpad lines or one line: a line's number in the cluster's window, lane in the high part (R214). -/
def lineKey (addr : Nat) : Nat := addr / 2 ^ 21 * 16384 + addr % 2 ^ 21 / 128

/-- The offset at and above which a lane has no byte (R214). -/
def laneTop : Nat := 0x180000

end Sys2Proof.Machine
end

