-- ==== Sys2Proof/Machine/Codec.lean ====
section
/-! DEFINITION. Physical memory and what stands between it and the agents: the address map and channel hash (R24 to R27),
page-table entries and the walk (R241 to R247), stored and delivered formats (R257 to R264), compression counts (R267). -/

namespace Sys2Proof.Machine

/-! The address map (R24, R26, R27). A fabric physical address is `P·2^42 + package PA`. -/

/-- The package of a fabric physical address. -/
def paPkg (a : Nat) : Nat := a / 2 ^ 42
/-- The package physical address of a fabric physical address. -/
def paLocal (a : Nat) : Nat := a % 2 ^ 42

/-- The size of the HASH region (R26). -/
def hashSize (homeg : BitVec 7) : Nat := (64 - homeg.toNat) * 8 * 2 ^ 30

/-- Bits `hi` down to `lo` of a number. -/
def nbits (a hi lo : Nat) : Nat := a / 2 ^ lo % 2 ^ (hi - lo + 1)

/-- The channel of an HBM address, 0 to 255 (R26). -/
def hbmChannel (homeg : BitVec 7) (p : Nat) : Nat :=
  if p < hashSize homeg then
    nbits p 15 8 ^^^ nbits p 23 16 ^^^ nbits p 31 24 ^^^ nbits p 39 32 ^^^ nbits p 41 40
  else
    let q := p - hashSize homeg
    let w := q % (homeg.toNat * 2 ^ 30)
    q / (homeg.toNat * 2 ^ 30) * 32 + (nbits w 12 8 ^^^ nbits w 17 13)

/-- The byte within its channel of an HBM address (R26). -/
def hbmOffset (homeg : BitVec 7) (p : Nat) : Nat :=
  if p < hashSize homeg then nbits p 38 16 * 256 + nbits p 7 0
  else
    let w := (p - hashSize homeg) % (homeg.toNat * 2 ^ 30)
    hashSize homeg / 256 + w / 2 ^ 13 * 256 + nbits w 7 0

/-- The home memory die of a fabric physical address (R27). -/
def State.homeDie (s : State) (a : Nat) : Nat :=
  let p := paLocal a
  paPkg a * 8 + (if p < 2 ^ 39 then hbmChannel (s.pkg (paPkg a)).homeg p / 32 else nbits p 39 37)

/-- Whether bytes `[a, a + n)` of a package are HBM (R24). -/
def inHbm (p n : Nat) : Bool := p + n ≤ 2 ^ 39
/-- Whether bytes `[a, a + n)` of a package are second-tier memory (R24). -/
def inSecond (p n : Nat) : Bool := 2 ^ 40 ≤ p && p + n ≤ 2 ^ 41
/-- Whether bytes of a package are memory. DESIGN CHOICE, log 4. -/
def isMemory (p n : Nat) : Bool := inHbm p n || inSecond p n

/-- Whether bytes lie whole in the HASH region (R26). -/
def inHash (homeg : BitVec 7) (p n : Nat) : Bool := p + n ≤ hashSize homeg
/-- Whether bytes lie whole in the HOME segment of one memory die (R26). -/
def inHome (homeg : BitVec 7) (die p n : Nat) : Bool :=
  let lo := hashSize homeg + die * (homeg.toNat * 2 ^ 30)
  lo ≤ p && p + n ≤ lo + homeg.toNat * 2 ^ 30

/-- The byte at a fabric physical address; a granule whose data cannot be corrected reads zero (R266, R450).
DESIGN CHOICE, log 4. -/
def State.byte (s : State) (a : Nat) : Byte := if s.dead.contains (a / 256) then 0 else s.mem.read a

/-- A run of bytes. -/
def State.bytes (s : State) (a n : Nat) : List Byte := (List.range n).map fun i => s.byte (a + i)

/-- The little-endian word of `n` bytes at a fabric physical address. -/
def State.word (s : State) (a n : Nat) : Nat := natOfBytes (s.bytes a n)

/-- A byte written. -/
def State.setByte (s : State) (a : Nat) (b : Byte) : State := { s with mem := s.mem.write a b }

/-- A run of bytes written. -/
def State.setBytes (s : State) (a : Nat) : List Byte → State
  | [] => s
  | b :: bs => (s.setByte a b).setBytes (a + 1) bs

/-! Page-table entries (R243). -/

/-- The fabric physical address of a leaf's frame. -/
def leafFrame (e : W64) : Nat := (field e 28 35).toNat * 65536
/-- SUB of a leaf. -/
def leafSub (e : W64) : Nat := (field e 24 4).toNat
/-- DFMT of a leaf. -/
def leafDfmt (e : W64) : Nat := (field e 18 4).toNat
/-- SFMT of a leaf. -/
def leafSfmt (e : W64) : Nat := (field e 14 4).toNat
/-- COMP of a leaf. -/
def leafComp (e : W64) : Bool := e.getLsbD 13
/-- SIZE of a leaf. -/
def leafSize (e : W64) : BitVec 2 := field e 11 2
/-- HOMEDIE of a leaf. -/
def leafHomeDie (e : W64) : Nat := (field e 8 3).toNat
/-- PLACE of a leaf. -/
def leafPlace (e : W64) : BitVec 2 := field e 6 2
/-- COW of a leaf. -/
def leafCow (e : W64) : Bool := e.getLsbD 5
/-- X of a leaf. -/
def leafX (e : W64) : Bool := e.getLsbD 4
/-- W of a leaf. -/
def leafW (e : W64) : Bool := e.getLsbD 3
/-- R of a leaf. -/
def leafR (e : W64) : Bool := e.getLsbD 2
/-- T of an entry. -/
def entryT (e : W64) : Bool := e.getLsbD 1
/-- V of an entry. -/
def entryV (e : W64) : Bool := e.getLsbD 0

/-- The page size of a leaf in bytes. -/
def pageSize (e : W64) : Nat :=
  match (leafSize e).toNat with
  | 0 => 65536 | 1 => 2 ^ 21 | _ => 2 ^ 30

/-- Whether a format code is an MX format (R257). -/
def isMxCode (f : Nat) : Bool := 6 ≤ f && f ≤ 8

/-- The element format of a stored or delivered format (R257). -/
def pageFmt (f : Nat) : FloatFmt :=
  match f with
  | 1 => fp32 | 2 => bf16 | 3 => fp16 | 4 => e4m3 | 5 => e5m2 | 6 => e4m3 | 7 => e5m2 | _ => e2m1

/-- The bytes of one element of a plain format (R257). -/
def elemBytes (f : Nat) : Nat :=
  match f with
  | 1 => 4 | 2 | 3 => 2 | _ => 1

/-- The elements of an MX unit (R257) and of one of its rows (R258). -/
def unitElems (f : Nat) : Nat := if f == 8 then 8192 else 4096
/-- The elements of one row of an MX unit (R258). -/
def rowElems (f : Nat) : Nat := if f == 8 then 256 else 128
/-- The bits of an MX element. -/
def mxBits (f : Nat) : Nat := if f == 8 then 4 else 8

/-- The bytes of an MX unit (R258). -/
def mxUnit : Nat := 4352

/-- The elements of a delivered view of `p` bytes (R259). -/
def viewElems (dfmt p : Nat) : Nat := if isMxCode dfmt then p / mxUnit * unitElems dfmt else p / elemBytes dfmt

/-- The bytes of backing behind a page (R259). -/
def backing (sfmt dfmt p : Nat) : Nat :=
  if sfmt == dfmt then p
  else
    let n := viewElems dfmt p
    let b := if isMxCode sfmt then (n + unitElems sfmt - 1) / unitElems sfmt * mxUnit else n * elemBytes sfmt
    (b + 255) / 256 * 256

/-- Whether an entry at a level breaks R244, apart from its next table and its frame. -/
def entryBad (e : W64) (lvl : Nat) : Bool :=
  !entryV e ||
  (if entryT e then lvl == 3 || field e 50 14 != 0 || field e 2 19 != 0
   else lvl < 2 || field e 63 1 != 0 || field e 22 2 != 0
     || (lvl == 2 && leafSize e != 2) || (lvl == 3 && leafSize e == 2) || leafSize e == 3 || leafPlace e == 3
     || 8 < leafSfmt e || 8 < leafDfmt e || ((leafSfmt e == 0) != (leafDfmt e == 0))
     || (leafSfmt e != leafDfmt e && leafPlace e == 0) || (leafHomeDie e != 0 && leafPlace e == 0)
     || (leafSub e != 0 && leafSfmt e == leafDfmt e)
     || (leafSfmt e == leafDfmt e && leafFrame e % pageSize e != 0))

/-- Whether a leaf's backing lies where its PLACE says (R247). -/
def placeOk (homeg : BitVec 7) (e : W64) : Bool :=
  let p := paLocal (leafFrame e) + leafSub e * 4096
  let n := backing (leafSfmt e) (leafDfmt e) (pageSize e)
  match (leafPlace e).toNat with
  | 0 => inHash homeg p n
  | 1 => inHome homeg (leafHomeDie e) p n
  | _ => inSecond p n && nbits p 39 37 == leafHomeDie e && nbits (p + n - 1) 39 37 == leafHomeDie e

/-- The page-table walk (R242, R244): `tbl` is the package physical address of this level's table. -/
def walkFrom (s : State) (pkg : Nat) (va : Nat) : List Nat → Nat → Option W64
  | [], _ => none
  | lvl :: rest, tbl =>
    if !isMemory tbl 8192 then none
    else
      let idx := nbits va (55 - 10 * lvl) (46 - 10 * lvl)
      let e : W64 := BitVec.ofNat 64 (s.word (pkg * 2 ^ 42 + tbl + 8 * idx) 8)
      if entryBad e lvl then none
      else if entryT e then walkFrom s pkg va rest ((field e 21 29).toNat * 8192)
      else if placeOk (s.pkg pkg).homeg e then some e else none

/-- A translation of a virtual address of a space whose level-0 table lies at `root` of package `pkg` (R241, R242). -/
def State.walk (s : State) (pkg space root va : Nat) : Option Xlation :=
  if va / 2 ^ 56 != 0 then none
  else (walkFrom s pkg va [0, 1, 2, 3] root).map fun e => ⟨space, va / pageSize e * pageSize e, e⟩

/-- Whether a translation maps an address of a space. -/
def Xlation.covers (x : Xlation) (space va : Nat) : Bool :=
  x.space == space && x.base ≤ va && va < x.base + pageSize x.leaf

/-- Where byte `o` of a translated page is delivered from: its source and its place there. -/
def Xlation.at (x : Xlation) (o : Nat) : Src × Nat :=
  let e := x.leaf
  if leafSfmt e == leafDfmt e && !isMxCode (leafSfmt e) then (⟨0, 0, 0, 0, leafComp e⟩, leafFrame e + o)
  else (⟨leafFrame e + leafSub e * 4096, leafSfmt e, leafDfmt e, pageSize e, leafComp e⟩, o)

/-! Reading through the codec (R258 to R260). -/

/-- Whether delivered byte `o` of an MX view is one that reads zero and ignores writes (R258, R259). -/
def mxHole (dfmt size o : Nat) : Bool :=
  o / mxUnit ≥ size / mxUnit || (dfmt != 8 && o % mxUnit ≥ 4096 && o % mxUnit % 8 ≥ 4)

/-- The exact value of stored element `e` (R79, R92, R258). -/
def storedElem (s : State) (src : Src) (e : Nat) : XVal :=
  let f := pageFmt src.sfmt
  if isMxCode src.sfmt then
    let u := src.frame + e / unitElems src.sfmt * mxUnit
    let i := e % unitElems src.sfmt
    let r := i / rowElems src.sfmt
    let j := i % rowElems src.sfmt
    let b := (s.byte (u + 128 * r + j * mxBits src.sfmt / 8)).toNat
    let code := if src.sfmt == 8 then b / 16 ^ (j % 2) % 16 else b
    mxValue f (s.byte (u + 4096 + 8 * r + j / 32)).toNat code
  else f.value (s.word (src.frame + e * elemBytes src.sfmt) (elemBytes src.sfmt))

/-- One rounding of the codec: RNE with saturation, and whether it saturated (R260, R264). -/
def codecRound (x : XVal) (f : FloatFmt) : Nat × Nat :=
  let (v, fl) := roundWith x (.flt f) .rne true 0
  (v, if fl &&& fOF != 0 || (x.isInf && f.sp != .ieee) then 1 else 0)

/-- A block quantised by the codec: scale, codes and saturations (R260, R264). -/
def codecBlock (f : FloatFmt) (vs : List XVal) : Nat × List Nat × Nat :=
  match mxQuantise f true vs ⟨0, 0⟩ with
  | ((c, es), _) =>
    let n := if c == 0xFF then 0
      else (vs.filter fun x => ((roundWith (x.shift (127 - (c : Int))) (.flt f) .rne true 0).2 &&& fOF) != 0).length
    (c, es, n)

/-- The 32 exact values of a stored block. -/
def storedBlock (s : State) (src : Src) (b : Nat) : List XVal :=
  (List.range 32).map fun i => storedElem s src (32 * b + i)

/-- The block and the place in it of a delivered byte of an MX view: `inl` the place of an element byte, `inr ()` its
scale byte. -/
def mxPlace (dfmt o : Nat) : Nat × Option Nat :=
  let base := o / mxUnit * (unitElems dfmt / 32)
  let w := o % mxUnit
  let perRow := rowElems dfmt / 32
  if w < 4096 then
    let r := w / 128
    let byte := w % 128
    (base + r * perRow + byte / (4 * mxBits dfmt), some (byte % (4 * mxBits dfmt)))
  else
    let r := (w - 4096) / 8
    (base + r * perRow + (w - 4096) % 8, none)

/-- A byte of element codes packed `w` bits at a time (R9). -/
def codeByte (w : Nat) (codes : List Nat) (i : Nat) : Byte := BitVec.ofNat 8 (pack w codes >>> (8 * i))

/-- A delivered byte of a page that is no plain page, and the saturations of its conversion (R260). -/
def deliverByte (s : State) (src : Src) (o : Nat) : Byte × Nat :=
  if isMxCode src.dfmt && mxHole src.dfmt src.size o then (0, 0)
  else if src.sfmt == src.dfmt then (s.byte (src.frame + o), 0)
  else if isMxCode src.dfmt then
    let (b, p) := mxPlace src.dfmt o
    let (c, es, n) := codecBlock (pageFmt src.dfmt) (storedBlock s src b)
    match p with
    | some i => (codeByte (mxBits src.dfmt) es i, if i == 0 then n else 0)
    | none => (BitVec.ofNat 8 c, 0)
  else
    let d := elemBytes src.dfmt
    let (v, n) := codecRound (storedElem s src (o / d)) (pageFmt src.dfmt)
    (BitVec.ofNat 8 (v >>> (8 * (o % d))), if o % d == 0 then n else 0)

/-- A count of a memory die's codec raised. -/
def State.addSats (s : State) (f n : Nat) : State :=
  if n == 0 then s else s.setMdie f { s.mdie f with sats := (s.mdie f).sats + BitVec.ofNat 32 n }

/-- Whether a source is the plain one. -/
def Src.isPlain (src : Src) : Bool := src.sfmt == 0 && src.dfmt == 0

/-- The fabric physical address that fixes the home die of a delivered byte (R27). -/
def Src.homeAddr (src : Src) (o : Nat) : Nat :=
  if src.isPlain then o else if src.sfmt == src.dfmt then src.frame + o else src.frame

/-- Delivered bytes as they stand (R259, R260). -/
def State.delivered (s : State) (src : Src) (o n : Nat) : List Byte :=
  if src.isPlain then s.bytes o n else (List.range n).map fun i => (deliverByte s src (o + i)).1

/-- Numbers without repetition, in order of first appearance. -/
def nubNat : List Nat → List Nat
  | [] => []
  | x :: xs => x :: (nubNat xs).filter (· != x)

/-- The first byte of the element or of the block's elements that a delivered byte is one of, which the codec converts whole; none
for a scale byte and a byte that reads zero. -/
def unitStart (src : Src) (o : Nat) : Option Nat :=
  if isMxCode src.dfmt then
    if mxHole src.dfmt src.size o then none else (mxPlace src.dfmt o).2.map fun i => o - i
  else some (o / elemBytes src.dfmt * elemBytes src.dfmt)

/-- The state after a read of delivered bytes: the codec counts its saturations, of every element and block that it converts
for the read (R264). -/
def State.countRead (s : State) (src : Src) (o n : Nat) : State :=
  if src.sfmt == src.dfmt then s
  else
    let us := nubNat ((List.range n).filterMap fun i => unitStart src (o + i))
    s.addSats (s.homeDie src.frame) ((us.map fun u => (deliverByte s src u).2).foldl (· + ·) 0)

/-- The members of a list with their numbers from `n` on. -/
def numbered {α : Type} : Nat → List α → List (Nat × α)
  | _, [] => []
  | n, x :: xs => (n, x) :: numbered (n + 1) xs

/-! Errors of memory (R450, R451). -/

/-- The physical address of stored element `e`. -/
def storedAddr (src : Src) (e : Nat) : Nat :=
  if isMxCode src.sfmt then
    let i := e % unitElems src.sfmt
    src.frame + e / unitElems src.sfmt * mxUnit + i / rowElems src.sfmt * 128 + i % rowElems src.sfmt * mxBits src.sfmt / 8
  else src.frame + e * elemBytes src.sfmt

/-- The physical address whose granule a delivered byte is read from. -/
def backingAddr (src : Src) (o : Nat) : Nat :=
  if src.isPlain then o
  else if src.sfmt == src.dfmt then src.frame + o
  else if isMxCode src.dfmt then storedAddr src ((mxPlace src.dfmt o).1 * 32)
  else storedAddr src (o / elemBytes src.dfmt)

/-- The physical granules that a delivered byte is read from: its element's, and its block's scale's. -/
def backingGranules (src : Src) (o : Nat) : List Nat :=
  backingAddr src o / 256
    :: (if src.sfmt != src.dfmt && isMxCode src.sfmt then
        let e := if isMxCode src.dfmt then (mxPlace src.dfmt o).1 * 32 else o / elemBytes src.dfmt
        [(src.frame + e / unitElems src.sfmt * mxUnit + 4096) / 256]
      else [])

/-- Whether a read of delivered bytes receives data replaced by zeros. -/
def State.zeroed (s : State) (src : Src) (o n : Nat) : Bool :=
  !s.dead.isEmpty && (List.range n).any fun i => (backingGranules src (o + i)).any s.dead.contains

/-- A granule that holds an uncorrectable error replaced by zeros and counted; one with a correctable error corrected and
counted. -/
def meetGranule (s : State) (g : Nat) : State :=
  let f := s.homeDie (g * 256)
  let m := s.mdie f
  if s.dead.contains g then
    { s.setMdie f { m with euncorr := m.euncorr + 1 } with
      dead := s.dead.filter (· != g), weak := s.weak.filter (· != g), mem := s.mem.clearRange (g * 256) (g * 256 + 256) }
  else if s.weak.contains g then
    { s.setMdie f { m with ecorr := m.ecorr + 1 } with weak := s.weak.filter (· != g) }
  else s

/-- The granules that a read of delivered bytes reaches. -/
def readGranules (src : Src) (o n : Nat) : List Nat :=
  if src.isPlain then (List.range ((o % 256 + n + 255) / 256)).map fun i => o / 256 + i
  else nubNat ((List.range n).flatMap fun i => backingGranules src (o + i))

/-- The errors that a read of delivered bytes finds, dealt with: the state, and the granules it replaced by zeros.
DESIGN CHOICE, log 42. -/
def State.meet (s : State) (src : Src) (o n : Nat) : State × Nat :=
  if s.dead.isEmpty && s.weak.isEmpty then (s, 0)
  else
    let gs := readGranules src o n
    (gs.foldl meetGranule s, (gs.filter s.dead.contains).length)

/-! Writing through the codec (R261, R262). -/

/-- The byte a write leaves at a delivered place: the written one, or the one that stands. -/
def mergeByte (s : State) (src : Src) (ws : List (Nat × Byte)) (o : Nat) : Byte :=
  match ws.find? fun w => w.1 == o with
  | some w => w.2
  | none => (deliverByte s src o).1

/-- The delivered place of byte `i` of block `b` of an MX view. -/
def mxByteOff (dfmt b i : Nat) : Nat :=
  let perUnit := unitElems dfmt / 32
  let perRow := rowElems dfmt / 32
  b / perUnit * mxUnit + b % perUnit / perRow * 128 + b % perUnit % perRow * (4 * mxBits dfmt) + i

/-- The delivered place of the scale byte of block `b` of an MX view. -/
def mxScaleOff (dfmt b : Nat) : Nat :=
  let perUnit := unitElems dfmt / 32
  let perRow := rowElems dfmt / 32
  b / perUnit * mxUnit + 4096 + 8 * (b % perUnit / perRow) + b % perUnit % perRow

/-- The elements that a write names, with the values written (R261). -/
def writtenElems (s : State) (src : Src) (ws : List (Nat × Byte)) : List (Nat × XVal) :=
  let f := pageFmt src.dfmt
  if isMxCode src.dfmt then
    let ws := ws.filter fun w => !mxHole src.dfmt src.size w.1
    let blocks := nubNat (ws.map fun w => (mxPlace src.dfmt w.1).1)
    blocks.flatMap fun b =>
      let sc := (mergeByte s src ws (mxScaleOff src.dfmt b)).toNat
      let whole := ws.any fun w => w.1 == mxScaleOff src.dfmt b
      let w := mxBits src.dfmt
      (List.range 32).filterMap fun i =>
        let o := mxByteOff src.dfmt b (i * w / 8)
        if whole || ws.any (fun x => x.1 == o) then
          some (32 * b + i, mxValue f sc ((mergeByte s src ws o).toNat / 2 ^ (i * w % 8) % 2 ^ w))
        else none
  else
    let d := elemBytes src.dfmt
    (nubNat (ws.map fun w => w.1 / d)).map fun e =>
      (e, f.value (natOfBytes ((List.range d).map fun i => mergeByte s src ws (e * d + i))))

/-- The bytes of one stored block of an MX page, with its scale: where each goes. -/
def storeBlock (s : State) (src : Src) (b c : Nat) (es : List Nat) : State :=
  let u := src.frame + 32 * b / unitElems src.sfmt * mxUnit
  let i := 32 * b % unitElems src.sfmt
  let r := i / rowElems src.sfmt
  let j := i % rowElems src.sfmt
  let w := mxBits src.sfmt
  let s := s.setBytes (u + 128 * r + j * w / 8) ((List.range (4 * w)).map (codeByte w es))
  s.setByte (u + 4096 + 8 * r + j / 32) (BitVec.ofNat 8 c)

/-- One stored block read, modified and written whole (R261). -/
def writeBlock (src : Src) (es : List (Nat × XVal)) (s : State) (b : Nat) : State :=
  let vs := (List.range 32).map fun i =>
    match es.find? fun e => e.1 == 32 * b + i with
    | some e => e.2
    | none => storedElem s src (32 * b + i)
  let part := (List.range 32).any fun i => !(es.any fun e => e.1 == 32 * b + i)
  let (c, codes, n) := codecBlock (pageFmt src.sfmt) vs
  let f := s.homeDie src.frame
  let s := storeBlock s src b c codes
  let s := s.addSats f n
  if part then s.setMdie f { s.mdie f with rmws := (s.mdie f).rmws + 1 } else s

/-- One element of a plain stored format written (R261). -/
def writeElem (src : Src) (s : State) (e : Nat × XVal) : State :=
  let (v, n) := codecRound e.2 (pageFmt src.sfmt)
  let d := elemBytes src.sfmt
  (s.setBytes (src.frame + e.1 * d) ((List.range d).map fun i => BitVec.ofNat 8 (v >>> (8 * i)))).addSats
    (s.homeDie src.frame) n

/-- A compressed granule written: its count and its sectors, whose number is free (R265, R267). DESIGN CHOICE, log 22. -/
def countGranule (s : State) (a : Nat) : State :=
  let f := s.homeDie a
  let (n, s) := s.fresh
  s.setMdie f { s.mdie f with
    grans := (s.mdie f).grans + 1
    sects := (s.mdie f).sects + 1 + (Config.sectors n).zeroExtend 32 }

/-- The physical granules of a page's backing that a write of delivered bytes reaches: those of the elements, and of their
blocks' scales. -/
def touchedGranules (src : Src) (ws : List (Nat × Byte)) (es : List (Nat × XVal)) : List Nat :=
  if src.isPlain then nubNat (ws.map fun w => w.1 / 256)
  else if src.sfmt == src.dfmt then
    nubNat ((ws.filter fun w => !mxHole src.dfmt src.size w.1).map fun w => (src.frame + w.1) / 256)
  else nubNat (es.flatMap fun e =>
    storedAddr src e.1 / 256
      :: (if isMxCode src.sfmt then [(src.frame + e.1 / unitElems src.sfmt * mxUnit + 4096) / 256] else []))

/-- The errors that a write finds in its granules, dealt with before it (R450): it counts them in MEMERR alone (R451).
DESIGN CHOICE, log 42. -/
def State.meetWrite (s : State) (gs : List Nat) : State :=
  if s.dead.isEmpty && s.weak.isEmpty then s else gs.foldl meetGranule s

/-- A write of delivered bytes of one granule, as the codec makes it (R261, R266). -/
def writeGranule (src : Src) (s : State) (ws : List (Nat × Byte)) : State :=
  let es := if src.sfmt == src.dfmt then []
    else (writtenElems s src ws).filter fun e => e.1 < viewElems src.dfmt src.size
  let s := s.meetWrite (touchedGranules src ws es)
  let s' :=
    if src.isPlain then ws.foldl (fun s w => s.setByte w.1 w.2) s
    else if src.sfmt == src.dfmt then
      ws.foldl (fun s w => if mxHole src.dfmt src.size w.1 then s else s.setByte (src.frame + w.1) w.2) s
    else
      if isMxCode src.sfmt then (nubNat (es.map fun e => e.1 / 32)).foldl (writeBlock src es) s
      else es.foldl (writeElem src) s
  if src.comp then (touchedGranules src ws es).foldl (fun s g => countGranule s (g * 256)) s' else s'

/-- Delivered bytes written at their point of coherence, granule by granule (R261, R290). -/
def State.deliverTo (s : State) (src : Src) (ws : List (Nat × Byte)) : State :=
  (nubNat (ws.map fun w => w.1 / 256)).foldl
    (fun s g => writeGranule src s (ws.filter fun w => w.1 / 256 == g)) s

/-- Bytes placed at a run of delivered places. -/
def placed (o : Nat) : List Byte → List (Nat × Byte)
  | [] => []
  | b :: bs => (o, b) :: placed (o + 1) bs

end Sys2Proof.Machine
end

