-- ==== Sys2Proof/Machine/Mem.lean ====
section
/-! DEFINITION. The memory side of a core: scratchpad as the core sees it (R214 to R224), the L1 (R253 to R255), the gated
buffer and what it commits (R271, R272), the order in which committed effects perform (R293, R295), seepage records (R309
to R312), restart marks and rollback (R34, R62, R274). -/

namespace Sys2Proof.Machine

/-! Scratchpad. -/

/-- The row with bytes replaced that fall into it; `at'` is the row's own first byte. -/
def patchRow (row : Row) (at' : Nat) (ws : List (Nat × Byte)) : Row :=
  ws.foldl (fun r w =>
    if at' ≤ w.1 && w.1 < at' + 128 then
      let k := 8 * (w.1 - at')
      (r &&& ~~~((0xFF : BitVec 1024) <<< k)) ||| ((w.2.zeroExtend 1024 : BitVec 1024) <<< k)
    else r) row

/-- The bytes an effect writes in scratchpad. -/
def Effect.spBytes : Effect → List (Nat × Byte)
  | .sp a bs => placed a bs
  | _ => []

/-- Effects of a core that have not reached their place: committed ones, then gated ones, in program order. -/
def Core.pending (k : Core) : List Effect := k.outq.map (·.eff) ++ k.gated.map (·.eff)

/-- The gated effects of earlier bundles, or of the bundle under construction. -/
def Core.gatedOf (k : Core) (early : Bool) : List Effect :=
  (k.gated.filter fun g => decide (g.seq < k.seq) == early).map (·.eff)

/-- The lines that a MOUTS of the bundle under construction writes (R41, R203). -/
def Core.ownLines (k : Core) : List (Nat × Byte) :=
  k.mout.flatMap fun m => match m.lines with
    | some (a, _, bs) => if m.seq < k.seq then [] else placed a bs
    | none => []

/-- The bytes of a scratchpad line with the core's own writes over them, in program order: those on their way, those of
earlier bundles still gated, those of earlier slots of its bundle (R41, R221). -/
def Core.overLine (k : Core) (a : Nat) (r : Row) : Row :=
  let put := fun (r : Row) (e : Effect) => patchRow r a e.spBytes
  (k.gatedOf false).foldl put
    (patchRow ((k.gatedOf true).foldl put ((k.outq.map (·.eff)).foldl put r)) a k.ownLines)

/-- A scratchpad line at its bank: one that holds an uncorrectable error reads zeros (R450). -/
def Cluster.spLine (k : Cluster) (l : Nat) : Row := if k.badSp.contains l then 0 else k.sp.read l

/-- A scratchpad line as a core's record sees it. -/
def State.spLine (s : State) (k : Core) (c addr : Nat) : Row :=
  let a := addr / 128 * 128
  k.overLine a ((s.cluster (coreCluster c)).spLine (lineKey a))

/-- A scratchpad line as the core sees it: its own stores included from their issue (R221). -/
def State.spView (s : State) (c : Nat) (addr : Nat) : Row := s.spLine (s.core c) c addr

/-- Whether an effect changes a line's full bit, and to what. -/
def Effect.fullBit (line : Nat) : Effect → Option Bool
  | .spclr l n => if l ≤ line && line < l + n then some false else none
  | .spfill l n => if l ≤ line && line < l + n then some true else none
  | _ => none

/-- Whether a line is full as the core sees it: its own SPCLR and SPFILL included (R221). -/
def State.fullView (s : State) (c : Nat) (line : Nat) : Bool :=
  (s.core c).pending.foldl (fun b e => (e.fullBit line).getD b) ((s.cluster (coreCluster c)).full.read line == 1)

/-- Bytes of scratchpad as the core sees them. -/
def State.spBytes (s : State) (c : Nat) (addr n : Nat) : List Byte :=
  (List.range n).map fun i => (s.spView c (addr + i)).extractLsb' (8 * ((addr + i) % 128)) 8

/-- Bytes written at their bank (R223), a line that holds an uncorrectable error replaced by zeros first (R450). -/
def Cluster.setSp (k : Cluster) (a : Nat) : List Byte → Cluster
  | [] => k
  | b :: bs =>
    let l := lineKey a
    ({ k with
      sp := k.sp.write l (patchRow (k.spLine l) (a / 128 * 128) [(a, b)]), badSp := k.badSp.filter (· != l) }).setSp (a + 1) bs

/-- Scratchpad lines that an access reads: those that hold an uncorrectable error are replaced by zeros, their full bits kept
(R450). DESIGN CHOICE, log 42. -/
def Cluster.meetSp (k : Cluster) (ls : List Nat) : Cluster :=
  if k.badSp.isEmpty then k
  else
    { k with
      sp := (ls.filter k.badSp.contains).foldl (fun t l => t.write l 0) k.sp
      badSp := k.badSp.filter fun l => !ls.contains l }

/-- A whole scratchpad line written at its bank. -/
def Cluster.setLine (k : Cluster) (l : Nat) (row : Row) : Cluster :=
  { k with sp := k.sp.write l row, badSp := k.badSp.filter (· != l) }

/-- How many of some scratchpad lines an access would find in error. -/
def Cluster.badLines (k : Cluster) (ls : List Nat) : Nat := ((nubNat ls).filter k.badSp.contains).length

/-- Full bits of a run of lines set to one value. -/
def Cluster.setFull (k : Cluster) (l n : Nat) (b : Bool) : Cluster :=
  { k with full := if b then (List.range n).foldl (fun f i => f.write (l + i) 1) k.full
    else k.full.clearRange l (l + n) }

/-- The placed cores of a cluster that may issue now try their bundles in the same tick: one that has only waited for a line to
be full issues in the cycle that fills it, before anything empties or overwrites the line (R219, R238, R239). -/
def State.wakeReaders (s : State) (cl : Nat) : State :=
  let ds := (clusterCores cl).filter fun d => (s.core d).run == .placed && decide ((s.core d).ready ≤ s.now)
  { s with agenda := ds.map (fun d => (0, Instr.bundleIssue d)) ++ s.agenda }

/-- Lines of a cluster that an access fills: their full bits, and the issue of the bundles that waited for them. -/
def State.fillLines (s : State) (cl l n : Nat) : State := (s.setCluster cl ((s.cluster cl).setFull l n true)).wakeReaders cl

/-! The L1 (R253, R254, R255). -/

/-- A line of the L1, if held. -/
def Core.l1Line (k : Core) (src : Src) (line : Nat) : Option L1Line :=
  k.l1.find? fun e => e.src == src && e.line == line

/-- The lines of an L1 set: 64 sets of eight ways, a line's set its number modulo 64. DESIGN CHOICE, log 55. -/
def Core.l1Set (k : Core) (line : Nat) : List L1Line := k.l1.filter fun e => e.line % 64 == line % 64

/-- A line of the L1 replaced. -/
def Core.setL1 (k : Core) (e : L1Line) : Core :=
  { k with l1 := if k.l1.any (fun x => x.src == e.src && x.line == e.line) then
      k.l1.map fun x => if x.src == e.src && x.line == e.line then e else x
    else k.l1 ++ [e] }

/-- The bytes that committed stores still have to bring down. -/
def Core.queuedBytes (k : Core) (src : Src) : List Nat :=
  k.outq.flatMap fun o => match o.eff with
    | .store sr ws _ _ _ => if sr == src then ws.map (·.1) else []
    | _ => []

/-- The dirty bytes of a line that no committed store will bring down: those last stored at CORE scope (R254). -/
def L1Line.looseBytes (e : L1Line) : List (Nat × Byte) :=
  (List.range 128).filterMap fun i =>
    if e.loose.getLsbD i then some (e.line * 128 + i, e.data.extractLsb' (8 * i) 8) else none

/-- A line of the L1 whose error an access finds: a dirty one is replaced by zeros, a clean one is dropped to be fetched again
(R450). -/
def L1Line.met (e : L1Line) : Option L1Line :=
  if !e.bad then some e else if e.dirty == 0 then none else some { e with data := 0, bad := false }

/-- The errors of lines of the L1 that a test picks, found by an access (R450). -/
def Core.meetL1 (k : Core) (pick : L1Line → Bool) : Core :=
  if k.l1.any (·.bad) then { k with l1 := k.l1.filterMap fun e => if pick e then e.met else some e } else k

/-- The dirty lines in error among some, which an access would find replaced by zeros (R450). -/
def Core.badL1 (k : Core) (src : Src) (ls : List Nat) : Nat :=
  (k.l1.filter fun e => e.bad && e.dirty != 0 && e.src == src && ls.contains e.line).length

/-- Write-downs queued for the loose dirty bytes of lines that a test picks (R254). DEDUCED, log 15. -/
def Core.queueDown (k : Core) (seq : Nat) (pick : L1Line → Bool) : Core :=
  let k := k.meetL1 pick
  { k with
    outq := k.outq ++ (k.l1.filter fun e => pick e && e.loose != 0).map fun e =>
      ⟨seq, 0, .store e.src e.looseBytes 16 2 false⟩
    l1 := k.l1.map fun e => if pick e then { e with loose := 0 } else e }

/-- Every clean byte marked not valid (R255). -/
def Core.dropClean (k : Core) : Core :=
  { k with l1 := (k.l1.map fun e => { e with valid := e.valid &&& e.dirty }).filter fun e => e.valid != 0 }

/-- Room made in a line's set: a way chosen freely is evicted, its dirty bytes queued to be written down (R253).
DESIGN CHOICE, log 29. DESIGN CHOICE, log 55. -/
def Core.makeRoom (k : Core) (free line : Nat) : Core :=
  let ways := k.l1Set line
  if ways.length < 8 then k
  else
    match ways[Config.l1Victim free % ways.length]? with
    | none => k
    | some v =>
      let k := k.queueDown k.seq fun e => e.src == v.src && e.line == v.line
      { k with l1 := k.l1.filter fun e => !(e.src == v.src && e.line == v.line) }

/-- A byte stored in the L1: valid, dirty, tagged with its class (R253, R304); loose where no committed store is to bring it
down. -/
def Core.storeByte (k : Core) (src : Src) (cls : Nat) (loose : Bool) (free : Nat) (w : Nat × Byte) : Core :=
  let line := w.1 / 128
  let i := w.1 % 128
  let k := k.meetL1 fun e => e.src == src && e.line == line
  let k := if (k.l1Line src line).isSome then k else k.makeRoom free line
  let e := (k.l1Line src line).getD ⟨src, line, 0, 0, 0, 0, 0, false⟩
  let bit : BitVec 128 := 1#128 <<< i
  k.setL1 { e with
    data := patchRow e.data 0 [(i, w.2)]
    valid := e.valid ||| bit
    dirty := e.dirty ||| bit
    loose := if loose then e.loose ||| bit else e.loose &&& ~~~bit
    cls := e.cls ||| (if cls < 16 then 1#16 <<< cls else 0) }

/-- The value that an effect of the core gives a delivered byte. -/
def Effect.byteAt (src : Src) (o : Nat) : Effect → Option Byte
  | .store sr ws _ _ _ => if sr == src then (ws.find? fun w => w.1 == o).map (·.2) else none
  | _ => none

/-- The newest of some effects on a delivered byte. -/
def newestByte (es : List Effect) (src : Src) (o : Nat) : Option Byte := es.reverse.findSome? (Effect.byteAt src o)

/-- The newest committed store on its way to a delivered byte. -/
def Core.outByte (k : Core) (src : Src) (o : Nat) : Option Byte := newestByte (k.outq.map (·.eff)) src o

/-- A line filled from the slice: only its bytes that are not valid are written (R253), the core's own stores on their way
over them (R292). -/
def Core.fillLine (k : Core) (src : Src) (line free : Nat) (bytes : List Byte) : Core :=
  let k := k.meetL1 fun e => e.src == src && e.line == line
  let k := if (k.l1Line src line).isSome then k else k.makeRoom free line
  let e := (k.l1Line src line).getD ⟨src, line, 0, 0, 0, 0, 0, false⟩
  let ws := (placed 0 bytes).filterMap fun w =>
    if e.valid.getLsbD w.1 then none else some (w.1, (k.outByte src (line * 128 + w.1)).getD w.2)
  k.setL1 { e with data := patchRow e.data 0 ws, valid := BitVec.allOnes 128 }

/-- Bytes written down become clean, but for those a later store of the core has made dirty again (R254). -/
def Core.cleanBytes (k : Core) (src : Src) (ws : List (Nat × Byte)) : Core :=
  let q := k.queuedBytes src
  let offs := (ws.map (·.1)).filter fun o => !q.contains o
  { k with l1 := k.l1.map fun e =>
      if e.src == src then
        let m := offs.foldl (fun (m : BitVec 128) o => if o / 128 == e.line then m ||| (1#128 <<< (o % 128)) else m) 0
        let d := e.dirty &&& (~~~m ||| e.loose)
        { e with dirty := d, cls := if d == 0 then 0 else e.cls }
      else e }

/-- A byte of the L1 that a mask of its line picks. -/
def Core.l1Byte (k : Core) (mask : L1Line → BitVec 128) (src : Src) (o : Nat) : Option Byte :=
  match k.l1Line src (o / 128) with
  | some e => if (mask e).getLsbD (o % 128) then some (e.data.extractLsb' (8 * (o % 128)) 8) else none
  | none => none

/-- A delivered byte as the core's own stores give it: gated, dirty in the L1, or committed and on their way from a line
that was evicted (R272, R296). A committed store is in the L1, which is never older than what is on its way. -/
def Core.dirtyByte (k : Core) (src : Src) (o : Nat) : Option Byte :=
  newestByte (k.gated.map (·.eff)) src o <|> k.l1Byte (·.dirty) src o <|> k.outByte src o

/-- A delivered byte as the core can give it itself at a place in its program: its own stores before it, or the valid bytes of
its L1 (R272, R292). -/
def Core.byteBefore (k : Core) (seq : Nat) (src : Src) (o : Nat) : Option Byte :=
  newestByte ((k.gated.filter fun g => g.seq < seq).map (·.eff)) src o <|> k.l1Byte (·.valid) src o <|> k.outByte src o

/-- A delivered byte as the core can give it itself to the bundle it issues (R272, R292). -/
def Core.ownByte (k : Core) (src : Src) (o : Nat) : Option Byte := k.byteBefore k.seq src o

/-! Loads on their way (R253, R279, R292). -/

/-- A count of replaced data received by a launch (R416). -/
def State.addZeroed (s : State) (l n : Nat) : State :=
  if n == 0 then s else s.setLaunch l { s.launch l with zeroed := (s.launch l).zeroed + n }

/-- The errors found by a read of a launch, counted in its record (R451). -/
def State.foundBy (s : State) (l : Nat) (src : Src) (o n : Nat) : State := (s.meet src o n).1.addZeroed l (s.meet src o n).2

/-- The bytes of a range that the core cannot give itself: a load reads them at the slice. -/
def Core.needsSlice (k : Core) (src : Src) (o n : Nat) : Bool :=
  (List.range n).any fun i => (k.ownByte src (o + i)).isNone

/-- A line read at the slice: the errors found are dealt with and counted (R451), the codec counts its saturations (R264). -/
def State.readLine (s : State) (l : Nat) (src : Src) (line : Nat) : State :=
  (s.foundBy l src (line * 128) 128).countRead src (line * 128) 128

/-- Lines read at the slice by a core: the state, and the core with its L1 filled (R253). -/
def readLines (l : Nat) (src : Src) (f : Nat) (lines : List Nat) (s : State) (k : Core) : State × Core :=
  lines.foldl (fun a n =>
    let bs := a.1.delivered src (n * 128) 128
    (a.1.readLine l src n, a.2.fillLine src n (f + n) bs)) (s, k)

/-- The lines that a load reads at the slice as it takes its value. -/
def LoadPend.misses (l : LoadPend) (k : Core) : List Nat :=
  nubNat ((List.range l.size).filterMap fun i =>
    if (k.byteBefore l.seq l.src (l.off + i)).isNone then some ((l.off + i) / 128) else none)

/-- The lines that a run of delivered bytes meets. -/
def linesOf (o n : Nat) : List Nat := (List.range ((o % 128 + n + 127) / 128)).map fun i => o / 128 + i

/-- The errors that a load finds in its lines of the L1, counted in its launch's record (R450, R451). -/
def findL1 (src : Src) (ls : List Nat) (s : State) (k : Core) : State × Core :=
  (s.addZeroed k.launch (k.badL1 src ls), k.meetL1 fun e => e.src == src && ls.contains e.line)

/-- The value of a load: the core's own bytes over those of the slice, all of one moment (R290, R291, R292). -/
def LoadPend.value (l : LoadPend) (s : State) (k : Core) : List Byte :=
  (placed l.off (s.delivered l.src l.off l.size)).map fun w => (k.byteBefore l.seq l.src w.1).getD w.2

/-- A load takes its value, if it has none yet: the bytes, the state, and the core with the lines it missed filled. -/
def LoadPend.take (l : LoadPend) (s : State) (k : Core) : List Byte × State × Core :=
  match l.val with
  | some bs => (bs, s, k)
  | none =>
    let (s, k) := findL1 l.src (linesOf l.off l.size) s k
    let (f, s') := s.fresh
    let (s', k') := readLines k.launch l.src f (l.misses k) s' k
    (l.value s k, s', k')

/-- The load at a position takes its value before its data returns. -/
def takeEarly (i : Nat) (a : State × Core) : State × Core :=
  match a.2.loads[i]? with
  | some l =>
    let (bs, s, k) := l.take a.1 a.2
    (s, { k with loads := k.loads.set i { l with val := some bs } })
  | none => a

/-- The loads on their way that a test picks and that have no value yet take their values now, and those before them: an access
that comes after them is about to perform (R41, R293). -/
def settleLoads (pick : LoadPend → Bool) (s : State) (k : Core) : State × Core :=
  (List.range k.loads.length).foldl (fun a i => if (k.loads.drop i).any fun l => l.val.isNone && pick l then takeEarly i a else a) (s, k)

/-! Seepage records (R309, R310, R312). -/

/-- Whether an agent lies in the domain of an origin at a scope (R289). -/
def inDomain (sc origin agent : Nat) : Bool :=
  match sc with
  | 0 => origin == agent
  | 1 => coreCluster origin == coreCluster agent
  | 2 => coreDie origin == coreDie agent
  | 3 => corePkg origin == corePkg agent
  | _ => true

/-- The source under which the slice keeps a record: only the lines of a conversion page are named by their page, its formats
and the delivered line, the others by their address alone (R309). DESIGN CHOICE, log 56. -/
def seepSrc (src : Src) : Src := if src.sfmt == src.dfmt then ⟨0, 0, 0, 0, false⟩ else { src with comp := false }

/-- The line number under which the slice keeps a record of a delivered byte. DESIGN CHOICE, log 56. -/
def seepLine (src : Src) (o : Nat) : Nat := if src.sfmt == src.dfmt then src.homeAddr o / 128 else o / 128

/-- The records a slice holds at most (R312). -/
def seepRoom : Nat := 262144

/-- A record set, the oldest dropped and counted where there is no room (R309, R312). DESIGN CHOICE, log 56. -/
def MemDie.setSeep (m : MemDie) (r : SeepRec) : MemDie :=
  let kept := m.seep.filter fun x => x.src != r.src || x.line != r.line
  if kept.length < seepRoom then { m with seep := kept ++ [r] }
  else { m with seep := kept.drop 1 ++ [r], sdrops := m.sdrops + 1 }

/-- The record of a line. -/
def State.seepRec (s : State) (src : Src) (o : Nat) : Option SeepRec :=
  (s.mdie (s.homeDie (src.homeAddr o))).seep.find? fun r => r.src == seepSrc src && r.line == seepLine src o

/-- A record set at a line's home slice. -/
def State.setSeep (s : State) (src : Src) (o sc origin : Nat) : State :=
  let f := s.homeDie (src.homeAddr o)
  s.setMdie f ((s.mdie f).setSeep ⟨seepSrc src, seepLine src o, sc, origin⟩)

/-- The seepage check (R310): the record that makes an access seep. -/
def State.seeps (s : State) (src : Src) (o agent : Nat) : Option SeepRec :=
  match s.seepRec src o with
  | none => none
  | some r => if inDomain r.sc r.origin agent then none else some r

/-! Semaphores (R225, R226). -/

/-- A counter. -/
def State.sem (s : State) (cl n : Nat) : Nat := ((s.cluster cl).sem.read n).toNat
/-- An admitted total. -/
def State.adm (s : State) (cl n : Nat) : Nat := ((s.cluster cl).adm.read n).toNat
/-- A counter written. -/
def State.setSem (s : State) (cl n v : Nat) : State :=
  let k := s.cluster cl
  s.setCluster cl { k with sem := k.sem.write n (BitVec.ofNat 16 v) }
/-- An admitted total written. -/
def State.setAdm (s : State) (cl n v : Nat) : State :=
  let k := s.cluster cl
  s.setCluster cl { k with adm := k.adm.write n (BitVec.ofNat 32 v) }
/-- A counter raised, saturating, with no wait tested. -/
def State.addSem (s : State) (cl n v : Nat) : State := s.setSem cl n (min 65535 (s.sem cl n + v))

/-- Waits of a bundle test semaphores one after another: each counts what the ones before it would take (R227). -/
def State.condsPass (s : State) (cl : Nat) : List (Nat × Nat × Bool) → List (Nat × Nat) → Bool
  | [], _ => true
  | w :: ws, sub =>
    let gone := ((sub.filter fun p => p.1 == w.1).map (·.2)).foldl (· + ·) 0
    w.2.1 + gone ≤ s.sem cl w.1 && s.condsPass cl ws (if w.2.2 then (w.1, w.2.1) :: sub else sub)

/-- The lane that last passed a wait on a semaphore; before any has, the one before lane 0 (R227). -/
def State.lastLane (s : State) (cl n : Nat) : Nat := (s.cluster cl).last.get 7 n

/-- The cores of a cluster in a semaphore's round: it begins after the lane that passed last (R227). -/
def State.round (s : State) (cl n : Nat) : List Nat :=
  (List.range 8).map fun i => clusterCore cl ((s.lastLane cl n + 1 + i) % 8)

/-- The lane of a core noted as the last that passed a wait on a semaphore (R227). -/
def State.passed (s : State) (c n : Nat) : State :=
  let q := s.cluster (coreCluster c)
  s.setCluster (coreCluster c) { q with last := q.last.put n (coreLane c) }

/-- A waiting bundle passes its test: its subtractions are made, and it issues next (R227, R454). -/
def State.grant (s : State) (c : Nat) : State :=
  let cl := coreCluster c
  let ws := (s.core c).waiting
  let ds := ws.map fun w => (w.1, if w.2.2 then w.2.1 else 0, s.lastLane cl w.1)
  let s := ds.foldl (fun s d => (s.setSem cl d.1 (s.sem cl d.1 - d.2.1)).passed c d.1) s
  s.setCore c { s.core c with waiting := [], granted := some ds }

/-- Whether a core's waiting bundle passes at a change of a semaphore. -/
def State.grants (s : State) (n c : Nat) : Bool :=
  (s.core c).waiting.any (fun w => w.1 == n) && s.condsPass (coreCluster c) (s.core c).waiting []

/-- A change of a semaphore tests the waiting bundles of its cluster, one after another; those that pass issue in the same
tick, in turn (R227). -/
def State.testWaits (cl n : Nat) (s : State) : State :=
  let r := (s.round cl n).foldl (fun a c =>
    if a.1.grants n c then (a.1.grant c, a.2 ++ [(0, Instr.bundleIssue c)]) else a) (s, ([] : List (Nat × Instr)))
  { r.1 with agenda := r.2 ++ r.1.agenda }

/-- A counter changed, and the waits on it tested (R227). -/
def State.moveSem (s : State) (cl n v : Nat) : State := (s.setSem cl n v).testWaits cl n

/-- What a test has noted of one wait of a bundle taken back: the subtraction, and the lane as the last that passed. -/
def State.unpass (s : State) (c : Nat) (d : Nat × Nat × Nat) : State :=
  let cl := coreCluster c
  let s := s.addSem cl d.1 d.2.1
  if s.lastLane cl d.1 == coreLane c then
    s.setCluster cl { s.cluster cl with last := (s.cluster cl).last.put d.1 d.2.2 }
  else s

/-- What a test has taken for a bundle that passed it given back, without a test: it issues, or waits again, at once. -/
def State.takeBack (s : State) (c : Nat) : State :=
  match (s.core c).granted with
  | none => s
  | some ds =>
    let s := ds.reverse.foldl (fun s d => s.unpass c d) s
    s.setCore c { s.core c with granted := none }

/-- An increment applied, saturating (R226). -/
def State.incSem (s : State) (cl n v : Nat) : State := (s.addSem cl n v).testWaits cl n
/-- An admitted increment applied at commit (R226). -/
def State.applyAdm (s : State) (cl n v : Nat) : State := (s.incSem cl n v).setAdm cl n (s.adm cl n - v)

/-! Engine input queues and walker queues (R250, R313 to R316). -/

/-- The input queue that a push enters, by engine: the copy engine's is per cluster, the berm and sluice engines' per die,
a posting-list engine's per memory die (R313). -/
def pushTarget (core q : Nat) : Nat :=
  match q with
  | 0 => 10000000 + coreCluster core
  | 1 => 20000000 + coreDie core
  | 2 => 30000000 + coreDie core
  | _ => 40000000 + corePkg core * 8 + (q - 8)

/-- The engine input queue of a number. -/
def State.engq (s : State) (t : Nat) : EngQueue := s.engqs.get {} t
/-- The state with one engine input queue replaced. -/
def State.setEngq (s : State) (t : Nat) (q : EngQueue) : State := { s with engqs := s.engqs.put t q }

/-- Entries reserved for a launch raised or lowered by one. -/
def EngQueue.reserve (e : EngQueue) (l : Nat) (up : Bool) : EngQueue :=
  let n := e.reserved.get 0 l
  { e with reserved := e.reserved.put l (if up then n + 1 else n - 1) }

/-- The input-queue entries of an engine (R313, R381). -/
def queueRoom (q : Nat) : Nat := if q == 1 || q == 2 then 32 else 64

/-- The posting entries that a launch uses on a die (R346, R378): a posted command keeps its entry until it ends. -/
def State.sluiceUsed (s : State) (f l : Nat) : Nat :=
  let e := s.engq (30000000 + f)
  ((e.entries ++ e.running.map (·.push)).filter fun p => p.lid == l).length

/-- The free entries of queue `q` for a launch's push to input queue `t`, after reservations (R313, R315, R346). -/
def State.roomIn (s : State) (q t l : Nat) : Nat :=
  let e := s.engq t
  let all := e.entries.length + (e.reserved.map (·.2)).sum
  if q == 2 then
    min (8 - (s.sluiceUsed (t % 10000000) l + e.reserved.get 0 l)) (queueRoom q - (all + e.running.length))
  else queueRoom q - all

/-- An entry put into its input queue: at the end, but before those of the same cycle that cores of higher numbers have pushed
(R315). -/
def insertPush (p : Push) : List Push → List Push
  | [] => [p]
  | e :: es =>
    if e.at' == p.at' && !e.host && !p.host && p.core < e.core then
      { p with no := e.no } :: (e :: es).map fun x => { x with no := x.no + 1 }
    else e :: insertPush p es

/-- An entry put into its input queue. -/
def State.enqueue (s : State) (p : Push) : State :=
  let t := pushTarget p.core p.q
  let q := s.engq t
  s.setEngq t { q with entries := insertPush { p with no := q.count, at' := s.now } q.entries, count := q.count + 1 }

/-- A committed push enters its queue (R314 step 4). -/
def State.enterPush (s : State) (p : Push) : State :=
  let s := s.enqueue p
  let t := pushTarget p.core p.q
  s.setEngq t ((s.engq t).reserve p.lid false)

/-- A push that rolls back frees its entry and its result slot (R314 step 4). -/
def State.cancelPush (s : State) (p : Push) : State :=
  let t := pushTarget p.core p.q
  let q := s.engq t
  let s := s.setEngq t (q.reserve p.lid false)
  if p.res then
    let k := s.core p.core
    s.setCore p.core { k with resv := k.resv.put p.q (k.resv.get 0 p.q - 1) }
  else s

/-! Translations (R249, R250). -/

/-- Whether two translations map a common address. -/
def Xlation.overlaps (a b : Xlation) : Bool :=
  a.space == b.space && a.base < b.base + pageSize b.leaf && b.base < a.base + pageSize a.leaf

/-- A translation put first in a TLB of a number of entries, the last used ones kept; what older walks have given for its page
goes (R245). -/
def tlbPut (n : Nat) (t : List Xlation) (x : Xlation) : List Xlation := (x :: t.filter fun y => !y.overlaps x).take n

/-- The entries of a copy-engine TLB. -/
def copyRoom : Nat := 2048

/-- A translation put into a copy-engine TLB: what older walks have given for its page goes (R245); then the oldest entry that is
not pinned makes room, and where all are pinned none does (R249). -/
def Cluster.fillTlb (q : Cluster) (x : Xlation) : Cluster :=
  if q.ctlb.contains x then q
  else
    let old := q.ctlb.filter fun y => !y.overlaps x
    let q := { q with ctlb := old, pins := q.pins.filter fun y => !y.overlaps x }
    if old.length < copyRoom then { q with ctlb := old ++ [x] }
    else match old.find? fun e => !q.pins.contains e with
      | some e => { q with ctlb := old.erase e ++ [x] }
      | none => q

/-- What a TLB gives for an address: a translation, a walk that has failed, or a miss. -/
inductive Lookup where
  | hit (e : Xlation) | failed | miss

/-- An address looked up in what an agent holds: its TLB, then the translations that walks have given to accesses still to be
made. `bad` lists the pages whose walks have failed for it: an access to one fails, unless a walk of it would now succeed, for
which it then waits (R246, R250). -/
def State.look (s : State) (tlb : List Xlation) (bad : List (Nat × Nat)) (pkg space root va : Nat) : Lookup :=
  if va / 2 ^ 56 != 0 then .failed
  else match tlb.find? fun e => e.covers space va with
    | some e => .hit e
    | none => if bad.contains (space, va / 65536) && (s.walk pkg space root va).isNone then .failed else .miss

/-- An address looked up for a cluster's copy engine or sampler (R249). -/
def State.copyLook (s : State) (q pkg space root va : Nat) : Lookup :=
  s.look ((s.cluster q).ctlb ++ (s.cluster q).got) (s.cluster q).cbad pkg space root va

/-- An address looked up for the engines of a die (R249). -/
def State.engineLook (s : State) (f pkg space root va : Nat) : Lookup :=
  s.look ((s.die f).etlb ++ (s.die f).got) (s.die f).ebad pkg space root va

/-- A translation noted for the accesses that wait for it (R250). -/
def noteGot (got : List Xlation) (x : Xlation) : List Xlation := got.filter (fun y => !y.overlaps x) ++ [x]

/-- Translations of some addresses no longer kept for an access: it has been made. -/
def dropGot (space : Nat) (vas : List Nat) (got : List Xlation) : List Xlation :=
  if got.isEmpty then got else got.filter fun e => !vas.any (e.covers space)

/-- Whether a walk is of an address's page: its part of 64 KiB, for the page's size shows only as the walk ends (R250).
DESIGN CHOICE, log 57. -/
def Walk.isOf (w : Walk) (space root : Nat) (va : W64) : Bool :=
  w.space == space && w.root == root && w.va.toNat / 65536 == va.toNat / 65536

/-- The walks of a queue without the misses of one requester. -/
def leaveWalks (who : WalkFor) (ws : List Walk) : List Walk :=
  (ws.map fun w => { w with who := w.who.filter fun q => q.1 != who }).filter fun w => !w.who.isEmpty

/-- A miss joins the walk of its page in the walker queue of a compute die, or queues one (R250). A handle waits for one walk
at a time: a new one discards the old. DESIGN CHOICE, log 57. -/
def State.queueWalk (s : State) (f space root : Nat) (va : W64) (who : WalkFor) : State :=
  let d := s.die f
  let ws := match who with
    | .handle _ _ => leaveWalks who d.walks
    | _ => d.walks
  let join := fun (w : Walk) =>
    if w.isOf space root va && !w.who.contains (who, va) then { w with who := w.who ++ [(who, va)] } else w
  let ws := if ws.any fun w => w.isOf space root va then ws.map join else ws ++ [⟨space, root, va, [(who, va)]⟩]
  s.setDie f { d with walks := ws }

/-- The address space of a core: its launch's queue, and the fabric place of its level-0 table (R241). -/
def State.space (s : State) (c : Nat) : Nat × Nat := ((s.launch (s.core c).launch).queue, (s.launch (s.core c).launch).root)

/-- Whether a PENDING handle of a core waits for a TLB hit to land. -/
def Core.awaitsHit (k : Core) (h : Nat) : Bool :=
  k.land.any fun l => match l.dest with
    | .handle n _ => n == h
    | _ => false

/-- Whether what a PENDING handle of a core waits for is on its way: a TLB hit or a walk. -/
def State.awaitsXlat (s : State) (c h : Nat) : Bool :=
  (s.core c).awaitsHit h || (s.die (coreDie c)).walks.any fun w => w.who.any fun q => q.1 == .handle c h

/-- Walks queued for every PENDING handle of a core (R139). -/
def queueWalks (c : Nat) (s : State) : State :=
  (s.core c).regs.h.foldl (fun s h =>
    if h.2.state == .pending then
      s.queueWalk (coreDie c) (s.space c).1 (s.space c).2 h.2.va (.handle c h.1)
    else s) s

/-! What commits and when it performs (R271, R272, R293, R295). -/

/-- Whether a committed effect is a release of every class: it waits for every earlier access (R295). -/
def Effect.isRelease : Effect → Bool
  | .store _ _ _ _ rel => rel
  | .spfill _ _ | .semadd _ _ | .semset _ _ => true
  | _ => false

/-- The class of a committed access (R288); 16 stands for every class. DEDUCED, log 15. -/
def Effect.cls? : Effect → Option Nat
  | .store _ _ c _ _ => some c
  | .sp _ _ | .spclr _ _ | .spfill _ _ => some 0
  | _ => none

/-- Whether a committed effect changes a semaphore. -/
def Effect.isSem : Effect → Bool
  | .signal _ _ | .semadd _ _ | .semset _ _ => true
  | _ => false

/-- Whether two effects write a common byte. -/
def Effect.meets (a b : Effect) : Bool :=
  match a, b with
  | .store s1 w1 _ _ _, .store s2 w2 _ _ _ => s1 == s2 && w1.any fun x => w2.any fun y => x.1 == y.1
  | _, _ => false

/-- Whether an earlier committed effect `x` must perform before a later one `y` (R62, R293, R295, R300, R315): semaphore
changes apply in issue order. -/
def Effect.before (x y : Effect) : Bool :=
  match y with
  | .push p =>
    match x with
    | .push p' => pushTarget p.core p.q == pushTarget p'.core p'.q
    | _ => match x.cls? with
      | some c => c == 16 || p.mask.getLsbD c
      | none => false
  | .signal _ _ => x.isSem
  | _ =>
    if y.isRelease then true
    else
      match x.cls?, y.cls? with
      | some a, some b => a == b || a == 16 || b == 16 || x.meets y
      | _, _ => false

/-- Whether an earlier global load of the core, which has not taken its value yet, must do so before a committed effect performs
(R293, R295). -/
def LoadPend.before (l : LoadPend) (y : Effect) : Bool :=
  if l.val.isSome then false
  else if y.isRelease then true
  else match y with
    | .store src ws c _ _ => l.cls == c || c == 16
        || (l.src == src && ws.any fun w => l.off ≤ w.1 && w.1 < l.off + l.size)
    | .push p => p.mask.getLsbD l.cls
    | .sp _ _ | .spclr _ _ => l.cls == 0
    | _ => false

/-- Whether an effect carries class 0, or may: MOUTS lines and SEND rows, which do, come before it (R288, R293). -/
def Effect.zeroClass (e : Effect) : Bool :=
  match e with
  | .push p => p.mask.getLsbD 0
  | _ => e.cls? == some 0 || e.cls? == some 16

/-- Whether the committed effect at a position may perform now. Of two slots of one bundle, M comes before L, L before T, and
T before X (R41): a MOUTS and a load of its own bundle precede it, a SEND of its own bundle does not. A change of a semaphore
comes after the SAT = 1 signals of earlier bundles (R62). -/
def Core.mayPerform (k : Core) (now i : Nat) : Bool :=
  match k.outq[i]? with
  | none => false
  | some o => o.due ≤ now && (k.outq.take i).all (fun x => !x.eff.before o.eff)
      && k.loads.all (fun l => o.seq < l.seq || !l.before o.eff)
      && (!o.eff.isSem || k.sat.all fun g => o.seq ≤ g.seq)
      && ((!o.eff.isRelease && !o.eff.zeroClass)
        || (k.sends.all (fun d => o.seq ≤ d.seq) && k.mout.all (fun m => m.lines.isNone || o.seq < m.seq)))

/-- The effect of a committed entry at its place. -/
def performEff (c : Nat) (s : State) : Effect → State
  | .store src ws _ sc rel =>
    let s := s.deliverTo src ws
    let s := s.setCore c ((s.core c).cleanBytes src ws)
    if rel && sc != 0 then
      (nubNat (ws.map fun w => w.1 / 128)).foldl (fun s l => s.setSeep src (l * 128) sc c) s
    else s
  | .sp a bs => s.setCluster (coreCluster c) ((s.cluster (coreCluster c)).setSp a bs)
  | .spclr l n => s.setCluster (coreCluster c) ((s.cluster (coreCluster c)).setFull l n false)
  | .spfill l n => s.fillLines (coreCluster c) l n
  | .signal n v | .semadd n v => s.applyAdm (coreCluster c) n v
  | .satSignal _ _ _ => s
  | .semset n v => s.moveSem (coreCluster c) n v
  | .push p => s.enterPush p

/-- The address of a slot of a ring (R187). -/
def Ring.slotAddr (r : Ring) (slot : Nat) : Nat := r.base.toNat + slot * 4096

/-- Whether a popped slot of a ring holds a line. -/
def Ring.popped (r : Ring) (l : Nat) : Bool :=
  r.occ.any fun slot => lineKey (r.slotAddr slot) ≤ l && l < lineKey (r.slotAddr slot) + 32

/-- Whether a line is to be emptied by the tick at which it is filled: the emptying is applied first (R219). -/
def State.emptiesFirst (s : State) (cl l due : Nat) : Bool :=
  (clusterCores cl).any fun d =>
    let k := s.core d
    (match k.mma with
      | some m => m.due ≤ due && m.due ≤ s.now && m.rings.any fun n => (k.ring n).popped l
      | none => false)
    || (List.range k.outq.length).any fun i =>
      match k.outq[i]? with
      | some ⟨_, od, .spclr a n⟩ => od ≤ due && a ≤ l && l < a + n && k.mayPerform s.now i
      | _ => false

/-- Whether the committed effect at a position of a core may perform now: a filling comes after the emptyings of its lines
(R219). -/
def State.mayPerform (s : State) (c i : Nat) : Bool :=
  (s.core c).mayPerform s.now i && match (s.core c).outq[i]? with
    | some ⟨_, _, .spfill l n⟩ => !(List.range n).any fun j => s.emptiesFirst (coreCluster c) (l + j) s.now
    | _ => true

/-- The committed effect at a position performed and removed, where it may. -/
def performAt (c i : Nat) (s : State) : State :=
  let k := s.core c
  if s.mayPerform c i then
    match k.outq[i]? with
    | none => s
    | some o => performEff c (s.setCore c { k with outq := removeAt k.outq i }) o.eff
  else s

/-- Whether a committed effect performs as soon as it may, without a step of its own: a release and a push. A store
reaches its place by a step of its own. -/
def Effect.drains : Effect → Bool
  | .store _ _ _ _ _ | .sp _ _ | .spclr _ _ => false
  | _ => true

/-- Releases and pushes that may perform are performed, from the oldest on; `fuel` bounds the entries looked at. -/
def drainFrom (c : Nat) : Nat → Nat → State → State
  | 0, _, s => s
  | fuel + 1, i, s =>
    match (s.core c).outq[i]? with
    | none => s
    | some o =>
      if o.eff.drains && s.mayPerform c i then
        drainFrom c fuel i (performAt c i s)
      else drainFrom c fuel (i + 1) s

/-- Releases and pushes that may perform are performed. DEDUCED, log 15. -/
def drain (c : Nat) (s : State) : State :=
  drainFrom c (s.core c).outq.length 0 s

/-- The first tick at which a committed scratchpad effect may reach its bank (R223). -/
def bankDue (now c addr : Nat) : Nat := now + (if addr / 2 ^ 21 == coreLane c then 1 else 9)

/-- Whether an effect that commits first writes down the loose dirty bytes of a line: a release at CLUSTER scope or wider those of
the classes it covers (R254, R295, R300), another store those of its class and those of its own bytes, which are earlier stores
(R293). -/
def Effect.downs (y : Effect) (e : L1Line) : Bool :=
  match y with
  | .store src ws c sc rel => sc != 0 && (rel || e.cls.getLsbD c
      || (e.src == src && ws.any fun w => w.1 / 128 == e.line && e.loose.getLsbD (w.1 % 128)))
  | .sp _ _ | .spclr _ _ => e.cls.getLsbD 0
  | .spfill _ _ | .semadd _ _ | .semset _ _ | .satSignal _ _ _ => true
  | .push p => e.cls &&& p.mask != 0
  | .signal _ _ => false

/-- One gated entry leaves the buffer (R272): stores enter the L1, once the loads before them have their values; everything that
performs later joins the committed effects; a signal reaches its counter at once unless an earlier change of a semaphore still
has to (R62, R226). DEDUCED, log 15. -/
def commitOne (c : Nat) (s : State) (g : Gate) : State :=
  let k := (s.core c).queueDown g.seq g.eff.downs
  match g.eff with
  | .signal _ _ => drain c (s.setCore c { k with outq := k.outq ++ [⟨g.seq, s.now, g.eff⟩] })
  | .satSignal n v pc => s.setCore c { k with sat := k.sat ++ [⟨g.seq, n, v, pc⟩] }
  | .store src ws cls sc rel =>
    let (s, k) := settleLoads (fun l => l.seq ≤ g.seq && l.before g.eff) s k
    let (f, s) := s.fresh
    let k := ws.foldl (fun k w => k.storeByte src cls (sc == 0) f w) k
    let k := if sc == 0 then k else { k with outq := k.outq ++ [⟨g.seq, s.now, .store src ws cls sc rel⟩] }
    s.setCore c k
  | .sp a _ => s.setCore c { k with outq := k.outq ++ [⟨g.seq, bankDue s.now c a, g.eff⟩] }
  | .spclr l _ => s.setCore c { k with outq := k.outq ++ [⟨g.seq, bankDue s.now c (l / 16384 * 2 ^ 21), g.eff⟩] }
  | _ => s.setCore c { k with outq := k.outq ++ [⟨g.seq, s.now, g.eff⟩] }

/-- The gated buffer commits (R272). -/
def commit (c : Nat) (s : State) : State :=
  let g := (s.core c).gated
  let s := s.setCore c { s.core c with gated := [] }
  drain c (g.foldl (commitOne c) s)

/-- A restart mark at a bundle (R34): the shadow copy is made and the gated buffer commits. -/
def takeMark (c : Nat) (pc : BitVec 13) (s : State) : State :=
  let s := commit c s
  let k := s.core c
  s.setCore c { k with shadow := k.regs, mark := pc, region := k.region + 1, markSeq := k.seq, decr := [] }

/-- The admitted amounts and result reservations of gated entries dropped (R226, R314). -/
def dropGated (c : Nat) (s : State) (g : Gate) : State :=
  match g.eff with
  | .signal n v | .semadd n v => s.setAdm (coreCluster c) n (s.adm (coreCluster c) n - v)
  | .push p => s.cancelPush p
  | _ => s

/-- A handle to be walked again from its recorded address (R139). -/
def Handle.again (h : Handle) : Handle := if h.state == .invalid then h else { h with state := .pending }

/-- Whether a result is lost by a rollback: one of this region that lands in a shadowed register (R274). -/
def Dest.shadowed : Dest → Bool
  | .scalar _ | .pred _ | .scale _ | .handle _ _ => true
  | _ => false

/-- Whether a result makes a handle valid. -/
def Dest.isHandle : Dest → Bool
  | .handle _ _ => true
  | _ => false

/-- The flags that port results on their way carry. -/
def portFlags (r : Regs) : BitVec 5 :=
  r.ports.foldl (fun f p => p.2.wait.foldl (fun f w => f ||| w.2.2) f) 0

/-- Rollback (R274): the region's gated entries are discarded, its semaphore decrements returned, the shadow restored and
its handles walked again. Loads of the region that the rollback leaves take their values first, while its stores stand. -/
def rollback (c : Nat) (s : State) : State :=
  let k := s.core c
  let (s, k) := settleLoads (fun l => l.region == k.region && !l.dest.shadowed) s k
  let s := s.setCore c k
  let s := k.gated.foldl (dropGated c) s
  let s := k.decr.reverse.foldl (fun s d => s.addSem (coreCluster c) d.1 d.2) s
  let s := (nubNat (k.decr.map (·.1))).foldl (fun s n => s.testWaits (coreCluster c) n) s
  let k := s.core c
  let lost := k.land.filter fun l => l.region == k.region && l.dest.shadowed
  let regs := { k.shadow with h := k.shadow.h.mapVal fun _ h => h.again }
  queueWalks c (s.setCore c { k with
    gated := [], decr := [], regs := regs, pc := k.mark, loopBuf := none, waiting := [], granted := none, hold := none
    flags := lost.foldl (fun f l => f ||| l.flags) k.flags ||| portFlags k.regs
    land := k.land.filter fun l => !((l.region == k.region || l.dest.isHandle) && l.dest.shadowed)
    loads := k.loads.filter fun l => !(l.region == k.region && l.dest.shadowed) })

end Sys2Proof.Machine
end

