-- ==== Sys2Proof/Machine/Operands.lean ====
section
/-! DEFINITION. What the slots of a bundle read and write: operand registers of every format after rotation (R40, R46 to
R56, R100), same-destination conflicts (R59, R60), busy registers (R119, R120, R153, R195), tile checks (R57), the context
a slot's meaning reads and the bundle under construction it writes. -/

namespace Sys2Proof.Machine

/-- A register named by a slot, by its physical name. -/
inductive Reg where
  | x (n : Nat)
  | p (n : Nat)
  | preds
  | row (t r : Nat)
  | tile (t : Nat)
  | k (n : Nat)
  | h (n : Nat)
deriving DecidableEq, Repr

/-- Whether two register names share a register (R59). -/
def Reg.meets : Reg → Reg → Bool
  | .x a, .x b => a == b && a != 0
  | .p a, .p b => a == b
  | .preds, .p _ | .p _, .preds | .preds, .preds => true
  | .row t r, .row t' r' => t == t' && r == r'
  | .row t _, .tile t' | .tile t, .row t' _ | .tile t, .tile t' => t == t'
  | .k a, .k b => a == b
  | .h a, .h b => a == b
  | _, _ => false

section
variable (b : BitVec 5)

/-- A scalar operand. -/
def rx (n : BitVec 5) : Reg := .x (physScalar b n)
/-- A row operand. -/
def rr (t : BitVec 8) (r : BitVec 5) : Reg := .row (physTile b t) r.toNat
/-- A whole tile operand. -/
def rt (t : BitVec 8) : Reg := .tile (physTile b t)
/-- A predicate operand field: 31 names no predicate (R36). -/
def rp (n : BitVec 5) : List Reg := if n.toNat < 24 then [.p n.toNat] else []

/-- The registers an instruction reads (R41), `b` being RRB. -/
def regReads : Instr → List Reg
  | .add o | .sub o | .mul o | .mulh o | .div o | .rem o | .and o | .or o | .xor o | .shl o | .shr o | .sar o
  | .min o | .max o | .cmp o | .pset o => [rx b o.ra, rx b o.rb]
  | .clz o | .popc o | .brr o | .xlat o => [rx b o.ra]
  | .sel o => [rx b o.ra, rx b o.rb] ++ rp (o.fn.extractLsb' 0 5)
  | .addi o | .andi o | .ori o | .xori o | .shli o | .shri o | .sari o | .cmpi o | .loop o => [rx b o.ra]
  | .movhi o => [rx b o.rd]
  | .plog o => rp o.pa ++ rp o.pb
  | .pget _ => [.preds]
  | .fadd o | .fsub o | .fmul o | .fdiv o | .fmin o | .fmax o | .fcmp o => [rx b o.ra, rx b o.rb]
  | .ffma o => [rx b o.ra, rx b o.rb, rx b o.rd]
  | .fsqrt o | .fcvt o | .fcvti o | .icvtf o => [rx b o.ra]
  | .mtcr o => [rx b o.ra]
  | .vadd o | .vsub o | .vmul o | .vmin o | .vmax o | .vclamp o | .vmulh o | .vand o | .vor o | .vxor o | .vshl o
  | .vshr o | .vsar o | .vcmp o | .vperm o | .vdot o => [rr b o.ta o.rowa, rr b o.tb o.rowb]
  | .vfma o | .vsel o => [rr b o.ta o.rowa, rr b o.tb o.rowb, rr b o.td o.rowd]
  | .vabs o | .vneg o | .vnot o | .vpopc o | .vmov o | .vrsum o | .vrmax o | .vrmin o | .vexp2 o | .vlog2 o | .vrcp o
  | .vrsq o | .vtanh o => [rr b o.ta o.rowa]
  | .vadds o | .vsubs o | .vmuls o | .vmins o | .vmaxs o | .vrot o | .vscale o => [rr b o.ta o.rowa, rx b o.sb]
  | .vfmas o => [rr b o.ta o.rowa, rx b o.sb, rr b o.td o.rowd]
  | .vbcast o => [rx b o.sb]
  | .vextr o => [rr b o.ta o.rowa]
  | .vins o => [rx b o.sb, rr b o.td o.rowd]
  | .vcvt o => [rr b o.ta o.rowa]
  | .pmov o => [rr b o.ta o.rowa]
  | .mma o => [rt b o.tc] ++ (if isMxTy o.fa then [.k o.ka.toNat] else []) ++ (if isMxTy o.fb then [.k o.kb.toNat] else [])
  | .mmaz o => (if isMxTy o.fa then [.k o.ka.toNat] else []) ++ (if isMxTy o.fb then [.k o.kb.toNat] else [])
  | .mout o => [rt b o.tc]
  | .mouts o => [rt b o.tc, rx b o.ra]
  | .rset o => [rx b o.ra, rx b o.rb]
  | .ldsc o | .lds o | .ldsr o | .ldst o | .spclr o | .spfill o => [rx b o.ra]
  | .sts o => [rx b o.ra, rx b (regLow o.reg)]
  | .stsr o => [rx b o.ra, rr b (regHigh o.reg) (regLow o.reg)]
  | .stst o => [rx b o.ra, rt b (regHigh o.reg)]
  | .ldg o | .ldgAcq o | .ldgr o | .ldgrAcq o | .ldgt o | .ldscg o => [rx b o.ro, .h o.h.toNat]
  | .stg o | .stgRel o => [rx b o.ro, rx b (regLow o.reg)]
  | .stgr o | .stgrRel o => [rx b o.ro, rr b (regHigh o.reg) (regLow o.reg)]
  | .stgt o => [rx b o.ro, rt b (regHigh o.reg)]
  | .aadd o | .amin o | .amax o | .aand o | .aor o | .axor o | .axchg o | .afadd o => [rx b o.rb, rx b o.ro]
  | .acas o => [rx b o.rb, rx b o.rc, rx b o.ro]
  | .ldsmp o => [rx b o.sx, rx b o.sy, rx b o.sz]
  | .epush o | .cpy o | .cpyt o | .cpyf o | .cpyh o | .bxch o | .allred o | .rscat o | .agath o | .bcast o
  | .alltoall o | .reshard o | .plq o => [rx b o.ra, rx b o.rb]
  | .send o => [rr b o.ta o.rowa, rx b o.ra]
  | .recv o => [rx b o.ra]
  | .recvadd o => [rx b o.ra, rr b o.ta o.rowa]
  | .semadd o | .semset o | .semwait o => [rx b o.ra]
  | .ovl o => [rx b o.ra]
  | _ => []

/-- The registers an instruction names as destinations (R59). -/
def regWrites : Instr → List Reg
  | .add o | .sub o | .mul o | .mulh o | .div o | .rem o | .and o | .or o | .xor o | .shl o | .shr o | .sar o
  | .min o | .max o | .clz o | .popc o | .sel o | .pget o | .brr o => [rx b o.rd]
  | .cmp o => rp o.rd
  | .pset _ => [.preds]
  | .xlat o | .hrel o => [.h o.rd.toNat]
  | .addi o | .andi o | .ori o | .xori o | .shli o | .shri o | .sari o => [rx b o.rd]
  | .cmpi o => rp o.rd
  | .loop o => if o.fn.getLsbD 3 then [.preds] else []
  | .loopb o => if o.fn == 0 then [.preds] else []
  | .movi o | .movhi o => [rx b o.rd]
  | .plog o => rp o.pd
  | .fadd o | .fsub o | .fmul o | .ffma o | .fdiv o | .fsqrt o | .fmin o | .fmax o | .fcvt o | .fcvti o
  | .icvtf o => [rx b o.rd]
  | .fcmp o => rp o.rd
  | .brl o => [rx b o.rd]
  | .mfcr o => [rx b o.rd]
  | .vadd o | .vsub o | .vmul o | .vfma o | .vmin o | .vmax o | .vabs o | .vneg o | .vclamp o | .vmulh o | .vand o
  | .vor o | .vxor o | .vnot o | .vshl o | .vshr o | .vsar o | .vpopc o | .vcmp o | .vsel o | .vmov o | .vzero o
  | .viota o | .vperm o | .vrsum o | .vdot o | .vrmax o | .vrmin o | .vexp2 o | .vlog2 o | .vrcp o | .vrsq o
  | .vtanh o => [rr b o.td o.rowd]
  | .vadds o | .vsubs o | .vmuls o | .vfmas o | .vmins o | .vmaxs o | .vbcast o | .vins o | .vrot o
  | .vscale o => [rr b o.td o.rowd]
  | .vextr o => [rx b o.sb]
  | .vcvt o => [rr b o.td o.rowd]
  | .ptake o => [rr b o.td o.rowd]
  | .mma o | .mmaz o => [rt b o.tc]
  | .mout o => rt b o.td :: (if o.mx == 1 then [.k o.kd.toNat] else [])
  | .mzero o => [rt b o.tc]
  | .rget o => [rx b o.rd]
  | .ldsc o => [.k (o.reg.toNat % 16)]
  | .ldscg o => [.k (o.reg.toNat % 16)]
  | .lds o => [rx b (regLow o.reg)]
  | .ldsr o => [rr b (regHigh o.reg) (regLow o.reg)]
  | .ldst o => [rt b (regHigh o.reg)]
  | .ldg o | .ldgAcq o => [rx b (regLow o.reg)]
  | .ldgr o | .ldgrAcq o => [rr b (regHigh o.reg) (regLow o.reg)]
  | .ldgt o => [rt b (regHigh o.reg)]
  | .aadd o | .amin o | .amax o | .aand o | .aor o | .axor o | .axchg o | .acas o | .afadd o => [rx b o.rd]
  | .ldsmp o => [rr b o.td o.rowd]
  | .epop o | .eqstat o | .fdrd o | .cstatReshard o | .cstatLinks o | .plres o => [rx b o.rd]
  | .recv o | .recvadd o => [rr b o.ta o.rowa]
  | .semrd o => [rx b o.rd]
  | .ovl o => [rx b o.rd]
  | _ => []

end

/-- The main or freed tile a register name is of. -/
def Reg.tileOf : Reg → Option Nat
  | .row t _ | .tile t => some t
  | _ => none

/-- Whether a result's register is one that a name shares. -/
def Dest.reg : Dest → Option Reg
  | .none => Option.none
  | .handle _ _ => Option.none
  | .scalar n => some (.x n)
  | .pred n => some (.p n)
  | .row t r => some (.row t r)
  | .tile t => some (.tile t)
  | .scale k => some (.k k)

/-- The rings whose state an instruction reads (R189 to R208). -/
def ringReads : Instr → List Nat
  | .mma o | .mmaz o => [o.rga.toNat, o.rgb.toNat]
  | .rpush o => if o.rd.getLsbD 3 then [] else [o.ring.toNat]
  | .rpop o | .rget o => [o.ring.toNat]
  | _ => []

/-- The handle that an instruction reads (R248, R280, R418). -/
def handleRead : Instr → Option Nat
  | .ldg o | .ldgAcq o | .ldgr o | .ldgrAcq o | .ldgt o | .ldscg o | .stg o | .stgRel o | .stgr o | .stgrRel o
  | .stgt o => some o.h.toNat
  | .aadd o | .amin o | .amax o | .aand o | .aor o | .axor o | .axchg o | .acas o | .afadd o => some o.h.toNat
  | .ovl o => some o.h.toNat
  | _ => none

/-- Whether a slot word reads a register that check bits protect (R152). -/
def Checked.readBy (b : BitVec 5) (w : SlotWord) : Checked → Bool
  | .row t r => (regReads b w.op).any (Reg.row t r).meets
  | .scalar n => (regReads b w.op).any (Reg.x n).meets
  | .preds => w.ctl.psel.toNat < 24 || (regReads b w.op).any Reg.preds.meets
  | .scale n => (regReads b w.op).any (Reg.k n).meets
  | .handle n => handleRead w.op == some n
  | .ring n => (ringReads w.op).contains n

/-- Whether a slot word, issued by a core, writes a word of a register that check bits protect whole, so that its check bits are
good again (R152): a MOUT writes the low 32 bytes of a scale register (R202), a PSET whose mask names every predicate their word.
An LDSC does so as it lands (R211). -/
def BadWord.writtenBy (x : BadWord) (b : BitVec 5) (k : Core) (w : SlotWord) : Bool :=
  match x.reg with
  | .row t r => (regWrites b w.op).any (Reg.row t r).meets
  | .scalar n => (regWrites b w.op).any (Reg.x n).meets
  | .scale n => match w.op with
    | .ldscg o => o.reg.toNat % 16 == n
    | .mout o => o.mx == 1 && o.kd.toNat == n && decide (x.word < 4)
    | _ => false
  | .handle n => match w.op with
    | .xlat o | .hrel o => o.rd.toNat == n
    | _ => false
  | .ring n => match w.op with
    | .rset o => o.ring.toNat == n
    | _ => false
  | .preds => match w.op with
    | .pset o => (k.regs.rd o.rb).truncate 24 == (0xFFFFFF : BitVec 24)
    | _ => false

/-- Whether the code that protects a bad word corrects it: SECDED does in full-correction mode and, in every register but a
tile, in both modes (R151). -/
def BadWord.fixable (w : BadWord) (k : Core) : Bool :=
  w.fix && match w.reg with
    | .row _ _ => !k.ecc
    | _ => true

/-- The numbers by which a REG_ERROR record names a register: its kind, index and row. -/
def Checked.code : Checked → Nat × Nat × Nat
  | .row t r => (0, t, r)
  | .scalar n => (1, n, 0)
  | .preds => (2, 0, 0)
  | .scale n => (3, n, 0)
  | .handle n => (4, n, 0)
  | .ring n => (5, n, 0)

/-- The registers that are busy: results, loads, matrix operations and overlay loads on their way (R119, R153, R195,
R279, R418). LDSC writes are exposed and make nothing busy (R211). -/
def Core.busy (k : Core) : List Reg :=
  k.land.filterMap (·.dest.reg) ++ k.loads.filterMap (·.dest.reg)
    ++ (match k.mma with | some m => [.tile m.tc] | none => [])
    ++ k.mout.flatMap (fun m =>
        (match m.tile with | some (t, _) => [Reg.tile t] | none => [])
          ++ (match m.scale with | some (n, _) => [Reg.k n] | none => []))
    ++ k.ovls.map (fun o => .x o.rd)

/-- A register busy by its name. -/
def Core.isBusy (k : Core) (r : Reg) : Bool := k.busy.any r.meets

/-- The scratchpad lines a MOUTS on its way will write: later accesses to those bytes wait (R203). -/
def Core.linesBusy (k : Core) (addr n : Nat) : Bool :=
  k.mout.any fun m => match m.lines with
    | some (a, len, _) => a < addr + n && addr < a + len
    | none => false

/-- What a slot's meaning reads: the core before the bundle (R41), its number, the slot, the bundle's PC and the next
sequential PC, and which of its destinations a later slot of the bundle has won (R60). -/
structure Ctx where
  c     : Nat
  s     : State
  k     : Core
  slot  : Slot
  pc    : BitVec 13
  next  : BitVec 13
  dropX : Bool
  dropT : Bool
  dropK : Bool

/-- A scalar as held before the bundle. -/
def Ctx.rd (x : Ctx) (n : BitVec 5) : W64 := x.k.regs.rd n
/-- A predicate as held before the bundle. -/
def Ctx.pr (x : Ctx) (n : BitVec 5) : Bool := x.k.regs.pr n
/-- A row as held before the bundle. -/
def Ctx.row (x : Ctx) (t : BitVec 8) (r : BitVec 5) : Row := x.k.row (physTile x.k.regs.rrb t) r.toNat
/-- The rows of a tile as held before the bundle. -/
def Ctx.rows (x : Ctx) (t : BitVec 8) : List Row := x.k.rows (physTile x.k.regs.rrb t)
/-- The rounding mode a field selects (R38, R76, R84). -/
def Ctx.mode (x : Ctx) (rm : BitVec 3) : Mode := modeOf (if rm == 0 then x.k.regs.rmode.toNat else rm.toNat)

/-- The bundle under construction. -/
structure Acc where
  s       : State
  k       : Core
  rnd     : Rnd
  next    : BitVec 13
  bubble  : Nat
  relHeld : Bool
  mtcr    : Option (BitVec 12 × W64)
  mark    : Bool

/-- The bundle's sequence number: its place in program order. -/
def Acc.seq (a : Acc) : Nat := a.k.seq

/-- A result put on its way, or landed at once where its latency is one cycle (R119). -/
def Acc.put (a : Acc) (kind : LandKind) (d : Dest) (v : List Row) (fl : BitVec 5) (lat : Nat) : Acc :=
  if lat ≤ 1 then { a with k := a.k.landAt a.k.region d v }
  else { a with k := { a.k with land := a.k.land ++ [⟨kind, d, v, fl, a.s.now + lat, a.k.region, a.k.seq⟩] } }

/-- Effects put into the gated buffer, each with its count of entries (R271). -/
def Acc.gate (a : Acc) (es : List Effect) : Acc :=
  { a with k := { a.k with gated := a.k.gated ++ es.map fun e => ⟨a.k.seq, 1, e⟩ } }

/-- The destination of a scalar result: none for `s0` and for a write that a later slot has won. -/
def Ctx.destX (x : Ctx) (n : BitVec 5) : Dest :=
  if x.dropX || n == 0 then .none else .scalar (physScalar x.k.regs.rrb n)

/-- The destination of a row result. -/
def Ctx.destRow (x : Ctx) (t : BitVec 8) (r : BitVec 5) : Dest :=
  if x.dropT then .none else .row (physTile x.k.regs.rrb t) r.toNat

/-- The destination of a tile result. -/
def Ctx.destTile (x : Ctx) (t : BitVec 8) : Dest := if x.dropT then .none else .tile (physTile x.k.regs.rrb t)

/-- A scalar result. -/
def Acc.putX (a : Acc) (x : Ctx) (rd : BitVec 5) (v : W64) (lat : Nat) : Acc :=
  a.put (.scalar false) (x.destX rd) [v.zeroExtend 1024] 0 lat

/-- A scalar result with flags raised when it lands (R120). -/
def Acc.putXF (a : Acc) (x : Ctx) (rd : BitVec 5) (v : W64) (fl : BitVec 5) (lat : Nat) : Acc :=
  a.put (.scalar true) (x.destX rd) [v.zeroExtend 1024] fl lat

/-- A predicate result. -/
def Acc.putP (a : Acc) (n : BitVec 5) (v : Bool) (lat : Nat) : Acc :=
  a.put (.scalar false) (.pred n.toNat) [rowOf v.toNat] 0 lat

/-- A predicate result with flags raised when it lands (R120). -/
def Acc.putPF (a : Acc) (n : BitVec 5) (v : Bool) (fl : BitVec 5) (lat : Nat) : Acc :=
  a.put (.scalar true) (.pred n.toNat) [rowOf v.toNat] fl lat

/-- A row result of an instruction that raises no flag (R153). -/
def Acc.putRow (a : Acc) (x : Ctx) (t : BitVec 8) (r : BitVec 5) (v : Nat) (lat : Nat) : Acc :=
  a.put (.row false) (x.destRow t r) [rowOf v] 0 lat

/-- A row result with the flags its instruction raises when it lands (R153, R154). -/
def Acc.putRowF (a : Acc) (x : Ctx) (t : BitVec 8) (r : BitVec 5) (v : Nat) (fl : BitVec 5) (lat : Nat) : Acc :=
  a.put (.row true) (x.destRow t r) [rowOf v] fl lat

/-- The loads on their way that a test picks take their values now, those of the bundle's own earlier slots too: an access of a
later slot comes after them (R41, R293). -/
def Acc.settleLoads (a : Acc) (pick : LoadPend → Bool) : Acc :=
  let (s, k) := Machine.settleLoads pick a.s a.k
  { a with s, k }

/-- What stands between a slot and its issue: nothing, a stall (with an implicit mark or without), or a trap. -/
inductive Probe where
  | go
  | stall (mark : Bool)
  | trap (t : Trap) (w1 w2 : W64)
  /-- PAGE_FAULT of LDSMP at an address: a later access to its page walks again (R246, R250). -/
  | smpFault (va fd : W64)
  /-- A load of a strict launch that would receive replaced data: the lines it reads at the slice, the lines of the L1 and of
  scratchpad that it finds in error (R425, R450). -/
  | dataErr (lines own : List (Src × Nat)) (sp : List Nat)
  /-- A failed admission test: the counter goes to 65,535 and SEM_OVERFLOW is taken (R226). -/
  | semOver (sem : Nat)
  /-- A seepage answer of a memory die (R311). -/
  | seep (die : Nat) (w1 w2 : W64)
deriving DecidableEq, Repr

/-- Whether a probe is a stall. -/
def Probe.isStall : Probe → Bool
  | .stall _ => true
  | _ => false

/-- The first of several probes that is not `go`. -/
def Probe.first : List Probe → Probe
  | [] => .go
  | .go :: ps => Probe.first ps
  | p :: _ => p

/-- A trap where a condition holds. -/
def Probe.trapIf (b : Bool) (t : Trap) (w1 : W64 := 0) (w2 : W64 := 0) : Probe := if b then .trap t w1 w2 else .go

/-- A stall where a condition holds. -/
def Probe.stallIf (b mark : Bool) : Probe := if b then .stall mark else .go

end Sys2Proof.Machine
end

