-- ==== Sys2Proof/Machine/Flags.lean ====
section
/-! DEFINITION. FLAGS (R77, R95, R120, R154): when raised flags are ORed in, and when a read of FLAGS must wait. -/

namespace Sys2Proof.Machine

/-- Flags ORed into FLAGS. -/
def Core.orFlags (k : Core) (f : BitVec 5) : Core := { k with flags := k.flags ||| f }

/-- Whether a result is of an instruction that can raise a flag. -/
def LandKind.raises : LandKind → Bool
  | .scalar b | .row b | .atomic b => b
  | .load | .sample => false

/-- Whether elements of a type are floating-point ones: arithmetic on them can raise flags (R77). -/
def floatTy (ty : BitVec 5) : Bool :=
  match fmtOf ty with
  | .flt _ => true
  | .int _ _ => false

/-- Whether a port's operation rounds, and so can raise flags: quantising and the conversions (R182). -/
def portRaises (n : Nat) : Bool := 4 ≤ n && n ≤ 7

/-- Whether an operation of an earlier bundle that can raise a flag has not completed: an MFCR of FLAGS then waits
(R120, R154). -/
def Core.flagsPending (k : Core) : Bool :=
  k.land.any (·.kind.raises) || k.mma.any (fun m => floatTy m.fa) || k.mout.any (·.flags.isSome)
    || k.regs.ports.any fun p => portRaises p.1 && !p.2.wait.isEmpty

/-- A result that is due lands: its register takes the value, its flags are ORed in (R119, R153, R281). -/
def Core.landOne (k : Core) (i : Nat) : Core :=
  match k.land[i]? with
  | none => k
  | some l => (({ k with land := removeAt k.land i } : Core).landAt l.region l.dest l.val).orFlags l.flags

/-- Whether a kind is of the scalar results. -/
def LandKind.isScalar : LandKind → Bool
  | .scalar _ => true
  | _ => false

/-- Whether a kind is of the row results. -/
def LandKind.isRow : LandKind → Bool
  | .row _ => true
  | _ => false

/-- Whether a kind is of what atomics return. -/
def LandKind.isAtomic : LandKind → Bool
  | .atomic _ => true
  | _ => false

/-- Whether the result at a position is of a kind and due. -/
def Core.landDue (k : Core) (kind : LandKind → Bool) (now i : Nat) : Bool :=
  match k.land[i]? with
  | none => false
  | some l => kind l.kind && l.due ≤ now

end Sys2Proof.Machine
end

