-- ==== Sys2Proof/Machine/Scalar.lean ====
section
/-! DEFINITION. The S slot: integer, predicate, floating-point, branch, loop, handle, control-register and fence
instructions (R98 to R142, R303 to R307). Each `eff…` is the effect of one enabled instruction on the bundle under
construction; `cr…`, `branch…` and `probe…` are shared. -/

namespace Sys2Proof.Machine

/-! Integer instructions (R121 to R124). -/

/-- ADD. -/
def effAdd (o : SReg) (x : Ctx) (a : Acc) : Acc := a.putX x o.rd (x.rd o.ra + x.rd o.rb) 1
/-- SUB. -/
def effSub (o : SReg) (x : Ctx) (a : Acc) : Acc := a.putX x o.rd (x.rd o.ra - x.rd o.rb) 1
/-- MUL: the low half of the product, after three cycles (R119). -/
def effMul (o : SReg) (x : Ctx) (a : Acc) : Acc := a.putX x o.rd (x.rd o.ra * x.rd o.rb) 3

/-- The high half of the 128-bit product, signed or unsigned. -/
def mulHigh (uns : Bool) (p q : W64) : W64 :=
  if uns then ((p.zeroExtend 128 * q.zeroExtend 128) >>> 64).truncate 64
  else ((p.signExtend 128 * q.signExtend 128) >>> 64).truncate 64

/-- MULH. -/
def effMulh (o : SReg) (x : Ctx) (a : Acc) : Acc := a.putX x o.rd (mulHigh (o.fn == 1) (x.rd o.ra) (x.rd o.rb)) 3

/-- The quotient of R122: rounded toward zero, all ones for a zero divisor. -/
def quotient (uns : Bool) (p q : W64) : W64 := if q == 0 then BitVec.allOnes 64 else if uns then p.udiv q else p.sdiv q
/-- The remainder of R122: the dividend's sign, the dividend for a zero divisor. -/
def remainder (uns : Bool) (p q : W64) : W64 := if q == 0 then p else if uns then p.umod q else p.srem q

/-- DIV. -/
def effDiv (o : SReg) (x : Ctx) (a : Acc) : Acc := a.putX x o.rd (quotient (o.fn == 1) (x.rd o.ra) (x.rd o.rb)) 34
/-- REM. -/
def effRem (o : SReg) (x : Ctx) (a : Acc) : Acc := a.putX x o.rd (remainder (o.fn == 1) (x.rd o.ra) (x.rd o.rb)) 34

/-- An immediate, sign-extended from 37 bits (R123). -/
def imm37 (i : BitVec 37) : W64 := i.signExtend 64

/-- ADDI. -/
def effAddi (o : SImm) (x : Ctx) (a : Acc) : Acc := a.putX x o.rd (x.rd o.ra + imm37 o.imm) 1
/-- AND. -/
def effAnd (o : SReg) (x : Ctx) (a : Acc) : Acc := a.putX x o.rd (x.rd o.ra &&& x.rd o.rb) 1
/-- OR. -/
def effOr (o : SReg) (x : Ctx) (a : Acc) : Acc := a.putX x o.rd (x.rd o.ra ||| x.rd o.rb) 1
/-- XOR. -/
def effXor (o : SReg) (x : Ctx) (a : Acc) : Acc := a.putX x o.rd (x.rd o.ra ^^^ x.rd o.rb) 1

/-- A left shift; 64 and more give zero. -/
def shl64 (v : W64) (k : Nat) : W64 := if 64 ≤ k then 0 else v <<< k
/-- A right shift filled with zeros. -/
def shr64 (v : W64) (k : Nat) : W64 := if 64 ≤ k then 0 else v >>> k
/-- A right shift filled with bit 63. -/
def sar64 (v : W64) (k : Nat) : W64 := if 64 ≤ k then (if v.msb then BitVec.allOnes 64 else 0) else v.sshiftRight k

/-- SHL. -/
def effShl (o : SReg) (x : Ctx) (a : Acc) : Acc := a.putX x o.rd (shl64 (x.rd o.ra) (x.rd o.rb).toNat) 1
/-- SHR. -/
def effShr (o : SReg) (x : Ctx) (a : Acc) : Acc := a.putX x o.rd (shr64 (x.rd o.ra) (x.rd o.rb).toNat) 1
/-- SAR. -/
def effSar (o : SReg) (x : Ctx) (a : Acc) : Acc := a.putX x o.rd (sar64 (x.rd o.ra) (x.rd o.rb).toNat) 1
/-- ANDI. -/
def effAndi (o : SImm) (x : Ctx) (a : Acc) : Acc := a.putX x o.rd (x.rd o.ra &&& imm37 o.imm) 1
/-- ORI. -/
def effOri (o : SImm) (x : Ctx) (a : Acc) : Acc := a.putX x o.rd (x.rd o.ra ||| imm37 o.imm) 1
/-- XORI. -/
def effXori (o : SImm) (x : Ctx) (a : Acc) : Acc := a.putX x o.rd (x.rd o.ra ^^^ imm37 o.imm) 1
/-- SHLI. -/
def effShli (o : SImm) (x : Ctx) (a : Acc) : Acc := a.putX x o.rd (shl64 (x.rd o.ra) o.imm.toNat) 1
/-- SHRI. -/
def effShri (o : SImm) (x : Ctx) (a : Acc) : Acc := a.putX x o.rd (shr64 (x.rd o.ra) o.imm.toNat) 1
/-- SARI. -/
def effSari (o : SImm) (x : Ctx) (a : Acc) : Acc := a.putX x o.rd (sar64 (x.rd o.ra) o.imm.toNat) 1

/-- Whether `p < q`, signed or unsigned. -/
def less64 (uns : Bool) (p q : W64) : Bool := if uns then p.ult q else p.slt q

/-- MIN. -/
def effMin (o : SReg) (x : Ctx) (a : Acc) : Acc :=
  a.putX x o.rd (if less64 (o.fn == 1) (x.rd o.rb) (x.rd o.ra) then x.rd o.rb else x.rd o.ra) 1
/-- MAX. -/
def effMax (o : SReg) (x : Ctx) (a : Acc) : Acc :=
  a.putX x o.rd (if less64 (o.fn == 1) (x.rd o.ra) (x.rd o.rb) then x.rd o.rb else x.rd o.ra) 1

/-- Leading zero bits, 0 to 64. -/
def clz64 (v : W64) : W64 := if v == 0 then 64 else BitVec.ofNat 64 (63 - v.toNat.log2)
/-- Set bits of the low `n` bits of a number. -/
def popCount (n v : Nat) : Nat := ((List.range n).filter fun i => v.testBit i).length

/-- CLZ. -/
def effClz (o : SReg) (x : Ctx) (a : Acc) : Acc := a.putX x o.rd (clz64 (x.rd o.ra)) 1
/-- POPC. -/
def effPopc (o : SReg) (x : Ctx) (a : Acc) : Acc := a.putX x o.rd (BitVec.ofNat 64 (popCount 64 (x.rd o.ra).toNat)) 1
/-- MOVI. -/
def effMovi (o : SWide) (x : Ctx) (a : Acc) : Acc := a.putX x o.rd (o.imm.signExtend 64) 1
/-- MOVHI keeps the low 46 bits of its destination. -/
def effMovhi (o : SWide) (x : Ctx) (a : Acc) : Acc :=
  a.putX x o.rd ((o.imm.zeroExtend 64 <<< 46) ||| (x.rd o.rd &&& (0x3FFFFFFFFFFF : W64))) 1
/-- SEL. -/
def effSel (o : SReg) (x : Ctx) (a : Acc) : Acc :=
  a.putX x o.rd (if x.pr (o.fn.extractLsb' 0 5) != o.fn.getLsbD 5 then x.rd o.ra else x.rd o.rb) 1

/-! Predicates (R125 to R128). -/

/-- An integer condition (R125). -/
def intCond (fn : Nat) (p q : W64) : Bool :=
  match fn with
  | 0 => p == q
  | 1 => p != q
  | 2 => p.slt q
  | 3 => !p.slt q
  | 4 => p.ult q
  | 5 => !p.ult q
  | 6 => (p &&& q) != 0
  | _ => (p &&& q) == 0

/-- CMP. -/
def effCmp (o : SReg) (x : Ctx) (a : Acc) : Acc := a.putP o.rd (intCond o.fn.toNat (x.rd o.ra) (x.rd o.rb)) 1
/-- CMPI. -/
def effCmpi (o : SImm) (x : Ctx) (a : Acc) : Acc := a.putP o.rd (intCond o.fn.toNat (x.rd o.ra) (imm37 o.imm)) 1
/-- PLOG. -/
def effPlog (o : SPred) (x : Ctx) (a : Acc) : Acc :=
  a.putP o.pd (o.tt.getLsbD (2 * (x.pr o.pa).toNat + (x.pr o.pb).toNat)) 1
/-- PGET. -/
def effPget (o : SReg) (x : Ctx) (a : Acc) : Acc := a.putX x o.rd (x.k.regs.p.zeroExtend 64) 1
/-- PSET. -/
def effPset (o : SReg) (x : Ctx) (a : Acc) : Acc :=
  let v : BitVec 24 := (x.rd o.ra).truncate 24
  let m : BitVec 24 := (x.rd o.rb).truncate 24
  { a with k := { a.k with regs := { a.k.regs with p := (x.k.regs.p &&& ~~~m) ||| (v &&& m) } } }

/-! Floating point (R129 to R131). -/

/-- The exact value of the low bits of a scalar (R98). -/
def Ctx.fval (x : Ctx) (ty : BitVec 5) (n : BitVec 5) : XVal := (fmtOf ty).value (x.rd n).toNat

/-- A floating result: rounded once, with the flags of its exact form and of its rounding (R80, R129). -/
def floatResult (o : SFloat) (lat : Nat) (v : XVal × BitVec 5) (x : Ctx) (a : Acc) : Acc :=
  let (bits, r) := round v.1 (fmtOf o.ty) (x.mode o.rm) (o.sat == 1) { a.rnd with flags := v.2 }
  ({ a with rnd := r } : Acc).putXF x o.rd (BitVec.ofNat 64 bits) r.flags lat

/-- FADD. -/
def effFadd (o : SFloat) (x : Ctx) (a : Acc) : Acc :=
  floatResult o 4 (xadd (x.mode o.rm) (x.fval o.ty o.ra) (x.fval o.ty o.rb)) x a
/-- FSUB. -/
def effFsub (o : SFloat) (x : Ctx) (a : Acc) : Acc :=
  floatResult o 4 (xadd (x.mode o.rm) (x.fval o.ty o.ra) (x.fval o.ty o.rb).neg) x a
/-- FMUL. -/
def effFmul (o : SFloat) (x : Ctx) (a : Acc) : Acc := floatResult o 4 (xmul (x.fval o.ty o.ra) (x.fval o.ty o.rb)) x a
/-- FFMA: one rounding; the addend is the old destination. -/
def effFfma (o : SFloat) (x : Ctx) (a : Acc) : Acc :=
  floatResult o 4 (xfma (x.mode o.rm) (x.fval o.ty o.ra) (x.fval o.ty o.rb) (x.fval o.ty o.rd)) x a
/-- FDIV. -/
def effFdiv (o : SFloat) (x : Ctx) (a : Acc) : Acc := floatResult o 14 (xdiv (x.fval o.ty o.ra) (x.fval o.ty o.rb)) x a
/-- FSQRT. -/
def effFsqrt (o : SFloat) (x : Ctx) (a : Acc) : Acc := floatResult o 14 (xsqrt (x.fval o.ty o.ra)) x a

/-- A value that needs no rounding, written in a floating format; a NaN is the canonical one. -/
def exactBits (ty : BitVec 5) (v : XVal) : Nat := (roundWith v (fmtOf ty) .rne false 0).1

/-- FMIN. -/
def effFmin (o : SFloat) (x : Ctx) (a : Acc) : Acc :=
  a.putX x o.rd (BitVec.ofNat 64 (exactBits o.ty (xmin (x.fval o.ty o.ra) (x.fval o.ty o.rb)))) 4
/-- FMAX. -/
def effFmax (o : SFloat) (x : Ctx) (a : Acc) : Acc :=
  a.putX x o.rd (BitVec.ofNat 64 (exactBits o.ty (xmax (x.fval o.ty o.ra) (x.fval o.ty o.rb)))) 4

/-- A floating condition and the NV it raises (R130). -/
def floatCond (c : Nat) (p q : XVal) : Bool × BitVec 5 :=
  let un := p.isNan || q.isNan
  match c with
  | 0 => (xeq p q, 0)
  | 1 => (!xeq p q, 0)
  | 2 => (xlt p q, if un then fNV else 0)
  | 3 => (!un && !xlt q p, if un then fNV else 0)
  | 4 => (xlt q p, if un then fNV else 0)
  | 5 => (!un && !xlt p q, if un then fNV else 0)
  | 6 => (un, 0)
  | _ => (!un, 0)

/-- FCMP. -/
def effFcmp (o : SFloat) (x : Ctx) (a : Acc) : Acc :=
  let (b, f) := floatCond o.tys.toNat (x.fval o.ty o.ra) (x.fval o.ty o.rb)
  a.putPF o.rd b f 4

/-- A conversion from a type to itself: nothing but NaN changes, and nothing is drawn (R131, R168). -/
def selfConv (f : Fmt) (bits : Nat) : Nat :=
  match f with
  | .int _ w => bits % 2 ^ w
  | .flt g => if (g.value bits).isNan then g.nanCode else bits % 2 ^ g.width

/-- FCVT. -/
def effFcvt (o : SFloat) (x : Ctx) (a : Acc) : Acc :=
  if o.ty == o.tys then a.putX x o.rd (BitVec.ofNat 64 (selfConv (fmtOf o.ty) (x.rd o.ra).toNat)) 4
  else floatResult o 4 (x.fval o.tys o.ra, 0) x a

/-- The bits of an integer result as a scalar: sign-extended for a signed type (R131, R166). -/
def intScalar (f : Fmt) (bits : Nat) : W64 :=
  match f with
  | .int true w => BitVec.ofInt 64 (toSigned w bits)
  | _ => BitVec.ofNat 64 bits

/-- FCVTI. -/
def effFcvti (o : SFloat) (x : Ctx) (a : Acc) : Acc :=
  let (bits, r) := round (x.fval o.tys o.ra) (fmtOf o.ty) (x.mode o.rm) false { a.rnd with flags := 0 }
  ({ a with rnd := r } : Acc).putXF x o.rd (intScalar (fmtOf o.ty) bits) r.flags 4

/-- ICVTF. -/
def effIcvtf (o : SFloat) (x : Ctx) (a : Acc) : Acc := floatResult o 4 (x.fval o.tys o.ra, 0) x a

/-! Branches and loops (R101 to R107, R132 to R136). -/

/-- The target word of a half-relative TGT (R46). -/
def target (pc : BitVec 13) (tgt : BitVec 13) : BitVec 13 :=
  (if pc.getLsbD 12 != tgt.getLsbD 12 then 4096 else 0) + (tgt &&& 0xFFF)

/-- Control passes to a word, with the two cycles of a taken branch (R120). -/
def branchTo (t : BitVec 13) (a : Acc) : Acc := { a with next := t, bubble := 2 }

/-- BR. -/
def effBr (o : SBranch) (x : Ctx) (a : Acc) : Acc := branchTo (target x.pc o.tgt) a
/-- BRL. -/
def effBrl (o : SBranch) (x : Ctx) (a : Acc) : Acc := branchTo (target x.pc o.tgt) (a.putX x o.rd (x.next.zeroExtend 64) 1)
/-- BRR. -/
def effBrr (o : SReg) (x : Ctx) (a : Acc) : Acc :=
  branchTo ((x.rd o.ra).truncate 13) (a.putX x o.rd (x.next.zeroExtend 64) 1)

/-- A stage predicate (R105). -/
def stage (r : Regs) (k : Nat) : Bool :=
  !r.void && r.fill.toNat ≥ k && (r.loopCount 0).toNat + k ≥ r.depth.toNat

/-- `p16` to `p23` recomputed (R105). -/
def setStages (r : Regs) : Regs := (List.range 8).foldl (fun q k => q.setPr (16 + k) (stage r k)) r

/-- LOOP (R101). -/
def effLoop (o : SImm) (x : Ctx) (a : Acc) : Acc :=
  let v : W64 := x.rd o.ra + imm37 o.imm
  let e : BitVec 3 := o.fn.extractLsb' 0 3
  let r := a.k.regs
  let r :=
    if !o.fn.getLsbD 3 then r.setLoop o.rd.toNat (if v.msb then 0 else v)
    else
      let r := { r with depth := e, fill := 0, void := v.msb }
      setStages (r.setLoop 0 (if v.msb then e.zeroExtend 64 else v + e.zeroExtend 64))
  { a with k := { a.k with regs := r } }

/-- A taken LOOPB: a short back-edge is captured by the loop buffer, and costs nothing once it is (R107). Its length is
counted from the bundle's header. DESIGN CHOICE, log 51. -/
def backEdge (t : BitVec 13) (x : Ctx) (a : Acc) : Acc :=
  let short := t.getLsbD 12 == x.pc.getLsbD 12 && t.toNat ≤ x.pc.toNat && x.pc.toNat - t.toNat ≤ 64
  let held := match a.k.loopBuf with
    | some (_, t') => t' == t
    | none => false
  { a with next := t, bubble := if held then 0 else 2
           k := if short then { a.k with loopBuf := some (x.pc, t) } else a.k }

/-- A LOOPB that falls through releases every held word and empties the loop buffer (R43, R107). -/
def fallThrough (a : Acc) : Acc := { a with relHeld := true, k := { a.k with loopBuf := none } }

/-- Whether a LOOPB is taken, on the counts held before the bundle (R103, R105). -/
def loopTaken (o : SBranch) (r : Regs) : Bool :=
  let n := o.fn.toNat
  if n == 0 then r.loopCount 0 != 0 else (r.loopCount n).toNat > 1

/-- LOOPB (R103, R105, R106). -/
def effLoopb (o : SBranch) (x : Ctx) (a : Acc) : Acc :=
  let n := o.fn.toNat
  let r := a.k.regs
  let t := target x.pc o.tgt
  if loopTaken o x.k.regs then
    let r := r.setLoop n (x.k.regs.loopCount n - 1)
    let r := if n == 0 then
        setStages { r with fill := if r.fill == 7 then 7 else r.fill + 1, rrb := r.rrb + 1 }
      else r
    backEdge t x { a with k := { a.k with regs := r } }
  else fallThrough { a with k := { a.k with regs := if n == 0 then r else r.setLoop n 0 } }

/-- BRSWAP (R136). -/
def effBrswap (o : SBranch) (x : Ctx) (a : Acc) : Acc :=
  branchTo (target x.pc o.tgt) { a with relHeld := true, k := { a.k with loopBuf := none } }

/-- IFENCE: the loop buffer is emptied; fetch reads the scratchpad word by word, so nothing is prefetched (R135). -/
def effIfence (_ : Ctx) (a : Acc) : Acc := { a with k := { a.k with loopBuf := none } }

/-! Handles (R138). -/

/-- Any translation on its way to a handle is discarded. -/
def dropWalk (c h : Nat) (a : Acc) : Acc :=
  let f := coreDie c
  let d := a.s.die f
  let k := { a.k with land := a.k.land.filter fun l => match l.dest with
    | .handle n _ => n != h
    | _ => true }
  { a with k, s := if d.walks.any (fun w => w.who.any fun q => q.1 == .handle c h) then
      a.s.setDie f { d with walks := leaveWalks (.handle c h) d.walks } else a.s }

/-- XLAT (R138): a hit is VALID after 24 cycles, a miss when its walk ends. -/
def effXlat (o : SReg) (x : Ctx) (a : Acc) : Acc :=
  let n := o.rd.toNat
  let va := x.rd o.ra
  let a := dropWalk x.c n a
  let set := fun (st : HState) (a : Acc) =>
    { a with k := { a.k with regs := a.k.regs.setHandle n { state := st, va, page := (x.k.regs.handle n).page } } }
  if va.toNat / 2 ^ 56 != 0 then set .faulted a
  else
    let a := set .pending a
    let (space, root) := a.s.space x.c
    match a.k.htlb.find? fun e => e.covers space va.toNat with
    | some e =>
      let a := { a with k := { a.k with htlb := e :: a.k.htlb.filter (· != e) } }
      a.put (.scalar false) (.handle n e) [] 0 24
    | none => { a with s := a.s.queueWalk (coreDie x.c) space root va (.handle x.c n) }

/-- HREL (R138). -/
def effHrel (o : SReg) (x : Ctx) (a : Acc) : Acc :=
  let n := o.rd.toNat
  let a := dropWalk x.c n a
  { a with k := { a.k with regs := a.k.regs.setHandle n { a.k.regs.handle n with state := .invalid } } }

/-! Control registers (R108 to R117, R140). -/

/-- CORE_ID (R18). -/
def coreId (c : Nat) : W64 :=
  BitVec.ofNat 64 (corePkg c * 2 ^ 18 + gcore c * 2 ^ 9 + gcore c / 48 * 64 + gcore c / 8 % 6 * 8 + coreLane c)

/-- ESC as read (R104). -/
def escWord (r : Regs) : W64 := BitVec.ofNat 64 (r.void.toNat * 128 + r.fill.toNat * 16 + r.depth.toNat)

/-- A control register as held before the bundle (R109, R140). -/
def Ctx.cr (x : Ctx) (n : BitVec 12) : W64 :=
  let k := x.k
  let r := k.regs
  match n.toNat with
  | 0x000 => coreId x.c
  | 0x001 => (x.s.pkg (corePkg x.c)).topo.zeroExtend 64
  | 0x002 => k.image.zeroExtend 64
  | 0x003 => BitVec.ofNat 64 (k.ecc.toNat * 256 + k.tiles.toNat)
  | 0x010 => r.rmode.zeroExtend 64
  | 0x011 => k.flags.zeroExtend 64
  | 0x012 => r.seed.zeroExtend 64
  | 0x020 => r.rrb.zeroExtend 64
  | 0x021 => escWord r
  | 0x028 => r.loopCount 0 | 0x029 => r.loopCount 1 | 0x02A => r.loopCount 2
  | 0x02B => r.loopCount 3 | 0x02C => r.loopCount 4 | 0x02D => r.loopCount 5
  | 0x030 => x.s.tbase (corePkg x.c)
  | 0x031 => k.bconf.zeroExtend 64
  | 0x040 => k.tbank.zeroExtend 64
  | 0x041 => BitVec.ofNat 64 (k.uncorr.toNat * 65536 + k.corr.toNat)
  | 0x048 => r.scout.zeroExtend 64
  | _ => 0

/-- MFCR. -/
def effMfcr (o : SCtl) (x : Ctx) (a : Acc) : Acc := a.putX x o.rd (x.cr o.cr) 1

/-- MTCR: the write is made after every slot of the bundle (R140). -/
def effMtcr (o : SCtl) (x : Ctx) (a : Acc) : Acc := { a with mtcr := some (o.cr, x.rd o.ra) }

/-- Whether bank `b` is allotted (R146). -/
def allotted (k : Core) (b : Nat) : Bool := 16 * b < k.tiles.toNat

/-- Whether a write of TBANK is discarded in whole (R148). -/
def tbankBad (k : Core) (v : BitVec 16) : Bool :=
  (List.range 8).any fun b => bankCode v b == 3 || (!allotted k b && bankCode v b != 2)

/-- Whether a register result lies in a bank. -/
def Dest.inBank (b : Nat) : Dest → Bool
  | .row t _ | .tile t => tileBank t == some b
  | _ => false

/-- A bank turned off: its rows are lost, and with them whatever was on its way to it (R148, R149). -/
def bankOff (b : Nat) (k : Core) : Core :=
  { k with
    tile := k.tile.clearRange (16 * b * 32) (16 * (b + 1) * 32)
    bad := k.bad.filter fun w => match w.reg with
      | .row t _ => tileBank t != some b
      | _ => true
    land := k.land.map fun l => if l.dest.inBank b then { l with dest := .none } else l
    loads := k.loads.map fun l => if l.dest.inBank b then { l with dest := .none } else l
    mma := k.mma.map fun m => if tileBank m.tc == some b then { m with keep := false } else m
    mout := k.mout.map fun m => match m.tile with
      | some (t, _) => if tileBank t == some b then { m with tile := none } else m
      | none => m }

/-- One bank moved to the state written (R148). -/
def bankMove (now : Nat) (v : BitVec 16) (k : Core) (b : Nat) : Core :=
  let was := bankCode k.tbank b
  let code := bankCode v b
  let k := { k with waking := if code == 0 then k.waking else k.waking.filter fun w => w.1 != b }
  if code == 2 && was != 2 then bankOff b k
  else if code == 0 && was == 1 then { k with waking := k.waking ++ [(b, now + 64)] }
  else k

/-- A write of TBANK (R113, R148). -/
def writeTbank (now : Nat) (v : BitVec 16) (k : Core) : Core :=
  if tbankBad k v then k else { (List.range 8).foldl (bankMove now v) k with tbank := v }

/-- A control register takes its value (R76 to R78, R102, R104, R108, R110, R113, R115, R117). -/
def writeCr (now : Nat) (n : BitVec 12) (v : W64) (k : Core) : Core :=
  let r := k.regs
  match n.toNat with
  | 0x010 =>
    let m : BitVec 3 := v.truncate 3
    if m == 0 || m == 6 || m == 7 then k else { k with regs := { r with rmode := m } }
  | 0x011 => { k with flags := v.truncate 5 }
  | 0x012 => { k with regs := { r with seed := if v.truncate 32 == (0 : BitVec 32) then 1 else v.truncate 32 } }
  | 0x020 => { k with regs := { r with rrb := v.truncate 5 } }
  | 0x021 => { k with regs := { r with void := v.getLsbD 7, fill := v.extractLsb' 4 3, depth := v.extractLsb' 0 3 } }
  | 0x028 => { k with regs := r.setLoop 0 v }
  | 0x029 => { k with regs := r.setLoop 1 v }
  | 0x02A => { k with regs := r.setLoop 2 v }
  | 0x02B => { k with regs := r.setLoop 3 v }
  | 0x02C => { k with regs := r.setLoop 4 v }
  | 0x02D => { k with regs := r.setLoop 5 v }
  | 0x031 => { k with bconf := v.truncate 32 }
  | 0x040 => writeTbank now (v.truncate 16) k
  | 0x048 => if 64 < (v.extractLsb' 0 7).toNat then k else { k with regs := { r with scout := v.truncate 7 } }
  | _ => k

/-! Fences (R303 to R307). -/

/-- Whether an access of a class in a mask has not performed at a scope (R304). -/
def classPending (k : Core) (mask : BitVec 16) : Bool :=
  k.loads.any (fun l => mask.getLsbD l.cls)
    || k.outq.any (fun o => match o.eff.cls? with
      | some n => n == 16 || mask.getLsbD n
      | none => false)
    || (mask.getLsbD 0 && (!k.mout.isEmpty || !k.sends.isEmpty))

/-- Whether any earlier effect of the core has not performed (R305). -/
def anythingPending (k : Core) : Bool :=
  !k.loads.isEmpty || !k.outq.isEmpty || !k.sends.isEmpty || !k.sat.isEmpty || !k.mout.isEmpty

/-- Whether a package runs every axis closed (R20). -/
def closedBrick (p : Pkg) : Bool := p.topo.extractLsb' 0 3 == 0

/-- The external links on the longest path between two packages of the fabric (R19, R305). -/
def longestPath (p : Pkg) : Nat :=
  ((List.range 3).map fun a =>
    if p.topo.getLsbD a then ((p.topo.extractLsb' (12 + 3 * a) 3).toNat + 1) / 2 else 0).foldl (· + ·) 0

/-- The cycles a fence takes after its waits (R305). DESIGN CHOICE, log 3. -/
def fenceCycles (p : Pkg) (sc : Nat) : Nat :=
  match sc with
  | 0 => 4 | 1 => 12 | 2 => 20 | 3 => 30
  | _ => if closedBrick p then 30 else 30 + 480 * longestPath p

/-- FENCE.C: at CLUSTER scope or wider the L1's clean bytes are dropped (R304). -/
def effFenceC (o : SFence) (_ : Ctx) (a : Acc) : Acc := if o.sc == 0 then a else { a with k := a.k.dropClean }
/-- FENCE.SC (R305). -/
def effFenceSc (o : SFence) (_ : Ctx) (a : Acc) : Acc := if o.sc == 0 then a else { a with k := a.k.dropClean }
/-- SPFENCE: the operand cache is emptied (R307). -/
def effSpfence (_ : Ctx) (a : Acc) : Acc := { a with k := { a.k with opc := [] } }
/-- FENCE.SMP: the cluster's sampler cache is emptied (R306). -/
def effFenceSmp (x : Ctx) (a : Acc) : Acc :=
  let n := coreCluster x.c
  { a with s := a.s.setCluster n { a.s.cluster n with samp := [] } }

/-- NOP has no effect (R58). -/
def effNop (_ : Ctx) (a : Acc) : Acc := a

end Sys2Proof.Machine
end

