-- ==== Sys2Proof/Machine/Tile.lean ====
section
/-! DEFINITION. The V slots: row operations (R153 to R170). Rows are packed numbers of 1,024 bits; every element-wise
meaning is one function over elements given to a shared row operation. -/

namespace Sys2Proof.Machine

/-- The elements of a row of a type. -/
def lanes (ty : BitVec 5) : Nat := elemCount ty
/-- The width of an element of a type. -/
def laneWidth (ty : BitVec 5) : Nat := (fmtOf ty).width

/-- Element `i` of an operand row. -/
def Ctx.el (x : Ctx) (ty : BitVec 5) (t : BitVec 8) (r : BitVec 5) (i : Nat) : Nat :=
  elem (laneWidth ty) (x.row t r).toNat i

/-- An element operand that is the low bits of a scalar (R165). -/
def Ctx.sel (x : Ctx) (ty : BitVec 5) (n : BitVec 5) (_ : Nat) : Nat := (x.rd n).toNat % 2 ^ laneWidth ty

/-- A row of elements, each rounded in ascending order with its own flags (R83, R157). -/
def roundRow (f : Fmt) (m : Mode) (sat : Bool) (n : Nat) (g : Nat → XVal × BitVec 5) (r : Rnd) : Nat × Rnd :=
  let (vs, r) := mapRnd (fun i r =>
    let (v, fl) := g i
    round v f m sat (r.raise fl)) (List.range n) r
  (pack f.width vs, r)

/-- A row of elements that need no rounding state. -/
def mapRow (w n : Nat) (g : Nat → Nat) : Nat := pack w ((List.range n).map g)

/-- What an arithmetic operation does to elements: exactly, on floats and on integers (R157). -/
structure ElemOp where
  flt : Mode → XVal → XVal → XVal → XVal × BitVec 5
  int : Int → Int → Int → Int

/-- An element-wise arithmetic operation (R157). -/
def arithRow (op : ElemOp) (ty : BitVec 5) (rm : BitVec 3) (sat : BitVec 1) (td : BitVec 8) (rowd : BitVec 5) (lat : Nat)
    (ea eb ed : Nat → Nat) (x : Ctx) (a : Acc) : Acc :=
  match fmtOf ty with
  | .int s w =>
    a.putRow x td rowd (mapRow w (lanes ty) fun i =>
      convInt s w (sat == 1) (op.int (intOf s w (ea i)) (intOf s w (eb i)) (intOf s w (ed i)))) lat
  | .flt f =>
    let (v, r) := roundRow (.flt f) (x.mode rm) (sat == 1) (lanes ty)
      (fun i => op.flt (x.mode rm) (f.value (ea i)) (f.value (eb i)) (f.value (ed i))) { a.rnd with flags := 0 }
    ({ a with rnd := r } : Acc).putRowF x td rowd v r.flags lat

/-- The V-three form of an arithmetic operation. -/
def arith3 (op : ElemOp) (o : VThree) (x : Ctx) (a : Acc) : Acc :=
  arithRow op o.ty o.rm o.sat o.td o.rowd 4 (x.el o.ty o.ta o.rowa) (x.el o.ty o.tb o.rowb) (x.el o.ty o.td o.rowd) x a

/-- The V-scalar form of an arithmetic operation (R165). -/
def arithS (op : ElemOp) (o : VScalar) (x : Ctx) (a : Acc) : Acc :=
  arithRow op o.ty o.rm o.sat o.td o.rowd 4 (x.el o.ty o.ta o.rowa) (x.sel o.ty o.sb) (x.el o.ty o.td o.rowd) x a

/-- Sum. -/
def opAdd : ElemOp := ⟨fun m p q _ => xadd m p q, fun p q _ => p + q⟩
/-- Difference. -/
def opSub : ElemOp := ⟨fun m p q _ => xadd m p q.neg, fun p q _ => p - q⟩
/-- Product. -/
def opMul : ElemOp := ⟨fun _ p q _ => xmul p q, fun p q _ => p * q⟩
/-- Product and sum, one rounding. -/
def opFma : ElemOp := ⟨fun m p q d => xfma m p q d, fun p q d => p * q + d⟩

/-- VADD. -/
def effVadd (o : VThree) (x : Ctx) (a : Acc) : Acc := arith3 opAdd o x a
/-- VSUB. -/
def effVsub (o : VThree) (x : Ctx) (a : Acc) : Acc := arith3 opSub o x a
/-- VMUL. -/
def effVmul (o : VThree) (x : Ctx) (a : Acc) : Acc := arith3 opMul o x a
/-- VFMA. -/
def effVfma (o : VThree) (x : Ctx) (a : Acc) : Acc := arith3 opFma o x a
/-- VADDS. -/
def effVadds (o : VScalar) (x : Ctx) (a : Acc) : Acc := arithS opAdd o x a
/-- VSUBS. -/
def effVsubs (o : VScalar) (x : Ctx) (a : Acc) : Acc := arithS opSub o x a
/-- VMULS. -/
def effVmuls (o : VScalar) (x : Ctx) (a : Acc) : Acc := arithS opMul o x a
/-- VFMAS. -/
def effVfmas (o : VScalar) (x : Ctx) (a : Acc) : Acc := arithS opFma o x a

/-- An element-wise operation that rounds nothing and raises no flag. -/
def exactRow (ff : XVal → XVal → XVal) (fi : Int → Int → Int) (ty : BitVec 5) (ea eb : Nat → Nat) : Nat :=
  match fmtOf ty with
  | .int s w => mapRow w (lanes ty) fun i => wrapInt w (fi (intOf s w (ea i)) (intOf s w (eb i)))
  | .flt f => mapRow f.width (lanes ty) fun i => encodeExact f (ff (f.value (ea i)) (f.value (eb i)))

/-- VMIN. -/
def effVmin (o : VThree) (x : Ctx) (a : Acc) : Acc :=
  a.putRow x o.td o.rowd (exactRow xmin min o.ty (x.el o.ty o.ta o.rowa) (x.el o.ty o.tb o.rowb)) 2
/-- VMAX. -/
def effVmax (o : VThree) (x : Ctx) (a : Acc) : Acc :=
  a.putRow x o.td o.rowd (exactRow xmax max o.ty (x.el o.ty o.ta o.rowa) (x.el o.ty o.tb o.rowb)) 2
/-- VMINS. -/
def effVmins (o : VScalar) (x : Ctx) (a : Acc) : Acc :=
  a.putRow x o.td o.rowd (exactRow xmin min o.ty (x.el o.ty o.ta o.rowa) (x.sel o.ty o.sb)) 2
/-- VMAXS. -/
def effVmaxs (o : VScalar) (x : Ctx) (a : Acc) : Acc :=
  a.putRow x o.td o.rowd (exactRow xmax max o.ty (x.el o.ty o.ta o.rowa) (x.sel o.ty o.sb)) 2

/-- The bounds of R159 on floats. -/
def clampF (p q : XVal) : XVal :=
  if p.isNan || q.isNan then .nan else xmin (xmax p q.abs.neg) q.abs

/-- The bounds of R159 on integers. -/
def clampI (s : Bool) (w : Nat) (p q : Int) : Int :=
  if s then
    let m : Int := if q == -(2 ^ (w - 1) : Nat) then (2 ^ (w - 1) : Nat) - 1 else q.natAbs
    min (max p (-m)) m
  else min p q

/-- VCLAMP. -/
def effVclamp (o : VThree) (x : Ctx) (a : Acc) : Acc :=
  let fi := match fmtOf o.ty with
    | .int s w => clampI s w
    | .flt _ => fun p _ => p
  a.putRow x o.td o.rowd (exactRow clampF fi o.ty (x.el o.ty o.ta o.rowa) (x.el o.ty o.tb o.rowb)) 2

/-- VABS and VNEG: floats change their sign bit alone, NaN apart; integers wrap or clamp (R158). -/
def signRow (fi : Int → Int) (fb : FloatFmt → Nat → Nat) (o : VThree) (x : Ctx) (a : Acc) : Acc :=
  let ea := x.el o.ty o.ta o.rowa
  a.putRow x o.td o.rowd (match fmtOf o.ty with
    | .int s w => mapRow w (lanes o.ty) fun i => convInt s w (o.sat == 1) (fi (intOf s w (ea i)))
    | .flt f => mapRow f.width (lanes o.ty) fun i => if (f.value (ea i)).isNan then f.nanCode else fb f (ea i)) 2

/-- VABS. -/
def effVabs (o : VThree) (x : Ctx) (a : Acc) : Acc :=
  signRow (fun i => i.natAbs) (fun f b => b % 2 ^ (f.width - 1)) o x a
/-- VNEG. -/
def effVneg (o : VThree) (x : Ctx) (a : Acc) : Acc := signRow (fun i => -i) (fun f b => b ^^^ 2 ^ (f.width - 1)) o x a

/-- VMULH. -/
def effVmulh (o : VThree) (x : Ctx) (a : Acc) : Acc :=
  match fmtOf o.ty with
  | .int s w =>
    a.putRow x o.td o.rowd (mapRow w (lanes o.ty) fun i =>
      wrapInt w (intOf s w (x.el o.ty o.ta o.rowa i) * intOf s w (x.el o.ty o.tb o.rowb i) / (2 ^ w : Nat))) 4
  | .flt _ => a

/-- VAND. -/
def effVand (o : VThree) (x : Ctx) (a : Acc) : Acc :=
  a.putRow x o.td o.rowd (x.row o.ta o.rowa &&& x.row o.tb o.rowb).toNat 2
/-- VOR. -/
def effVor (o : VThree) (x : Ctx) (a : Acc) : Acc :=
  a.putRow x o.td o.rowd (x.row o.ta o.rowa ||| x.row o.tb o.rowb).toNat 2
/-- VXOR. -/
def effVxor (o : VThree) (x : Ctx) (a : Acc) : Acc :=
  a.putRow x o.td o.rowd (x.row o.ta o.rowa ^^^ x.row o.tb o.rowb).toNat 2
/-- VNOT. -/
def effVnot (o : VThree) (x : Ctx) (a : Acc) : Acc := a.putRow x o.td o.rowd (~~~(x.row o.ta o.rowa)).toNat 2

/-- VSHL. -/
def effVshl (o : VThree) (x : Ctx) (a : Acc) : Acc :=
  let w := laneWidth o.ty
  a.putRow x o.td o.rowd (mapRow w (lanes o.ty) fun i =>
    let k := x.el o.ty o.tb o.rowb i
    if w ≤ k then 0 else (x.el o.ty o.ta o.rowa i <<< k) % 2 ^ w) 2
/-- VSHR. -/
def effVshr (o : VThree) (x : Ctx) (a : Acc) : Acc :=
  let w := laneWidth o.ty
  a.putRow x o.td o.rowd (mapRow w (lanes o.ty) fun i =>
    let k := x.el o.ty o.tb o.rowb i
    if w ≤ k then 0 else x.el o.ty o.ta o.rowa i >>> k) 2
/-- VSAR. -/
def effVsar (o : VThree) (x : Ctx) (a : Acc) : Acc :=
  let w := laneWidth o.ty
  a.putRow x o.td o.rowd (mapRow w (lanes o.ty) fun i =>
    wrapInt w (toSigned w (x.el o.ty o.ta o.rowa i) / (2 ^ min w (x.el o.ty o.tb o.rowb i) : Nat))) 2
/-- VPOPC. -/
def effVpopc (o : VThree) (x : Ctx) (a : Acc) : Acc :=
  let w := laneWidth o.ty
  a.putRow x o.td o.rowd (mapRow w (lanes o.ty) fun i => popCount w (x.el o.ty o.ta o.rowa i)) 2

/-- An integer condition of VCMP (R161). -/
def laneCond (c : Nat) (p q : Int) : Bool :=
  match c with
  | 0 => p == q
  | 1 => p != q
  | 2 => p < q
  | 3 => p ≤ q
  | 4 => p > q
  | _ => p ≥ q

/-- VCMP: all ones or all zeros; RM holds the condition (R161). -/
def effVcmp (o : VThree) (x : Ctx) (a : Acc) : Acc :=
  let w := laneWidth o.ty
  let n := lanes o.ty
  let ea := x.el o.ty o.ta o.rowa
  let eb := x.el o.ty o.tb o.rowb
  let rs : List (Bool × BitVec 5) := (List.range n).map fun i =>
    match fmtOf o.ty with
    | .int s w => (laneCond o.rm.toNat (intOf s w (ea i)) (intOf s w (eb i)), 0)
    | .flt f => floatCond o.rm.toNat (f.value (ea i)) (f.value (eb i))
  let v := pack w (rs.map fun r => if r.1 then 2 ^ w - 1 else 0)
  if floatTy o.ty then a.putRowF x o.td o.rowd v (rs.foldl (fun f r => f ||| r.2) 0) 2 else a.putRow x o.td o.rowd v 2

/-- VSEL: the old destination is the mask (R162). -/
def effVsel (o : VThree) (x : Ctx) (a : Acc) : Acc :=
  a.putRow x o.td o.rowd (mapRow (laneWidth o.ty) (lanes o.ty) fun i =>
    if x.el o.ty o.td o.rowd i != 0 then x.el o.ty o.ta o.rowa i else x.el o.ty o.tb o.rowb i) 2
/-- VMOV. -/
def effVmov (o : VThree) (x : Ctx) (a : Acc) : Acc := a.putRow x o.td o.rowd (x.row o.ta o.rowa).toNat 2
/-- VZERO. -/
def effVzero (o : VThree) (x : Ctx) (a : Acc) : Acc := a.putRow x o.td o.rowd 0 2
/-- VIOTA. -/
def effViota (o : VThree) (x : Ctx) (a : Acc) : Acc :=
  a.putRow x o.td o.rowd (mapRow (laneWidth o.ty) (lanes o.ty) fun i =>
    match fmtOf o.ty with
    | .int _ w => i % 2 ^ w
    | .flt f => encodeExact f (.ofInt i)) 2
/-- VPERM. -/
def effVperm (o : VThree) (x : Ctx) (a : Acc) : Acc :=
  let n := lanes o.ty
  a.putRow x o.td o.rowd (mapRow (laneWidth o.ty) n fun i =>
    x.el o.ty o.ta o.rowa (x.el o.ty o.tb o.rowb i % n)) 4
/-- VBCAST. -/
def effVbcast (o : VScalar) (x : Ctx) (a : Acc) : Acc :=
  a.putRow x o.td o.rowd (mapRow (laneWidth o.ty) (lanes o.ty) (x.sel o.ty o.sb)) 2
/-- VROT. -/
def effVrot (o : VScalar) (x : Ctx) (a : Acc) : Acc :=
  let n := lanes o.ty
  let k := ((x.rd o.sb).toNat + o.idx.toNat) % n
  a.putRow x o.td o.rowd (mapRow (laneWidth o.ty) n fun i => x.el o.ty o.ta o.rowa ((i + k) % n)) 2
/-- VEXTR: SB is the destination (R166). -/
def effVextr (o : VScalar) (x : Ctx) (a : Acc) : Acc :=
  a.put (.row false) (x.destX o.sb)
    [(intScalar (fmtOf o.ty) (x.el o.ty o.ta o.rowa o.idx.toNat)).zeroExtend 1024] 0 2
/-- VINS. -/
def effVins (o : VScalar) (x : Ctx) (a : Acc) : Acc :=
  a.putRow x o.td o.rowd (let w := laneWidth o.ty
    let old := (x.row o.td o.rowd).toNat
    old - (elem w old o.idx.toNat) <<< (w * o.idx.toNat) + (x.sel o.ty o.sb 0) <<< (w * o.idx.toNat)) 2
/-- VSCALE (R167). -/
def effVscale (o : VScalar) (x : Ctx) (a : Acc) : Acc :=
  match fmtOf o.ty with
  | .int _ _ => a
  | .flt f =>
    let (v, r) := roundRow (.flt f) (x.mode o.rm) (o.sat == 1) (lanes o.ty) (fun i =>
      let c := elem 8 (x.rd o.sb).toNat ((o.idx.toNat + i / 32) % 8)
      match scaleExp c with
      | none => (.nan, 0)
      | some k => ((f.value (x.el o.ty o.ta o.rowa i)).shift k, 0)) { a.rnd with flags := 0 }
    ({ a with rnd := r } : Acc).putRowF x o.td o.rowd v r.flags 4

/-- VCVT (R168). A conversion between two integer types wraps or clamps and rounds nothing (R89): it draws nothing, under RSTO
either (R83). DEDUCED, log 39. -/
def effVcvt (o : VConv) (x : Ctx) (a : Acc) : Acc :=
  let fs := fmtOf o.tys
  let fd := fmtOf o.ty
  let n := 1024 / max fs.width fd.width
  let ea := fun i => elem fs.width (x.row o.ta o.rowa).toNat i
  if o.ty == o.tys then a.putRow x o.td o.rowd (mapRow fd.width n fun i => selfConv fd (ea i)) 4
  else
    match fs, fd with
    | .int s w, .int s' w' =>
      a.putRow x o.td o.rowd (mapRow w' n fun i => convInt s' w' (o.sat == 1) (intOf s w (ea i))) 4
    | _, _ =>
      let (v, r) := roundRow fd (x.mode o.rm) (o.sat == 1) n (fun i => (fs.value (ea i), 0)) { a.rnd with flags := 0 }
      ({ a with rnd := r } : Acc).putRowF x o.td o.rowd v r.flags 4

/-! Reductions (R97, R169). -/

/-- One rounding to FP32 in RNE, with its flags. -/
def rn32 (v : XVal × BitVec 5) (r : Rnd) : XVal × Rnd :=
  let (b, f) := roundWith v.1 (.flt fp32) .rne false 0
  (fp32.value b, (r.raise v.2).raise f)

/-- A reduction on floats: leaves, tree, and the last conversion where the instruction rounds (R169); one that rounds nothing
raises no flag (R90). -/
def reduceF (o : VThree) (f : FloatFmt) (leaf : Nat → Rnd → XVal × Rnd) (op : XVal → XVal → Rnd → XVal × Rnd)
    (last : Bool) (x : Ctx) (a : Acc) : Acc :=
  let r : Rnd := { a.rnd with flags := 0 }
  let (ls, r) := mapRnd leaf (List.range (lanes o.ty)) r
  let (vs, r) := tree op 8 ls r
  let v := vs.headD .nan
  if !last then a.putRow x o.td o.rowd (encodeExact f v) 8
  else if o.ty == 0x08 then
    ({ a with rnd := r } : Acc).putRowF x o.td o.rowd (encodeExact f v) r.flags 8
  else
    let (b, r) := round v (.flt f) (x.mode o.rm) (o.sat == 1) r
    ({ a with rnd := r } : Acc).putRowF x o.td o.rowd b r.flags 8

/-- A reduction on integers (R169). -/
def reduceI (o : VThree) (s : Bool) (w : Nat) (leaf : Nat → Int) (op : Int → Int → Int) (x : Ctx) (a : Acc) : Acc :=
  match (List.range (lanes o.ty)).map leaf with
  | [] => a
  | v :: vs => a.putRow x o.td o.rowd (convInt s w (o.sat == 1) (vs.foldl op v)) 8

/-- VRSUM. -/
def effVrsum (o : VThree) (x : Ctx) (a : Acc) : Acc :=
  let ea := x.el o.ty o.ta o.rowa
  match fmtOf o.ty with
  | .int s w => reduceI o s w (fun i => intOf s w (ea i)) (· + ·) x a
  | .flt f => reduceF o f (fun i r => (f.value (ea i), r)) (fun p q r => rn32 (xadd .rne p q) r) true x a
/-- VDOT. -/
def effVdot (o : VThree) (x : Ctx) (a : Acc) : Acc :=
  let ea := x.el o.ty o.ta o.rowa
  let eb := x.el o.ty o.tb o.rowb
  match fmtOf o.ty with
  | .int s w => reduceI o s w (fun i => intOf s w (ea i) * intOf s w (eb i)) (· + ·) x a
  | .flt f => reduceF o f (fun i r => rn32 (xmul (f.value (ea i)) (f.value (eb i))) r)
      (fun p q r => rn32 (xadd .rne p q) r) true x a
/-- VRMAX. -/
def effVrmax (o : VThree) (x : Ctx) (a : Acc) : Acc :=
  let ea := x.el o.ty o.ta o.rowa
  match fmtOf o.ty with
  | .int s w => reduceI o s w (fun i => intOf s w (ea i)) max x a
  | .flt f => reduceF o f (fun i r => (f.value (ea i), r)) (fun p q r => (xmax p q, r)) false x a
/-- VRMIN. -/
def effVrmin (o : VThree) (x : Ctx) (a : Acc) : Acc :=
  let ea := x.el o.ty o.ta o.rowa
  match fmtOf o.ty with
  | .int s w => reduceI o s w (fun i => intOf s w (ea i)) min x a
  | .flt f => reduceF o f (fun i r => (f.value (ea i), r)) (fun p q r => (xmin p q, r)) false x a

/-! Transcendental functions (R170 to R176). -/

/-- `rn`: one rounding to FP32 that raises nothing (R170). -/
def rn (v : XVal) : XVal := fp32.value (roundWith v (.flt fp32) .rne false 0).1
/-- `rn` of a product. -/
def rnMul (p q : XVal) : XVal := rn (xmul p q).1
/-- `rn` of a sum. -/
def rnAdd (p q : XVal) : XVal := rn (xadd .rne p q).1
/-- `rn` of a quotient. -/
def rnDiv (p q : XVal) : XVal := rn (xdiv p q).1
/-- An FP32 constant by its bits. -/
def c32 (b : Nat) : XVal := fp32.value b
/-- 1. -/
def xone : XVal := .fin false 1 0
/-- An entry of a table. -/
def entry (t : List Nat) (j : Nat) : XVal := c32 (t.getD j 0)

/-- Whether a value is an infinity after its last rounding. -/
def ofFlag (y : XVal) : BitVec 5 := if y.isInf then fOF else 0
/-- UF for a result below the smallest normal FP32 that is inexact. -/
def ufFlag (y : XVal) (inexact : Bool) : BitVec 5 := if inexact && xlt y.abs (.fin false 1 (-126)) then fUF else 0

/-- A finite value as sign, exponent and fraction: `x = ±2^E·m` with `m = n/2^k`, `1 ≤ m < 2` (R171). -/
def normal (m : Nat) (e : Int) : Int × Nat × Nat := (topExp m e, m, m.log2)

/-- An integer value, if it is one. -/
def intValue (n : Bool) (m : Nat) (e : Int) : Option Int :=
  if 0 ≤ e then (let v : Int := (m <<< e.toNat : Nat); some (if n then -v else v))
  else if m % 2 ^ (-e).toNat == 0 then (let v : Int := (m >>> (-e).toNat : Nat); some (if n then -v else v))
  else none

/-- The procedure of VEXP2 on a finite operand within its range (R172). -/
def exp2Core (neg : Bool) (m : Nat) (e : Int) : XVal :=
  let sm : Int := if neg then -(m : Int) else m
  let n : Int := if 0 ≤ e + 6 then sm * (2 ^ (e + 6).toNat : Nat) else sm / (2 ^ (-(e + 6)).toNat : Nat)
  let f : XVal :=
    if 0 ≤ e + 6 then .zero false
    else
      let r := sm - n * (2 ^ (-(e + 6)).toNat : Nat)
      .mk false r.natAbs e
  let j := (n % 64).toNat
  let k := (n - j) / 64
  let q := rnMul (c32 0x3D635847) f
  let q := rnMul (rnAdd (c32 0x3E75FDF0) q) f
  let q := rnMul (rnAdd (c32 0x3F317218) q) f
  let p := rnAdd xone q
  rn ((rnMul (entry tableT j) p).shift k)

/-- VEXP2 (R172): the FP32 result and its flags. -/
def exp2 (v : XVal) : XVal × BitVec 5 :=
  match v with
  | .nan => (.nan, 0)
  | .inf false => (.inf false, 0)
  | .inf true => (.zero false, 0)
  | .zero _ => (exp2Core false 0 0, 0)
  | .fin n m e =>
    if !xlt v (.fin false 128 0) then (.inf false, fOF ||| fNX)
    else if !xlt (.fin true 200 0) v then (.zero false, fUF ||| fNX)
    else
      let y := exp2Core n m e
      let exact := match intValue n m e with
        | some i => -149 ≤ i && i ≤ 127
        | none => false
      (y, ofFlag y ||| ufFlag y (!exact) ||| (if exact then 0 else fNX))

/-- VLOG2 (R173). -/
def log2F (v : XVal) : XVal × BitVec 5 :=
  match v with
  | .nan => (.nan, 0)
  | .inf false => (.inf false, 0)
  | .zero _ => (.inf true, fDZ)
  | .inf true => (.nan, fNV)
  | .fin true _ _ => (.nan, fNV)
  | .fin false m e =>
    let (E, n, k) := normal m e
    let j := (n * 64) / 2 ^ k - 64
    let t : XVal := .mk false (n * 64 - (64 + j) * 2 ^ k) (-(k : Int) - 6)
    let z := rnDiv t (.fin false (64 + j) (-6))
    let q := rnMul (c32 0x3EF6384F) z
    let q := rnMul (rnAdd (c32 0xBF38AA3B) q) z
    let q := rnMul (rnAdd (c32 0x3FB8AA3B) q) z
    let y := rnAdd (.ofInt E) (rnAdd (entry tableL j) q)
    (y, if n == 2 ^ k then 0 else fNX)

/-- VRCP (R174). -/
def rcpF (v : XVal) : XVal × BitVec 5 :=
  match v with
  | .nan => (.nan, 0)
  | .inf n => (.zero n, 0)
  | .zero n => (.inf n, fDZ)
  | .fin s m e =>
    let (E, n, k) := normal m e
    let j := (n * 64) / 2 ^ k - 64
    let r := entry tableR j
    let mm : XVal := .fin false n (-(k : Int))
    let h := rn (xfma .rne mm r (.fin true 1 0)).1
    let q := rnMul (rnAdd (.fin true 1 0) h) h
    let q := rnMul (rnAdd xone q) h
    let q := rnMul (rnAdd (.fin true 1 0) q) h
    let p := rnAdd xone q
    let y := rn ((rnMul r p).shift (-E))
    let exact := n == 2 ^ k && -127 ≤ E
    (if s then y.neg else y, ofFlag y ||| ufFlag y (!exact) ||| (if exact then 0 else fNX))

/-- VRSQ (R175). -/
def rsqF (v : XVal) : XVal × BitVec 5 :=
  match v with
  | .nan => (.nan, 0)
  | .inf false => (.zero false, 0)
  | .zero n => (.inf n, fDZ)
  | .inf true => (.nan, fNV)
  | .fin true _ _ => (.nan, fNV)
  | .fin false m e =>
    let (E, n, k) := normal m e
    let par := (E % 2).toNat
    let hh := (E - par) / 2
    let i := par * 32 + ((n * 32) / 2 ^ k - 32)
    let s := entry tableS i
    let mp : XVal := .fin false n ((par : Int) - k)
    let h := rn (xfma .rne (xmul mp s).1 s (.fin true 1 0)).1
    let q := rnMul (c32 0x3E8C0000) h
    let q := rnMul (rnAdd (.fin true 5 (-4)) q) h
    let q := rnMul (rnAdd (.fin false 3 (-3)) q) h
    let q := rnMul (rnAdd (.fin true 1 (-1)) q) h
    let p := rnAdd xone q
    (rn ((rnMul s p).shift (-hh)), if n == 2 ^ k && par == 0 then 0 else fNX)

/-- VTANH (R176). -/
def tanhF (v : XVal) : XVal × BitVec 5 :=
  match v with
  | .nan => (.nan, 0)
  | .inf n => (.fin n 1 0, 0)
  | .zero n => (.zero n, 0)
  | .fin n m e =>
    if !xlt v.abs (.fin false 10 0) then (.fin n 1 0, fNX)
    else if xlt v.abs (.fin false 1 (-3)) then
      let s := rnMul v v
      let q := rnMul (c32 0xBD5D0DD1) s
      let q := rnMul (rnAdd (c32 0x3E088889) q) s
      let q := rnMul (rnAdd (c32 0xBEAAAAAB) q) s
      (rnAdd v (rnMul v q), fNX)
    else
      let w := rnMul (.fin false m e) (c32 0x4038AA3B)
      let u := (exp2 w.neg).1
      let y := rnDiv (rnAdd xone u.neg) (rnAdd xone u)
      (if n then y.neg else y, fNX)

/-- A transcendental instruction: each element widened, computed, and rounded in RNE to its type (R170). -/
def transRow (g : XVal → XVal × BitVec 5) (o : VThree) (x : Ctx) (a : Acc) : Acc :=
  match fmtOf o.ty with
  | .int _ _ => a
  | .flt f =>
    let (v, r) := roundRow (.flt f) .rne false (lanes o.ty) (fun i => g (f.value (x.el o.ty o.ta o.rowa i)))
      { a.rnd with flags := 0 }
    a.putRowF x o.td o.rowd v r.flags 16

/-- VEXP2. -/
def effVexp2 (o : VThree) (x : Ctx) (a : Acc) : Acc := transRow exp2 o x a
/-- VLOG2. -/
def effVlog2 (o : VThree) (x : Ctx) (a : Acc) : Acc := transRow log2F o x a
/-- VRCP. -/
def effVrcp (o : VThree) (x : Ctx) (a : Acc) : Acc := transRow rcpF o x a
/-- VRSQ. -/
def effVrsq (o : VThree) (x : Ctx) (a : Acc) : Acc := transRow rsqF o x a
/-- VTANH. -/
def effVtanh (o : VThree) (x : Ctx) (a : Acc) : Acc := transRow tanhF o x a

end Sys2Proof.Machine
end

