-- ==== Sys2Proof/Machine/Ports.lean ====
section
/-! DEFINITION. The transform ports (R177 to R184): PMOV, PTAKE, and the step at which a result row becomes readable. -/

namespace Sys2Proof.Machine

/-- The input rows of a completed operation: what a port collects before it computes (R178). -/
def portNeed (n : Nat) : Nat :=
  match n with
  | 0x04 => 2 | 0x05 => 8 | 0x06 | 0x07 => 4
  | _ => 1

/-- Whether a port collects blocks (R182). -/
def portBlocky (n : Nat) : Bool := 5 ≤ n && n ≤ 7

/-- How much one input row counts towards `portNeed`: blocks for ports 0x05 to 0x07, rows otherwise (R182). -/
def rowBlocks (n : Nat) (ty : BitVec 5) : Nat := if portBlocky n && ty != 0x08 then 2 else 1

/-- What a port holds towards an operation. -/
def Port.held (p : Port) (n : Nat) : Nat := (p.ins.map fun i => rowBlocks n i.ty).foldl (· + ·) 0

/-- Cycles from the completing PMOV to the first result row being readable (R178). -/
def portLatency (n : Nat) : Nat :=
  match n with
  | 0x01 => 4 | 0x02 | 0x03 => 3 | 0x04 => 4 | 0x05 | 0x06 | 0x07 => 6 | 0x08 => 2 | 0x0A | 0x0B => 5 | 0x0D | 0x0E => 2
  | _ => 1

/-- One byte into a reflected CRC-32C (R183). -/
def crcByte (c : BitVec 32) (b : Byte) : BitVec 32 :=
  (List.range 8).foldl (fun c _ => if c.getLsbD 0 then (c >>> 1) ^^^ 0x82F63B78 else c >>> 1) (c ^^^ b.zeroExtend 32)

/-- A run of bytes into a CRC-32C. -/
def crcBytes (c : BitVec 32) (bs : List Byte) : BitVec 32 := bs.foldl crcByte c

/-- The 128 bytes of a row. -/
def rowBytes (r : Row) : List Byte := bytesOf 128 r

/-- Bytes as a row, the rest zero. -/
def rowOfBytes (bs : List Byte) : Row := rowOf (natOfBytes bs)

/-- Bits of a row moved: bit `j` of the result is bit `g j` of the source. -/
def moveBits (g : Nat → Nat) (r : Row) : Row := rowOf (pack 1 ((List.range 1024).map fun j => (r.getLsbD (g j)).toNat))

/-- Elements of a row converted exactly, from element `lo` on, to E4M3 or INT8 (R181). -/
def widenRow (src : Fmt) (lo : Nat) (r : Row) : Row :=
  rowOf (mapRow 8 128 fun i =>
    let b := elem src.width r.toNat (lo + i)
    match src with
    | .int s w => wrapInt 8 (intOf s w b)
    | .flt f => encodeExact e4m3 (f.value b))

/-- The element format of a quantising port (R178). -/
def portFmt (n : Nat) : FloatFmt :=
  match n with
  | 0x05 => e2m1 | 0x06 => e4m3
  | _ => e5m2

/-- The blocks of an input row (R182). -/
def rowAsBlocks (i : PortIn) : List (List XVal) :=
  let f := if i.ty == 0x08 then fp32 else bf16
  let vs := (elems f.width (1024 / f.width) i.row.toNat).map f.value
  if i.ty == 0x08 then [vs] else [vs.take 32, vs.drop 32]

/-- Blocks quantised: the element row and the scale row (R182). -/
def quantiseRows (f : FloatFmt) (sat : Bool) (bs : List (List XVal)) (r : Rnd) : List Row × Rnd :=
  let (qs, r) := mapRnd (mxQuantise f sat) bs r
  ([rowOf (pack f.width (qs.flatMap (·.2))), rowOf (pack 8 (qs.map (·.1)))], r)

/-- Two rows of E4M3 packed into one of E2M1 (R181). -/
def packRows (m : Mode) (sat : Bool) (rows : List Row) (r : Rnd) : List Row × Rnd :=
  let vs := rows.flatMap fun x => (elems 8 128 x.toNat).map e4m3.value
  let (es, r) := mapRnd (fun v r => round v (.flt e2m1) m sat r) vs r
  ([rowOf (pack 4 es)], r)

/-- A completed operation of a port: the result rows, the port with its table and chain changed, the rounding state. -/
def portRun (n : Nat) (ins : List PortIn) (m : Mode) (sat : Bool) (p : Port) (r : Rnd) : List Row × Port × Rnd :=
  let row := (ins.head?.map (·.row)).getD 0
  let ty := (ins.head?.map (·.ty)).getD 0
  match n with
  | 0x01 => ([widenRow (fmtOf ty) 0 row], p, r)
  | 0x02 => ([widenRow (.int true 4) 0 row, widenRow (.int true 4) 128 row], p, r)
  | 0x03 => ([widenRow (.flt e2m1) 0 row, widenRow (.flt e2m1) 128 row], p, r)
  | 0x04 =>
    let (rows, r) := packRows m sat (ins.map (·.row)) r
    (rows, p, r)
  | 0x05 | 0x06 | 0x07 =>
    let (rows, r) := quantiseRows (portFmt n) sat (ins.flatMap rowAsBlocks) r
    (rows, p, r)
  | 0x08 => ([rowOf (mapRow 8 128 fun i => elem 8 p.table.toNat (elem 8 row.toNat i))], p, r)
  | 0x09 =>
    let t : BitVec 2048 := row.zeroExtend 2048
    let keepLow : BitVec 2048 := (BitVec.allOnes 1024).zeroExtend 2048
    ([], { p with
      table := if p.half then (p.table &&& keepLow) ||| (t <<< 1024) else (p.table &&& ~~~keepLow) ||| t
      half := !p.half }, r)
  | 0x0A => ([rowOf (crcBytes 0xFFFFFFFF (rowBytes row) ^^^ 0xFFFFFFFF).toNat], p, r)
  | 0x0B =>
    let c := crcBytes p.chain (rowBytes row)
    ([rowOf (c ^^^ 0xFFFFFFFF).toNat], { p with chain := c }, r)
  | 0x0D => ([moveBits (fun j => j % 128 * 8 + j / 128) row], p, r)
  | 0x0E => ([moveBits (fun j => j % 8 * 128 + j / 8) row], p, r)
  | _ => ([], p, r)

/-- The oldest unread row discarded where the queue holds four already (R177): the port, and flags that a discarded row
still carried. A row on its way counts among the four, and is the oldest where none is readable. DESIGN CHOICE, log 45. -/
def Port.room (p : Port) : Port × BitVec 5 :=
  if p.outs.length + p.wait.length < 4 then (p, 0)
  else match p.outs, p.wait with
    | _ :: os, _ => ({ p with outs := os }, 0)
    | [], (_, _, f) :: ws => ({ p with wait := ws }, f)
    | [], [] => (p, 0)

/-- Result rows put on their way, one a cycle; the last carries the flags of the operation. DESIGN CHOICE, log 45. -/
def Port.putRows (p : Port) (due : Nat) (fl : BitVec 5) : List Row → Port × BitVec 5
  | [] => (p, 0)
  | row :: rows =>
    let (p, f) := p.room
    let (p, f') := ({ p with wait := p.wait ++ [(due, row, if rows.isEmpty then fl else 0)] } : Port).putRows
      (due + 1) fl rows
    (p, f ||| f')

/-- The port whose chain state CRC_CHAIN_RESET writes: port 0x0C resets the chain of port 0x0B (R183). -/
def resetChain (r : Regs) : Regs := r.setPort 0x0B { r.port 0x0B with chain := 0xFFFFFFFF }

/-- The port whose table port 0x09 loads is that of port 0x08 (R183). -/
def tableHome (n : Nat) : Nat := if n == 0x09 then 0x08 else n

/-- PMOV (R179): the row joins the port's inputs; a complete set is computed. -/
def effPmov (o : VPort) (x : Ctx) (a : Acc) : Acc :=
  let n := o.port.toNat
  if n == 0x0C then { a with k := { a.k with regs := resetChain a.k.regs } }
  else
    let h := tableHome n
    let p := a.k.regs.port h
    let p := { p with ins := p.ins ++ [⟨x.row o.ta o.rowa, o.ty⟩] }
    if p.held n < portNeed n then { a with k := { a.k with regs := a.k.regs.setPort h p } }
    else
      let (rows, p, r) := portRun n p.ins (x.mode o.rm) (o.sat == 1) { p with ins := [] } { a.rnd with flags := 0 }
      let (p, fl) := p.putRows (a.s.now + portLatency n) r.flags rows
      { a with rnd := r, k := ({ a.k with regs := a.k.regs.setPort h p } : Core).orFlags fl }

/-- PTAKE (R180): the oldest result row, or a row of zeros from a port that holds none (R177). -/
def effPtake (o : VPort) (x : Ctx) (a : Acc) : Acc :=
  let n := o.port.toNat
  let p := a.k.regs.port n
  match p.outs with
  | [] => a.putRow x o.td o.rowd 0 2
  | r :: rs =>
    ({ a with k := { a.k with regs := a.k.regs.setPort n { p with outs := rs } } } : Acc).putRow x o.td o.rowd r.toNat 2

/-- The result rows of a completed operation (R178). -/
def portRows (n : Nat) : Nat :=
  match n with
  | 0x02 | 0x03 | 0x05 | 0x06 | 0x07 => 2
  | 0x09 | 0x0C => 0
  | _ => 1

/-- A port as the V0 word of the same bundle leaves it, as far as the checks of V1 look at it (R177): the inputs it holds,
the rows readable and the rows on their way. -/
def Port.after (p : Port) (n : Nat) : Option Instr → Port
  | some (.pmov o) =>
    if o.port.toNat == n then
      let q := { p with ins := p.ins ++ [⟨0, o.ty⟩] }
      if q.held n < portNeed n then q
      else (({ q with ins := [] } : Port).putRows 0 0 (List.replicate (portRows n) 0)).1
    else p
  | some (.ptake o) => if o.port.toNat == n then { p with outs := p.outs.drop 1 } else p
  | _ => p

/-- A `.bf16` row past the blocks a port collects traps (R182). -/
def probePmov (o : VPort) (p : Port) : Probe :=
  let n := o.port.toNat
  .trapIf (portBlocky n && p.held n + rowBlocks n o.ty > portNeed n) .illegalSlot

/-- A PTAKE stalls while its port's oldest result is on its way (R177). -/
def probePtake (p : Port) : Probe := .stallIf (p.outs.isEmpty && !p.wait.isEmpty) false

/-- The first row on its way to a port becomes readable, if it is due: its flags are ORed in (R154, R178). -/
def portReady (n now : Nat) (k : Core) : Core :=
  let p := k.regs.port n
  match p.wait with
  | (due, row, fl) :: ws =>
    if due ≤ now then
      ({ k with regs := k.regs.setPort n { p with wait := ws, outs := p.outs ++ [row] } } : Core).orFlags fl
    else k
  | [] => k

end Sys2Proof.Machine
end

