-- ==== Sys2Proof/Machine/Matrix.lean ====
section
/-! DEFINITION. The matrix unit, operand rings, operand cache and scale loads from scratchpad (R186 to R212). -/

namespace Sys2Proof.Machine

/-! Scratchpad addresses that every slot shares (R214, R221). -/

/-- Whether an access lies in one lane below its top, at its alignment (R221). -/
def spOk (a align size : Nat) : Bool := a < 2 ^ 24 && a % align == 0 && a % 2 ^ 21 + size ≤ laneTop

/-- Whether a run of lines is full as a core sees it (R218). -/
def State.linesFull (s : State) (c addr n : Nat) : Bool :=
  (List.range n).all fun i => s.fullView c (lineKey addr + i)

/-- A run of lines as a core sees them. -/
def State.spRows (s : State) (c addr n : Nat) : List Row := (List.range n).map fun i => s.spView c (addr + 128 * i)

/-- A scratchpad line as a slot sees it: what earlier slots of its bundle write included (R41). -/
def Acc.spView (a : Acc) (x : Ctx) (addr : Nat) : Row := a.s.spLine a.k x.c addr

/-- A run of lines as a slot sees them (R41). -/
def Acc.spRows (a : Acc) (x : Ctx) (addr n : Nat) : List Row := (List.range n).map fun i => a.spView x (addr + 128 * i)

/-- Bytes of scratchpad as a slot sees them (R41). -/
def Acc.spBytes (a : Acc) (x : Ctx) (addr n : Nat) : List Byte :=
  (List.range n).map fun i => (a.spView x (addr + i)).extractLsb' (8 * ((addr + i) % 128)) 8

/-- A read of lines waits for a MOUTS that still has to write them (R203), for earlier loads of class 0, which precede it
(R293), and for every line to be full (R218). -/
def probeLines (x : Ctx) (addr n : Nat) : Probe :=
  .first [.stallIf (x.k.linesBusy addr (128 * n) || x.k.loads.any fun l => l.cls == 0) false,
    .stallIf (!x.s.linesFull x.c addr n) true]

/-! Rings (R189 to R193, R205 to R208). -/


/-- One pop (R191). -/
def Ring.pop (r : Ring) : Ring :=
  let r := { r with head := (r.head + 1) % r.size, occ := if r.keep then r.occ else r.occ ++ [r.head] }
  if r.keep then r else { r with count := r.count - 1 }

/-- Several pops. -/
def Ring.pops : Nat → Ring → Ring
  | 0, r => r
  | n + 1, r => Ring.pops n r.pop

/-- Whether a ring cannot give a tile now (R192). -/
def Ring.empty (r : Ring) : Bool := !r.keep && r.count == 0

/-- Whether an MMA in flight popped a ring. -/
def Core.ringBusy (k : Core) (n : Nat) : Bool :=
  match k.mma with
  | some m => m.rings.contains n
  | none => false

/-- The lines of a ring's popped slots set empty, and the slots handed back (R191). -/
def releaseSlots (c n : Nat) (s : State) : State :=
  let k := s.core c
  let r := k.ring n
  let cl := coreCluster c
  let s := s.setCore c (k.setRing n { r with occ := [] })
  s.setCluster cl (r.occ.foldl (fun q slot => q.setFull (lineKey (r.slotAddr slot)) 32 false) (s.cluster cl))

/-- RSET (R205). -/
def effRset (o : MRing) (x : Ctx) (a : Acc) : Acc :=
  let n := o.ring.toNat
  let r := a.k.ring n
  let size := (x.rd o.rb).toNat % 512
  { a with mark := true, k := a.k.setRing n { r with
      base := (x.rd o.ra).truncate 24, size := size, keep := o.fn.getLsbD 0, head := 0, occ := []
      count := if o.fn.getLsbD 0 || o.fn.getLsbD 1 then size else 0, gen := r.gen + 1 } }

/-- The checks and waits of RSET. -/
def probeRset (o : MRing) (x : Ctx) : Probe :=
  let base := (x.rd o.ra).toNat
  let size := (x.rd o.rb).toNat % 512
  .first [.trapIf (size != 0 && (base / 2 ^ 24 != 0 || base % 4096 != 0 || base % 2 ^ 21 + size * 4096 > laneTop))
      .misalign (x.rd o.ra), .stallIf (x.k.ringBusy o.ring.toNat) false]

/-- The core whose ring an RPUSH names (R206). -/
def pushCore (o : MRing) (c : Nat) : Nat :=
  if o.rd.getLsbD 3 then clusterCore (coreCluster c) (o.rd.toNat % 8) else c

/-- A ring given tiles (R206). -/
def Ring.push (r : Ring) (n : Nat) : Ring :=
  { r with count := if r.keep then r.count else r.count + n, gen := r.gen + 1 }

/-- RPUSH. -/
def effRpush (o : MRing) (x : Ctx) (a : Acc) : Acc :=
  let n := o.ring.toNat
  let t := pushCore o x.c
  let a := { a with mark := true }
  if t == x.c then { a with k := a.k.setRing n ((a.k.ring n).push (o.fn.toNat + 1)) }
  else
    let q := a.s.core t
    { a with s := a.s.setCore t (q.setRing n ((q.ring n).push (o.fn.toNat + 1))) }

/-- Whether an access of the core has not performed at cluster scope: what a release waits for (R193, R295). -/
def Core.unperformed (k : Core) : Bool :=
  !k.gated.isEmpty || !k.outq.isEmpty || !k.loads.isEmpty || !k.sends.isEmpty || !k.mout.isEmpty

/-- The checks and waits of RPUSH (R192, R193, R199). -/
def probeRpush (o : MRing) (x : Ctx) : Probe :=
  let t := pushCore o x.c
  let q := if t == x.c then x.k else x.s.core t
  let r := q.ring o.ring.toNat
  let n := o.fn.toNat + 1
  .first [.trapIf (r.size == 0 || (!r.keep && n > r.size)) .ringEmptyPop,
    .stallIf (!r.keep && r.count + r.occ.length + n > r.size) true,
    .stallIf (q.run == .stopped || x.k.unperformed) true]

/-- RPOP (R207): slots popped are released after every earlier release of the ring. -/
def effRpop (o : MRing) (x : Ctx) (a : Acc) : Acc :=
  let n := o.ring.toNat
  let k := a.k.setRing n ((a.k.ring n).pops (o.fn.toNat + 1))
  if x.k.ringBusy n then { a with mark := true, k }
  else
    let s := releaseSlots x.c n (a.s.setCore x.c k)
    { a with mark := true, s, k := s.core x.c }

/-- The checks of RPOP. -/
def probeRpop (o : MRing) (x : Ctx) : Probe :=
  let r := x.k.ring o.ring.toNat
  .trapIf (r.size == 0 || (!r.keep && r.count < o.fn.toNat + 1)) .ringEmptyPop

/-- The two words of a ring (R189). -/
def Ring.word (r : Ring) (w : Nat) : W64 :=
  if w == 0 then BitVec.ofNat 64 (r.keep.toNat * 2 ^ 33 + r.size * 2 ^ 24 + r.base.toNat)
  else
    let tail := if r.size == 0 then 0 else (r.head + r.count) % r.size
    BitVec.ofNat 64 (r.gen.toNat * 2 ^ 48 + r.count * 2 ^ 32 + tail * 2 ^ 16 + r.head)

/-- RGET (R208). -/
def effRget (o : MRing) (x : Ctx) (a : Acc) : Acc := a.putX x o.rd ((x.k.ring o.ring.toNat).word o.fn.toNat) 1

/-- RGET waits for an MMA in flight on its ring. -/
def probeRget (o : MRing) (x : Ctx) : Probe := .stallIf (x.k.ringBusy o.ring.toNat) false

/-! The operand cache (R196, R197). -/

/-- An operand tile fetched: from the cache where its tag is held, else from scratchpad. A held tile whose scratchpad has
changed since reads as either, whole: a free choice. DESIGN CHOICE, log 20. One in error is dropped and fetched again (R450). -/
def fetchTile (x : Ctx) (ring : Nat) (a : Acc) : List Row × Acc :=
  let r := x.k.ring ring
  let now := x.s.spRows x.c (r.slotAddr r.head) 32
  let same := fun (e : OpEntry) => e.ring == ring && e.gen == r.gen && e.slot == r.head
  match a.k.opc.find? fun e => same e && !e.bad with
  | some e =>
    let (f, s) := a.s.fresh
    let rows := if Config.staleTile f then e.rows else now
    (rows, { a with s, k := { a.k with opc := a.k.opc.filter (fun q => !same q) ++ [e] } })
  | none =>
    let opc := a.k.opc.filter fun e => !same e
    let old := if opc.length < 16 then opc else opc.drop 1
    (now, { a with k := { a.k with opc := old ++ [{ ring, gen := r.gen, slot := r.head, rows := now }] } })

/-! MMA and MMAZ (R186, R200). -/

/-- Elements along K and elements per chunk of an operand format (R186). -/
def macShape (f : BitVec 5) : Nat × Nat :=
  match f.toNat with
  | 0x12 => (256, 32) | 0x08 => (32, 4) | 0x09 | 0x0A => (64, 16)
  | _ => (128, 32)

/-- The cycles of an MMA. -/
def macCycles (f : BitVec 5) : Nat := if f == 0x08 then 16 else 8

/-- MMA and MMAZ alike: `old` is what the accumulation starts from. -/
def macIssue (o : MMac) (old : List Row) (x : Ctx) (a : Acc) : Acc :=
  let (ra, rb) := (o.rga.toNat, o.rgb.toNat)
  let (ta, a) := fetchTile x ra a
  let (tb, a) := fetchTile x rb a
  let k := (a.k.setRing ra (a.k.ring ra).pop).setRing rb (a.k.ring rb).pop
  let m : Mma :=
    { tc := physTile x.k.regs.rrb o.tc, keep := !x.dropT, fa := o.fa, fb := o.fb, a := ta, b := tb
      sa := x.k.regs.scale o.ka.toNat, sb := x.k.regs.scale o.kb.toNat, old, rings := [ra, rb]
      due := a.s.now + macCycles o.fa, seq := a.k.seq }
  { a with mark := true, k := { k with mma := some m } }

/-- MMA. -/
def effMma (o : MMac) (x : Ctx) (a : Acc) : Acc := macIssue o (x.rows o.tc) x a
/-- MMAZ. -/
def effMmaz (o : MMac) (x : Ctx) (a : Acc) : Acc := macIssue o (List.replicate 32 0) x a

/-- The checks and waits of MMA and MMAZ (R192, R193, R194). -/
def probeMac (o : MMac) (x : Ctx) : Probe :=
  let p := x.k.ring o.rga.toNat
  let q := x.k.ring o.rgb.toNat
  .first [.trapIf (p.size == 0 || q.size == 0) .ringEmptyPop,
    .stallIf (p.empty || q.empty) true,
    .stallIf x.k.mma.isSome false,
    probeLines x (p.slotAddr p.head) 32,
    probeLines x (q.slotAddr q.head) 32]

/-- The exact values of an operand row, its scales applied (R187, R188). -/
def macRow (f : BitVec 5) (sc : Scale) (r : Nat) (row : Row) : List XVal :=
  let n := (macShape f).1
  let fmt := fmtOf f
  (List.range n).map fun j =>
    let b := elem fmt.width row.toNat j
    match fmt with
    | .flt g => if isMxTy f then mxValue g (elem 8 sc.toNat (8 * r + j / 32)) b else g.value b
    | .int _ _ => fmt.value b

/-- A list cut into chunks of `n`; `fuel` is at least their number. -/
def chunks {α : Type} (n : Nat) : Nat → List α → List (List α)
  | 0, _ => []
  | fuel + 1, l => if l.isEmpty then [] else l.take n :: chunks n fuel (l.drop n)

/-- One element of the accumulator: chunks added in order (R93, R94). -/
def macElem (ca cb : List (List XVal)) (old : Nat) : Nat × BitVec 5 :=
  let (v, f) := (ca.zip cb).foldl (fun (acc : XVal × BitVec 5) p =>
    let (v, f) := accChunk acc.1 p.1 p.2
    (v, acc.2 ||| f)) (fp32.value old, 0)
  (encodeExact fp32 v, f)

/-- The accumulator rows an MMA writes and the flags it raises (R93 to R96, R200). -/
def Mma.result (m : Mma) : List Row × BitVec 5 :=
  if m.fa == 0 then
    let ints := fun (row : Row) => (elems 8 128 row.toNat).map (toSigned 8)
    let bs := m.b.map ints
    ((m.a.zip m.old).map fun p =>
      let av := ints p.1
      rowOf (pack 32 ((numbered 0 bs).map fun q => accChunkInt (elem 32 p.2.toNat q.1) av q.2)), 0)
  else
    let ch := (macShape m.fa).2
    let cut := fun (f : BitVec 5) (sc : Scale) (q : Nat × Row) => chunks ch 64 (macRow f sc q.1 q.2)
    let bs := (numbered 0 m.b).map (cut m.fb m.sb)
    let rows := (numbered 0 (m.a.zip m.old)).map fun p =>
      let av := cut m.fa m.sa (p.1, p.2.1)
      (numbered 0 bs).map fun q => macElem av q.2 (elem 32 p.2.2.toNat q.1)
    (rows.map fun r => rowOf (pack 32 (r.map (·.1))), rows.foldl (fun f r => r.foldl (fun f e => f ||| e.2) f) 0)

/-- An MMA in flight retires (R191, R200, R201), if it is due. -/
def mmaRetire (c : Nat) (s : State) : State :=
  let k := s.core c
  match k.mma with
  | none => s
  | some m =>
    if m.due ≤ s.now then
      let (rows, fl) := m.result
      let k := { k with mma := none }
      let k := if m.keep then k.setRows m.tc 0 rows else k
      m.rings.foldl (fun s n => releaseSlots c n s) (s.setCore c (k.orFlags fl))
    else s

/-! MOUT, MOUTS and MZERO (R202 to R204). -/

/-- One accumulator row converted: the packed elements and the scale byte of MX output (R202). -/
def outRow (ty : BitVec 5) (m : Mode) (sat mx : Bool) (row : Row) (r : Rnd) : (Nat × Nat) × Rnd :=
  match fmtOf ty with
  | .int s w => ((pack w ((elems 32 32 row.toNat).map fun e => convInt s w sat (toSigned 32 e)), 0), r)
  | .flt f =>
    let vs := (elems 32 32 row.toNat).map fp32.value
    if mx then
      let ((c, es), r) := mxQuantise f sat vs r
      ((pack f.width es, c), r)
    else
      let (es, r) := mapRnd (fun v r => round v (.flt f) m sat r) vs r
      ((pack f.width es, 0), r)

/-- An accumulator tile converted, row by row. -/
def outRows (ty : BitVec 5) (m : Mode) (sat mx : Bool) (rows : List Row) (r : Rnd) : List (Nat × Nat) × Rnd :=
  mapRnd (outRow ty m sat mx) rows r

/-- A result of the output path put on its way. -/
def Acc.putOut (a : Acc) (p : MOutPend) : Acc := { a with mark := true, k := { a.k with mout := a.k.mout ++ [p] } }

/-- MOUT (R202). -/
def effMout (o : MOut) (x : Ctx) (a : Acc) : Acc :=
  let mx := o.mx == 1
  let (rs, r) := outRows o.ty (x.mode o.rm) (o.sat == 1) mx (x.rows o.tc) { a.rnd with flags := 0 }
  ({ a with rnd := r } : Acc).putOut
    { tile := if x.dropT then none else some (physTile x.k.regs.rrb o.td, rs.map fun e => rowOf e.1)
      scale := if mx && !x.dropK then some (o.kd.toNat, rs.map fun e => BitVec.ofNat 8 e.2) else none
      lines := none, flags := if floatTy o.ty then some r.flags else none, due := a.s.now + (if mx then 6 else 4), seq := a.k.seq }

/-- The address and the size of a MOUTS (R203). -/
def moutsAddr (o : MOuts) (x : Ctx) : Nat := ((x.rd o.ra).toNat + o.imm.toNat) % 2 ^ 64
/-- The bytes a MOUTS writes. -/
def moutsSize (o : MOuts) : Nat := 128 * (fmtOf o.ty).width + (if o.mx == 1 then 128 else 0)

/-- MOUTS (R203). -/
def effMouts (o : MOuts) (x : Ctx) (a : Acc) : Acc :=
  let mx := o.mx == 1
  let w := (fmtOf o.ty).width
  let (rs, r) := outRows o.ty (x.mode o.rm) (o.sat == 1) mx (x.rows o.tc) { a.rnd with flags := 0 }
  let data := rs.flatMap fun e => bytesOf (4 * w) (rowOf e.1)
  let scales := if mx then rs.map (fun e => BitVec.ofNat 8 e.2) ++ List.replicate 96 0 else []
  ({ a with rnd := r } : Acc).putOut
    { tile := none, scale := none, lines := some (moutsAddr o x, moutsSize o, data ++ scales)
      flags := if floatTy o.ty then some r.flags else none, due := a.s.now + (if mx then 10 else 8), seq := a.k.seq }

/-- The checks and waits of MOUTS: it performs after every earlier access to its bytes (R203). -/
def probeMouts (o : MOuts) (x : Ctx) : Probe :=
  let a := moutsAddr o x
  .first [.trapIf (!spOk a 128 (moutsSize o)) .misalign (BitVec.ofNat 64 a),
    .stallIf (x.k.linesBusy a (moutsSize o)) false]

/-- MZERO (R204). -/
def effMzero (o : MOut) (x : Ctx) (a : Acc) : Acc :=
  a.putOut { tile := if x.dropT then none else some (physTile x.k.regs.rrb o.tc, List.replicate 32 0)
             scale := none, lines := none, flags := none, due := a.s.now + 2, seq := a.k.seq }

/-- The low bytes of a scale register replaced; the bytes above stay (R202). -/
def putScaleBytes (v : Scale) (bs : List Byte) : Scale :=
  BitVec.ofNat 2048 (natOfBytes bs + v.toNat / 256 ^ bs.length * 256 ^ bs.length)

/-- A scale register written by a landed MOUT: a pending scale load of an earlier bundle is discarded (R212). -/
def landScale (n seq : Nat) (bs : List Byte) (r : Regs) : Regs :=
  { r with k := r.k.write n (putScaleBytes (r.scale n) bs), kpend := r.kpend.filter fun p => p.k != n || seq ≤ p.seq }

/-- Whether an earlier access of class 0 of the core has not performed: a MOUTS, in the M slot, or a SEND row, in the X slot,
comes after it (R41, R293). -/
def Core.earlierZero (k : Core) (seq : Nat) (inX : Bool) : Bool :=
  let first := fun (n : Nat) => n < seq || (inX && n == seq)
  k.loads.any (fun l => first l.seq && l.cls == 0)
    || k.outq.any (fun o => first o.seq && (o.eff.cls? == some 0 || o.eff.cls? == some 16))
    || k.sends.any (fun d => d.seq < seq)
    || k.mout.any fun m => m.lines.isSome && first m.seq


/-- The lines of a MOUTS reach their banks (R203). -/
def State.landLines (s : State) (cl : Nat) (l : Nat × Nat × List Byte) : State :=
  (s.setCluster cl ((s.cluster cl).setSp l.1 l.2.2)).fillLines cl (lineKey l.1) (l.2.1 / 128)

/-- A result of the output path lands (R194, R202 to R204), if it is due. -/
def mOutputLand (c i : Nat) (s : State) : State :=
  let k := s.core c
  match k.mout[i]? with
  | none => s
  | some m =>
    let blocked := match m.lines with
      | some (a, n, _) => k.earlierZero m.seq false
          || (List.range (n / 128)).any fun i => s.emptiesFirst (coreCluster c) (lineKey a + i) m.due
      | none => false
    if m.due ≤ s.now && !blocked then
      let k := ({ k with mout := removeAt k.mout i } : Core).orFlags (m.flags.getD 0)
      let k := match m.tile with
        | some (t, rows) => k.setRows t 0 rows
        | none => k
      let k := match m.scale with
        | some (n, bs) => k.landRegs 0 (landScale n m.seq bs)
        | none => k
      let s := s.setCore c k
      match m.lines with
      | some l => s.landLines (coreCluster c) l
      | none => s
    else s

/-- The lines of a MOUTS of the bundle under construction reach their banks at once (R293). -/
def Acc.landOwnLines (a : Acc) (x : Ctx) : Acc :=
  let own := a.k.mout.filter fun m => a.k.seq ≤ m.seq
  let s := (own.filterMap (·.lines)).foldl (fun s l => s.landLines (coreCluster x.c) l) a.s
  { a with s, k := { a.k with mout := a.k.mout.map fun m => if a.k.seq ≤ m.seq then { m with lines := none } else m } }

/-! LDSC (R210 to R212). -/

/-- The address of a scratchpad access (R221). -/
def spAddr (o : PFmt) (x : Ctx) : Nat := ((x.rd o.ra).toNat + o.imm.toNat) % 2 ^ 64

/-- A pending write of a scale register, six bundles away (R211). -/
def Acc.pendScale (a : Acc) (n : Nat) (v : Scale) : Acc :=
  { a with k := { a.k with regs := { a.k.regs with kpend := a.k.regs.kpend ++ [⟨n, v, 6, a.k.seq⟩] } } }

/-- LDSC: bytes 0 to 7 of 32 lines (R210). -/
def effLdsc (o : PFmt) (x : Ctx) (a : Acc) : Acc :=
  let rows := a.spRows x (spAddr o x) 32
  a.pendScale (o.reg.toNat % 16) (BitVec.ofNat 2048 (pack 64 (rows.map fun r => r.toNat % 2 ^ 64)))

/-- The checks and waits of LDSC. -/
def probeLdsc (o : PFmt) (x : Ctx) : Probe :=
  let a := spAddr o x
  .first [.trapIf (!spOk a 128 4096) .misalign (BitVec.ofNat 64 a), probeLines x a 32]

/-- Scale writes whose bundles have passed land, in order (R211, R212). -/
def landScales (r : Regs) : Regs :=
  (r.kpend.filter fun p => p.left == 0).foldl (fun r p => { r with k := r.k.write p.k p.val })
    { r with kpend := r.kpend.filter fun p => p.left != 0 }

/-- Scale writes land: the words they write hold good check bits (R152). -/
def Core.landScales (k : Core) : Core :=
  let due := (k.regs.kpend.filter fun p => p.left == 0).map (·.k)
  { k with
    regs := Machine.landScales k.regs
    bad := k.bad.filter fun b => match b.reg with
      | .scale n => !due.contains n
      | _ => true }

/-- One bundle has issued: every pending scale write is one bundle nearer (R211). -/
def countScales (r : Regs) : Regs := { r with kpend := r.kpend.map fun p => { p with left := p.left - 1 } }

end Sys2Proof.Machine
end

