-- ==== Sys2Proof/Machine/Spad.lean ====
section
/-! DEFINITION. Scratchpad loads and stores, full/empty bits, point-to-point rows, semaphores and barriers (R214 to R239). -/

namespace Sys2Proof.Machine

/-! Loads and stores (R221 to R223). -/

/-- The latency of a scratchpad load, in its own lane and in another (R223). -/
def spLatency (c addr own other : Nat) : Nat := if addr / 2 ^ 21 == coreLane c then own else other

/-- A scratchpad load's rows put on their way. -/
def spLoad (d : Dest) (addr own other : Nat) (v : List Row) (x : Ctx) (a : Acc) : Acc :=
  a.put .load d v 0 (spLatency x.c addr own other)

/-- LDS. -/
def effLds (o : PFmt) (x : Ctx) (a : Acc) : Acc :=
  let p := spAddr o x
  spLoad (x.destX (regLow o.reg)) p 4 12 [rowOfBytes (a.spBytes x p 8)] x a
/-- LDSR. -/
def effLdsr (o : PFmt) (x : Ctx) (a : Acc) : Acc :=
  let p := spAddr o x
  spLoad (x.destRow (regHigh o.reg) (regLow o.reg)) p 4 12 (a.spRows x p 1) x a
/-- LDST. -/
def effLdst (o : PFmt) (x : Ctx) (a : Acc) : Acc :=
  let p := spAddr o x
  spLoad (x.destTile (regHigh o.reg)) p 35 43 (a.spRows x p 32) x a

/-- The checks and waits of a scratchpad load (R218, R221). -/
def probeSpLoad (o : PFmt) (align size : Nat) (x : Ctx) : Probe :=
  let p := spAddr o x
  .first [.trapIf (!spOk p align size) .misalign (BitVec.ofNat 64 p), probeLines x (p / 128 * 128) ((size + 127) / 128)]

/-- STS. -/
def effSts (o : PFmt) (x : Ctx) (a : Acc) : Acc := a.gate [.sp (spAddr o x) (bytesOf 8 (x.rd (regLow o.reg)))]
/-- STSR. -/
def effStsr (o : PFmt) (x : Ctx) (a : Acc) : Acc :=
  a.gate [.sp (spAddr o x) (rowBytes (x.row (regHigh o.reg) (regLow o.reg)))]
/-- STST: 32 row stores. -/
def effStst (o : PFmt) (x : Ctx) (a : Acc) : Acc :=
  a.gate ((numbered 0 (x.rows (regHigh o.reg))).map fun r => .sp (spAddr o x + 128 * r.1) (rowBytes r.2))

/-- The checks of a scratchpad store, which performs after a MOUTS on its way to the same bytes (R203, R221). -/
def probeSpStore (o : PFmt) (align size : Nat) (x : Ctx) : Probe :=
  let p := spAddr o x
  .first [.trapIf (!spOk p align size) .misalign (BitVec.ofNat 64 p), .stallIf (x.k.linesBusy p size) false]

/-- The lines an SPCLR or SPFILL names (R224). -/
def fillCount (o : PFmt) : Nat := o.reg.toNat + 1

/-- SPCLR (R224). -/
def effSpclr (o : PFmt) (x : Ctx) (a : Acc) : Acc := a.gate [.spclr (lineKey (spAddr o x)) (fillCount o)]
/-- SPFILL (R224). -/
def effSpfill (o : PFmt) (x : Ctx) (a : Acc) : Acc := a.gate [.spfill (lineKey (spAddr o x)) (fillCount o)]

/-- The checks of SPCLR and SPFILL. -/
def probeFill (o : PFmt) (x : Ctx) : Probe :=
  let p := spAddr o x
  .trapIf (!spOk p 128 (128 * fillCount o)) .misalign (BitVec.ofNat 64 p)

/-- A committed scratchpad effect reaches its bank (R223). -/
def storeReachesBank (c i : Nat) (s : State) : State :=
  match (s.core c).outq[i]? with
  | some ⟨_, _, .sp _ _⟩ | some ⟨_, _, .spclr _ _⟩ => performAt c i s
  | _ => s

/-! Point-to-point rows (R235 to R239). -/

/-- The lane offset of a point-to-point row (R235). -/
def p2pOff (o : XP2p) (x : Ctx) : Nat := ((x.rd o.ra).toNat + o.imm.toNat) % 2 ^ 64

/-- The check of R235. -/
def probeP2p (o : XP2p) (x : Ctx) : Probe :=
  let a := p2pOff o x
  .trapIf (a % 128 != 0 || laneTop ≤ a) .misalign (BitVec.ofNat 64 a)

/-- SEND (R237). -/
def effSend (o : XP2p) (x : Ctx) (a : Acc) : Acc :=
  { a with mark := true, k := { a.k with
      sends := a.k.sends ++ [⟨o.lane.toNat, p2pOff o x, x.row o.ta o.rowa, a.s.now + 14, a.k.seq⟩] } }

/-- The line of the core's own lane that RECV and RECVADD take. -/
def recvAddr (o : XP2p) (x : Ctx) : Nat := coreLane x.c * 2 ^ 21 + p2pOff o x

/-- RECV and RECVADD: the line is emptied in the issue cycle, after the loads of class 0 of earlier slots have their values
(R41, R238, R293). -/
def takeLine (o : XP2p) (x : Ctx) (a : Acc) : Acc :=
  let cl := coreCluster x.c
  let a := a.settleLoads fun l => l.cls == 0
  { a with mark := true, s := a.s.setCluster cl ((a.s.cluster cl).setFull (lineKey (recvAddr o x)) 1 false) }

/-- RECV. -/
def effRecv (o : XP2p) (x : Ctx) (a : Acc) : Acc :=
  (takeLine o x a).putRow x o.ta o.rowa (a.spView x (recvAddr o x)).toNat 2

/-- The element type of RECVADD's LANE field (R238). -/
def recvTy (l : BitVec 3) : BitVec 5 :=
  match l.toNat with
  | 0 => 0x08 | 1 => 0x0A | 2 => 0x09 | 3 => 0x02 | 4 => 0x01
  | _ => 0x00

/-- RECVADD: RNE, and no other rounding state (R238). -/
def effRecvadd (o : XP2p) (x : Ctx) (a : Acc) : Acc :=
  let ty := recvTy o.lane
  let v := (a.spView x (recvAddr o x)).toNat
  let a := takeLine o x a
  match fmtOf ty with
  | .int s w =>
    a.putRow x o.ta o.rowa (mapRow w (lanes ty) fun i =>
      wrapInt w (intOf s w (x.el ty o.ta o.rowa i) + intOf s w (elem w v i))) 4
  | .flt f =>
    let (r, st) := roundRow (.flt f) .rne false (lanes ty)
      (fun i => xadd .rne (f.value (x.el ty o.ta o.rowa i)) (f.value (elem f.width v i))) { a.rnd with flags := 0 }
    a.putRowF x o.ta o.rowa r st.flags 4

/-- RECV and RECVADD wait for their line, and for the core's own earlier changes of it to reach it (R238). -/
def probeRecv (o : XP2p) (x : Ctx) : Probe :=
  let l := lineKey (recvAddr o x)
  .first [probeP2p o x, .stallIf (x.k.pending.any fun e => (e.fullBit l).isSome) true,
    probeLines x (recvAddr o x) 1]

/-- Whether a SEND of another core of the cluster reaches the same bank first (R216, R239). -/
def sendBlocked (c : Nat) (p : SendPend) (s : State) : Bool :=
  (clusterCores (coreCluster c)).any fun d =>
    d != c && (s.core d).sends.any fun q =>
      q.lane == p.lane && q.off / 128 % 96 == p.off / 128 % 96
        && (q.due < p.due || (q.due == p.due && coreLane d < coreLane c))

/-- A SEND's row arrives (R237, R239), after the core's earlier accesses of class 0 (R293) and after an emptying of its line
that is due by then (R219): SPOVR counts a line that is already full. -/
def sendArrival (c i : Nat) (s : State) : State :=
  let k := s.core c
  match k.sends[i]? with
  | none => s
  | some p =>
    if p.due ≤ s.now && !k.earlierZero p.seq true && !sendBlocked c p s
        && !s.emptiesFirst (coreCluster c) (p.lane * 16384 + p.off / 128) p.due then
      let cl := coreCluster c
      let q := s.cluster cl
      let l := p.lane * 16384 + p.off / 128
      let past := q.full.read l == 1 && q.spovr != 0xFFFF
      let s := s.setCore c { k with sends := removeAt k.sends i }
      (s.setCluster cl { q.setLine l p.row with spovr := if past then q.spovr + 1 else q.spovr }).fillLines cl l 1
    else s

/-! Semaphores (R225 to R229). -/

/-- The operand of SEMADD, SEMSET and SEMWAIT. -/
def semVal (o : XSem) (x : Ctx) : Nat := ((x.rd o.ra).toNat + o.imm.toNat) % 2 ^ 64

/-- An admitted increment joins the gated buffer (R226). DEDUCED, log 40. -/
def admitInc (cl n v : Nat) (e : Effect) (a : Acc) : Acc := ({ a with s := a.s.setAdm cl n (a.s.adm cl n + v) } : Acc).gate [e]

/-- SEMADD. -/
def effSemadd (o : XSem) (x : Ctx) (a : Acc) : Acc :=
  admitInc (coreCluster x.c) o.sem.toNat (semVal o x) (.semadd o.sem.toNat (semVal o x)) a
/-- SEMSET. -/
def effSemset (o : XSem) (x : Ctx) (a : Acc) : Acc := a.gate [.semset o.sem.toNat (semVal o x)]
/-- SEMRD: the counter at issue. -/
def effSemrd (o : XSem) (x : Ctx) (a : Acc) : Acc :=
  a.putX x o.rd (BitVec.ofNat 64 (x.s.sem (coreCluster x.c) o.sem.toNat)) 1

/-- A subtraction made by a passed wait and recorded for a rollback (R62). -/
def subtract (cl n v : Nat) (a : Acc) : Acc :=
  { a with s := a.s.setSem cl n (a.s.sem cl n - v), k := { a.k with decr := a.k.decr ++ [(n, v)] } }

/-- A passed wait: an acquire at cluster scope, and the lane that passed last (R227, R255). -/
def passWait (c n : Nat) (a : Acc) : Acc := { a with s := a.s.passed c n, k := a.k.dropClean }

/-- SEMWAIT, once its test has passed. -/
def effSemwait (o : XSem) (x : Ctx) (a : Acc) : Acc :=
  let n := o.sem.toNat
  let a := passWait x.c n a
  if o.fn.getLsbD 0 then subtract (coreCluster x.c) n (semVal o x) a else a

/-- The range checks of SEMSET and SEMWAIT (R229). -/
def probeSem (o : XSem) (x : Ctx) : Probe := .trapIf (65535 < semVal o x) .semOverflow (o.sem.zeroExtend 64)

/-- The admission test of an increment, `sub` being taken by the bundle's own wait, and `before` admitted by it already (R226). -/
def admits (s : State) (cl n sub before v : Nat) : Bool := s.sem cl n - sub + s.adm cl n + before + v ≤ 65535

/-! Barriers (R231 to R234). -/

/-- BARC, once its barrier has released: an acquire (R232, R255). DESIGN CHOICE, log 47. -/
def effBarc (_ : Ctx) (a : Acc) : Acc := { a with k := { a.k.dropClean with pass := none, passed := none } }
/-- BARG, likewise. DESIGN CHOICE, log 47. -/
def effBarg (_ : Ctx) (a : Acc) : Acc := { a with k := { a.k.dropClean with pass := none, passed := none } }

/-- Whether everything the core issued has performed: a condition of its arrival (R232).
DESIGN CHOICE, log 3. DEDUCED, log 18. -/
def Core.settled (k : Core) : Bool := !k.unperformed && k.sat.isEmpty

end Sys2Proof.Machine
end

