-- ==== Sys2Proof/Machine/Field.lean ====
section
/-! DEFINITION. Field descriptors (R325 to R328), the place of dies in the fabric (R16, R17), and the address generator that
the engines and LDSMP share. -/

namespace Sys2Proof.Machine

/-- A descriptor's fields (R326), grid extents with one added and PSTRIDE in bytes. -/
structure FieldDesc where
  layout  : Nat
  fmt     : BitVec 5
  base    : Nat
  c       : Nat
  w       : Nat
  h       : Nat
  t       : Nat
  gt      : Nat
  gh      : Nat
  gw      : Nat
  nh      : Nat
  pstride : Nat
  oz      : Nat
  oy      : Nat
  ox      : Nat
  bound   : Nat
  halo    : Nat
deriving DecidableEq, Repr

/-- A descriptor read from its four words. -/
def fieldOf (w0 w1 w2 w3 : W64) : FieldDesc where
  layout := (field w0 61 3).toNat
  fmt := field w0 56 5
  base := (field w0 0 56).toNat
  c := (field w1 48 16).toNat
  w := (field w1 32 16).toNat
  h := (field w1 16 16).toNat
  t := (field w1 0 16).toNat
  gt := (field w2 56 4).toNat + 1
  gh := (field w2 52 4).toNat + 1
  gw := (field w2 48 4).toNat + 1
  nh := (field w2 32 12).toNat
  pstride := (field w2 0 32).toNat * 65536
  oz := (field w3 44 4).toNat
  oy := (field w3 40 4).toNat
  ox := (field w3 36 4).toNat
  bound := (field w3 24 12).toNat
  halo := (field w3 0 24).toNat

/-- A descriptor of a set of sixteen (R325). -/
def descOf (fds : Store 64) (n : Nat) : FieldDesc :=
  fieldOf (fds.read (4 * n)) (fds.read (4 * n + 1)) (fds.read (4 * n + 2)) (fds.read (4 * n + 3))

/-- The halo width of a face (R326). -/
def FieldDesc.haloOf (d : FieldDesc) (f : Nat) : Nat := d.halo / 16 ^ f % 16
/-- The boundary mode of a face: 0 NONE, 1 ZERO, 2 CLAMP, 3 WRAP. -/
def FieldDesc.boundOf (d : FieldDesc) (f : Nat) : Nat := d.bound / 4 ^ f % 4
/-- Whether a descriptor is unset (R326). -/
def FieldDesc.unset (d : FieldDesc) : Bool := d.t == 0 || d.h == 0 || d.w == 0 || d.c == 0
/-- The bytes of one element. -/
def FieldDesc.es (d : FieldDesc) : Nat := (fmtOf d.fmt).width / 8
/-- The dies of the group. -/
def FieldDesc.group (d : FieldDesc) : Nat := d.gt * d.gh * d.gw
/-- A polder's extent on T. -/
def FieldDesc.tp (d : FieldDesc) : Nat := d.t / d.gt
/-- A polder's extent on H. -/
def FieldDesc.hp (d : FieldDesc) : Nat := d.h / d.gh
/-- A polder's extent on W. -/
def FieldDesc.wp (d : FieldDesc) : Nat := d.w / d.gw

/-- The polder bytes with halos (R328). -/
def FieldDesc.polderBytes (d : FieldDesc) : Nat :=
  (d.tp + d.haloOf 0 + d.haloOf 1) * (d.hp + d.haloOf 2 + d.haloOf 3) * (d.wp + d.haloOf 4 + d.haloOf 5) * d.c * d.es

/-- The bytes of a die's own part of a field: its polder with halos, or its heads (R328). -/
def FieldDesc.ownBytes (d : FieldDesc) : Nat :=
  if d.layout == 2 then d.nh / d.group * (d.t * d.h * d.w) * (d.c / d.nh) * d.es else d.polderBytes

/-- Whether a range of addresses meets some die's own part of a field. -/
def FieldDesc.meets (d : FieldDesc) (lo n : Nat) : Bool :=
  (List.range d.group).any fun i =>
    let a := d.base + i * d.pstride
    a < lo + n && lo < a + d.ownBytes

/-- `polder` (R328): local coordinates given from the first halo plane on, that is, with the low halo added. -/
def FieldDesc.polder (d : FieldDesc) (i lt lh lw c : Nat) : Nat :=
  let lH := d.hp + d.haloOf 2 + d.haloOf 3
  let lW := d.wp + d.haloOf 4 + d.haloOf 5
  d.base + i * d.pstride + (((lt * lH + lh) * lW + lw) * d.c + c) * d.es

/-- `fd_addr` (R328), `own` the group index of the die that makes the access, 0 where it has none. -/
def FieldDesc.addr (d : FieldDesc) (t h w c own : Nat) : Nat :=
  let flat := (((t * d.h + h) * d.w + w) * d.c + c) * d.es
  match d.layout with
  | 1 =>
    let i := w / d.wp + d.gw * (h / d.hp + d.gh * (t / d.tp))
    d.polder i (t % d.tp + d.haloOf 0) (h % d.hp + d.haloOf 2) (w % d.wp + d.haloOf 4) c
  | 2 =>
    let hpd := d.nh / d.group
    let dh := d.c / d.nh
    let n := (t * d.h + h) * d.w + w
    let hd := c / dh
    d.base + hd / hpd * d.pstride + ((hd % hpd * d.t * d.h * d.w + n) * dh + c % dh) * d.es
  | 3 => d.base + own * d.pstride + flat
  | _ => d.base + flat

/-- The fabric coordinates of a compute die (R16, R17). -/
def dieCoord (f : Nat) : Nat × Nat × Nat :=
  let p := f / 8
  let d := f % 8
  (2 * (p % 8) + d % 2, 2 * (p / 8 % 8) + d / 2 % 2, 2 * (p / 64) + d / 4)

/-- The compute die at fabric coordinates. -/
def dieAt (x y z : Nat) : Nat := (x / 2 + 8 * (y / 2) + 64 * (z / 2)) * 8 + (x % 2 + 2 * (y % 2) + 4 * (z % 2))

/-- The die of a block of a descriptor's grid (R326). -/
def FieldDesc.dieOf (d : FieldDesc) (i : Nat) : Nat :=
  dieAt (d.ox + i % d.gw) (d.oy + i / d.gw % d.gh) (d.oz + i / d.gw / d.gh)

/-- The group index of a die, if it belongs to the group (R326). -/
def FieldDesc.indexOf (d : FieldDesc) (f : Nat) : Option Nat := (List.range d.group).find? fun i => d.dieOf i == f

/-! Command lines and launch parts by die. -/

/-- Bytes `lo` to `lo + n − 1` of a command line as a number. -/
def lineNum (r : Row) (lo n : Nat) : Nat := (r.extractLsb' (8 * lo) (8 * n)).toNat
/-- FD of a line that names a descriptor. -/
def lineFd (r : Row) : Nat := lineNum r 16 1

/-- The key of a launch's part on the package of a die. -/
def partKey (lid die : Nat) : Nat := die / 8 * 65536 + lid % 65536

/-- The packages of a box, given by its origin and its extents (R408, R412). -/
def boxPkgs : List Nat → List Nat
  | [ox, oy, oz, ex, ey, ez] =>
    (List.range ez).flatMap fun k => (List.range ey).flatMap fun j => (List.range ex).map fun i =>
      (ox + i) % 8 + 8 * ((oy + j) % 8) + 64 * ((oz + k) % 8)
  | _ => []

/-- The keys of a launch's parts (R412). DEDUCED, log 13. -/
def State.parts (s : State) (l : Nat) : List Nat :=
  if (s.launch l).desc.fabric then (boxPkgs (s.launch l).desc.box).map fun p => p * 65536 + l % 65536 else [l]

/-! Descriptors as commands and cores see them. -/

/-- The words of a descriptor after a RESHARD (R371). DEDUCED, log 33. -/
def newWords (fds : Store 64) (fd : Nat) (r : Row) : List W64 :=
  let w := fun i => (fds.read (4 * fd + i)).toNat
  let lay := lineNum r 17 1
  let w0 := lay % 8 * 2 ^ 61 + w 0 / 2 ^ 56 % 32 * 2 ^ 56 + lineNum r 24 8 % 2 ^ 56
  let nh := if lay == 2 then lineNum r 32 2 % 4096 else w 2 / 2 ^ 32 % 4096
  let w2 := w 2 / 2 ^ 44 * 2 ^ 44 + nh * 2 ^ 32 + lineNum r 20 4
  let w3 := w 3 / 2 ^ 36 * 2 ^ 36 + lineNum r 34 2 % 4096 * 2 ^ 24 + lineNum r 36 4 % 2 ^ 24
  [BitVec.ofNat 64 w0, BitVec.ofNat 64 (w 1), BitVec.ofNat 64 w2, BitVec.ofNat 64 w3]

/-- The descriptor after a RESHARD. -/
def newField (fds : Store 64) (fd : Nat) (r : Row) : FieldDesc :=
  let ws := newWords fds fd r
  fieldOf (ws.getD 0 0) (ws.getD 1 0) (ws.getD 2 0) (ws.getD 3 0)

/-- The line that every member's command of a collective agrees with. -/
def Coll.line (c : Coll) : Row := ((c.pushes.head?).map (·.line)).getD 0

/-- Whether a collective is a RESHARD of a launch whose commit tick has come (R375). -/
def Coll.takesOver (c : Coll) (s : State) (l : Nat) : Bool :=
  c.kind == 0x28 && c.pushes.any (fun p => (s.parts p.lid).contains l) && match c.tau with
    | some t => decide (t ≤ s.now)
    | none => false

/-- A launch's descriptor words as they stand (R325): from its commit tick on, a RESHARD's new words (R375). DEDUCED, log 34. -/
def State.fds (s : State) (l : Nat) : Store 64 :=
  s.colls.foldl (fun f c =>
    if c.takesOver s l then f.writeRun (4 * lineFd c.line) (newWords f (lineFd c.line) c.line) else f) (s.launch l).fds

/-- A descriptor of the launch of a core. -/
def State.desc (s : State) (c n : Nat) : FieldDesc := descOf (s.fds (s.core c).launch) n

/-- FDRD (R324). -/
def effFdrd (o : XPop) (x : Ctx) (a : Acc) : Acc :=
  a.putX x o.rd ((x.s.fds x.k.launch).read (4 * (o.q.toNat % 16) + o.fn.toNat)) 1

/-! Blocks of a field's grid. -/

/-- The extents of a descriptor's grid by axis of the field: T, H, W. -/
def FieldDesc.gridOf (d : FieldDesc) (a : Nat) : Nat := match a with
  | 0 => d.gt | 1 => d.gh | _ => d.gw
/-- The number of blocks between neighbours on an axis. -/
def FieldDesc.gridStep (d : FieldDesc) (a : Nat) : Nat := match a with
  | 0 => d.gw * d.gh | 1 => d.gw | _ => 1

/-- The block across a face: the neighbour in the grid, or on a WRAP face at its edge the block at the far end (R338). -/
def FieldDesc.across (d : FieldDesc) (i f : Nat) : Option Nat :=
  let a := f / 2
  let n := d.gridOf a
  let k := d.gridStep a
  let c := i / k % n
  if f % 2 == 0 then (if 0 < c then some (i - k) else if d.boundOf f == 3 then some (i + k * (n - 1)) else none)
  else if c + 1 < n then some (i + k) else if d.boundOf f == 3 then some (i - k * (n - 1)) else none

end Sys2Proof.Machine
end

