-- ==== Sys2Proof/Machine/Global.lean ====
section
/-! DEFINITION. Global loads and stores, atomics and the sampler path (R248, R276 to R287, R309 to R311). -/

namespace Sys2Proof.Machine

/-! The checks of R248. -/

/-- The offset within the page of a format G access (R276). -/
def gOff (o : GFmt) (size : Nat) (x : Ctx) : Nat := ((x.rd o.ro).toNat + o.off.toNat * size) % 2 ^ 64

/-- What an access needs of its page (R248 steps 6 to 8). -/
inductive Need where
  | load | store | atomic
deriving DecidableEq, Repr

/-- The checks of R248, in order, on an access of `size` bytes at offset `o` of a handle's page. A bundle that waits at a PENDING
handle for an invalidation to complete takes a mark: the invalidation waits for the core's gated stores. DEDUCED, log 14. -/
def probeHandle (x : Ctx) (h : BitVec 4) (o align size : Nat) (need : Need) : Probe :=
  let hd := x.k.regs.handle h.toNat
  let e := hd.page.leaf
  let va := BitVec.ofNat 64 (hd.page.base + o)
  let hn : W64 := h.zeroExtend 64
  match hd.state with
  | .invalid => .trap .handleInvalid 0 0
  | .pending => .stall (!x.s.awaitsXlat x.c h.toNat)
  | .revoked => .trap .handleRevoked va hn
  | .faulted => .trap .pageFault hd.va hn
  | .valid =>
    .first [.trapIf (o % align != 0 || pageSize e < o + size) .misalign va hn,
      .trapIf ((need != .store && !leafR e) || (need != .load && !leafW e)) .permFault va hn,
      .trapIf (need == .atomic && leafSfmt e != leafDfmt e) .permFault va hn,
      .trapIf (need != .load && leafCow e) .cowWrite va hn]

/-- The source and the delivered place of an offset of a handle's page. -/
def Ctx.place (x : Ctx) (h : BitVec 4) (o : Nat) : Src × Nat := (x.k.regs.handle h.toNat).page.at o

/-! Loads (R277 to R279). -/

/-- Rows of a landed load: bytes cut into rows of 128. -/
def rowsOfBytes : Nat → List Byte → List Row
  | 0, _ => []
  | fuel + 1, bs => if bs.isEmpty then [] else rowOfBytes (bs.take 128) :: rowsOfBytes fuel (bs.drop 128)

/-- The latency of a load whose bytes are all in the L1 (R279). -/
def hitCycles (size : Nat) : Nat := if size == 4096 then 37 else if size == 256 then 8 else 6

/-- A load put on its way: it takes its value as it returns (R290, R292). -/
def globalLoad (d : Dest) (o : GFmt) (size : Nat) (x : Ctx) (a : Acc) : Acc :=
  let (src, p) := x.place o.h (gOff o size x)
  { a with k := { a.k with loads := a.k.loads ++
      [{ dest := d, src, off := p, size, cls := o.cls.toNat, acq := false, sc := o.sc.toNat, val := none
         due := a.s.now + hitCycles size, region := a.k.region, seq := a.k.seq }] } }

/-- LDG. -/
def effLdg (o : GFmt) (x : Ctx) (a : Acc) : Acc := globalLoad (x.destX (regLow o.reg)) o 8 x a
/-- LDGR. -/
def effLdgr (o : GFmt) (x : Ctx) (a : Acc) : Acc := globalLoad (x.destRow (regHigh o.reg) (regLow o.reg)) o 128 x a
/-- LDGT. -/
def effLdgt (o : GFmt) (x : Ctx) (a : Acc) : Acc := globalLoad (x.destTile (regHigh o.reg)) o 4096 x a
/-- LDSCG. -/
def effLdscg (o : GFmt) (x : Ctx) (a : Acc) : Acc :=
  globalLoad (if x.dropK then .none else .scale (o.reg.toNat % 16)) o 256 x a

/-- The lines that an access reads at the slice: those with a byte that the core cannot give, or, for an acquire at CLUSTER
scope or wider, that is not dirty in the core (R255, R296). -/
def Core.sliceLines (k : Core) (sc : BitVec 3) (src : Src) (o n : Nat) : List Nat :=
  nubNat ((List.range n).filterMap fun i =>
    if (if sc == 0 then k.ownByte src (o + i) else k.dirtyByte src (o + i)).isNone then some ((o + i) / 128) else none)

/-- A load that would receive replaced data traps where the launch is strict (R425). -/
def probeZeroed (x : Ctx) (sc : BitVec 3) (src : Src) (o n : Nat) : Probe :=
  let lines := x.k.sliceLines sc src o n
  if (x.s.launch x.k.launch).strict && (x.k.badL1 src (linesOf o n) != 0
      || (lines.any (fun l => x.s.zeroed src (l * 128) 128) && x.s.zeroed src o n)) then
    .dataErr (lines.map fun l => (src, l)) ((linesOf o n).map fun l => (src, l)) []
  else .go

/-- The checks of a load. -/
def probeLoad (o : GFmt) (align size : Nat) (x : Ctx) : Probe := probeHandle x o.h (gOff o size x) align size .load

/-- The slice's answer to a load. -/
def answerLoad (o : GFmt) (size : Nat) (x : Ctx) : Probe :=
  let (src, p) := x.place o.h (gOff o size x)
  probeZeroed x 0 src p size

/-- A SEEPAGE answer as a trap: the line's physical address, that of its stored data on a conversion page (R311, R426). -/
def seepTrap (s : State) (src : Src) (o : Nat) (r : SeepRec) : Probe :=
  .seep (s.homeDie (src.homeAddr o)) (BitVec.ofNat 64 (backingAddr src (o / 128 * 128) / 128 * 128))
    (Config.seepDetail r.sc r.origin)

/-- Whether an earlier access of the core must perform before one of a class on some bytes: a load of the class or of the
same bytes (R293). -/
def Core.loadsBefore (k : Core) (cls : Nat) (src : Src) (o n : Nat) : Bool :=
  k.loads.any fun l => l.val.isNone && (l.cls == cls || (l.src == src && l.off < o + n && o < l.off + l.size))

/-- The checks of an acquire but for the slice's answer: those of a load (R310, R311). -/
def probeAcq (o : GFmt) (align size : Nat) (x : Ctx) : Probe :=
  let off := gOff o size x
  let (src, p) := x.place o.h off
  .first [probeHandle x o.h off align size .load, .stallIf (x.k.loadsBefore o.cls.toNat src p size) false]

/-- The slice's answer to an acquire, which comes after every other check of its bundle (R283, R310, R311). -/
def answerAcq (o : GFmt) (size : Nat) (x : Ctx) : Probe :=
  let (src, p) := x.place o.h (gOff o size x)
  match if (x.k.sliceLines o.sc src p size).isEmpty then none else x.s.seeps src p x.c with
  | some r => seepTrap x.s src p r
  | none => probeZeroed x o.sc src p size

/-- A run of bytes read at the slice with the core's own dirty bytes over them. -/
def acqBytes (s : State) (k : Core) (sc : BitVec 3) (src : Src) (o n : Nat) : List Byte :=
  (placed o (s.delivered src o n)).map fun w =>
    ((if sc == 0 then k.ownByte src w.1 else k.dirtyByte src w.1)).getD w.2

/-- An acquire: at CLUSTER scope or wider the L1's clean bytes go first, then the bytes are taken at the slice; the answer
comes before anything of the bundle (R255, R296, R311). -/
def acquireLoad (d : Dest) (o : GFmt) (size : Nat) (x : Ctx) (a : Acc) : Acc :=
  let (src, p) := x.place o.h (gOff o size x)
  let (s, k) := findL1 src (linesOf p size) a.s a.k
  let bs := acqBytes s k o.sc src p size
  let lines := k.sliceLines o.sc src p size
  let k := if o.sc == 0 then k else k.dropClean
  let (f, s) := s.fresh
  let (s, k) := readLines k.launch src f lines s k
  { a with s, k := { k with loads := k.loads ++
      [{ dest := d, src, off := p, size, cls := o.cls.toNat, acq := true, sc := o.sc.toNat, val := some bs
         due := a.s.now + hitCycles size, region := a.k.region, seq := a.k.seq }] } }

/-- LDG.ACQ. -/
def effLdgAcq (o : GFmt) (x : Ctx) (a : Acc) : Acc := acquireLoad (x.destX (regLow o.reg)) o 8 x a
/-- LDGR.ACQ. -/
def effLdgrAcq (o : GFmt) (x : Ctx) (a : Acc) : Acc := acquireLoad (x.destRow (regHigh o.reg) (regLow o.reg)) o 128 x a

/-- Whether an earlier load on its way must take its value first (R293). -/
def LoadPend.waitsFor (l e : LoadPend) : Bool :=
  e.val.isNone && (e.cls == l.cls || (e.src == l.src && e.off < l.off + l.size && l.off < e.off + e.size))

/-- A global load's data returns (R253, R279), once it is due and the loads it follows have their values. -/
def globalLoadReturn (c i : Nat) (s : State) : State :=
  let k := s.core c
  match k.loads[i]? with
  | none => s
  | some l =>
    if l.due ≤ s.now && (k.loads.take i).all fun e => !l.waitsFor e then
      let (bs, s, k) := l.take s k
      let rows := rowsOfBytes (l.size / 128 + 1) bs
      let k := { k with loads := removeAt k.loads i }
      let k := match l.dest with
        | .scale n =>
          let drop := fun (r : Regs) => { r with kpend := r.kpend.filter fun p => p.k != n || l.seq ≤ p.seq }
          k.landRegs l.region drop
        | _ => k
      s.setCore c (k.landAt l.region l.dest rows)
    else s

/-! Stores (R277). -/

/-- A store of a run of bytes gated. -/
def globalStore (o : GFmt) (size : Nat) (rel : Bool) (bs : List Byte) (x : Ctx) (a : Acc) : Acc :=
  let (src, p) := x.place o.h (gOff o size x)
  a.gate [.store src (placed p bs) o.cls.toNat o.sc.toNat rel]

/-- STG. -/
def effStg (o : GFmt) (x : Ctx) (a : Acc) : Acc := globalStore o 8 false (bytesOf 8 (x.rd (regLow o.reg))) x a
/-- STG.REL. -/
def effStgRel (o : GFmt) (x : Ctx) (a : Acc) : Acc := globalStore o 8 true (bytesOf 8 (x.rd (regLow o.reg))) x a
/-- STGR. -/
def effStgr (o : GFmt) (x : Ctx) (a : Acc) : Acc :=
  globalStore o 128 false (rowBytes (x.row (regHigh o.reg) (regLow o.reg))) x a
/-- STGR.REL. -/
def effStgrRel (o : GFmt) (x : Ctx) (a : Acc) : Acc :=
  globalStore o 128 true (rowBytes (x.row (regHigh o.reg) (regLow o.reg))) x a
/-- STGT: 32 row stores. -/
def effStgt (o : GFmt) (x : Ctx) (a : Acc) : Acc :=
  let (src, p) := x.place o.h (gOff o 4096 x)
  a.gate ((numbered 0 (x.rows (regHigh o.reg))).map fun r =>
    .store src (placed (p + 128 * r.1) (rowBytes r.2)) o.cls.toNat o.sc.toNat false)

/-- The checks of a store. -/
def probeStore (o : GFmt) (align size : Nat) (x : Ctx) : Probe := probeHandle x o.h (gOff o size x) align size .store

/-- A committed global store, or a write-down, reaches the cache slice of its home die (R290). -/
def storeReachesPoc (c i : Nat) (s : State) : State :=
  match (s.core c).outq[i]? with
  | some ⟨_, _, .store _ _ _ _ _⟩ => performAt c i s
  | _ => s

/-! Atomics (R280 to R283). -/

/-- The bytes of an atomic's operand. -/
def atomBytes (o : AFmt) : Nat := (fmtOf o.ty).width / 8
/-- The offset of an atomic within its page. -/
def atomOff (o : AFmt) (x : Ctx) : Nat := ((x.rd o.ro).toNat + o.off.toNat * atomBytes o) % 2 ^ 64

/-- Whether a write of the core that is on its way must perform before an atomic: one of its class, or of its line (R282,
R288, R293). -/
def Core.storesBefore (k : Core) (cls : Nat) (src : Src) (line : Nat) : Bool :=
  k.outq.any (fun e => match e.eff with
    | .store sr ws c _ rel => c == cls || c == 16 || rel || (sr == src && ws.any fun w => w.1 / 128 == line)
    | .sp _ _ | .spclr _ _ | .spfill _ _ => cls == 0
    | _ => false)
  || (cls == 0 && (!k.sends.isEmpty || k.mout.any fun m => m.lines.isSome))

/-- The checks and waits of an atomic. -/
def probeAtom (o : AFmt) (x : Ctx) : Probe :=
  let n := atomBytes o
  let (src, p) := x.place o.h (atomOff o x)
  .first [probeHandle x o.h (atomOff o x) n n .atomic,
    .stallIf (x.k.loadsBefore o.cls.toNat src p n || x.k.storesBefore o.cls.toNat src (p / 128)) false]

/-- The slice's answer to an atomic, which comes after every other check of its bundle (R283, R310, R311). -/
def answerAtom (o : AFmt) (x : Ctx) : Probe :=
  let (src, p) := x.place o.h (atomOff o x)
  match x.s.seeps src p x.c with
  | some r => seepTrap x.s src p r
  | none => .go

/-- The write-downs that precede the sending of an atomic: its line (R282), and the dirty lines of its class, whose stores come
before it (R293). -/
def atomDown (o : AFmt) (x : Ctx) (k : Core) : Core :=
  let (src, p) := x.place o.h (atomOff o x)
  k.queueDown k.seq fun e => e.cls.getLsbD o.cls.toNat || (e.src == src && e.line == p / 128)

/-- An atomic applied at the atomic unit: `f` gives the new operand and its flags from the old one, `raises` says whether it can
raise any. A load of its own bundle that it follows takes its value first, and for one of class 0 a MOUTS of its own bundle
reaches its lines (R41, R293). DEDUCED, log 40. -/
def atomicWith (raises : Bool) (o : AFmt) (f : Nat → Nat × BitVec 5) (x : Ctx) (a : Acc) : Acc :=
  let n := atomBytes o
  let (src, p) := x.place o.h (atomOff o x)
  let a := a.settleLoads fun l => l.cls == o.cls.toNat || (l.src == src && l.off < p + n && p < l.off + l.size)
  let a := if o.cls == 0 then a.landOwnLines x else a
  let old := natOfBytes (a.s.delivered src p n)
  let (new, fl) := f old
  let s := a.s.foundBy x.k.launch src p n
  let s := (s.deliverTo src (placed p (bytesOf n (BitVec.ofNat 64 new)))).setSeep src p o.sc.toNat x.c
  let k := { a.k with l1 := a.k.l1.filter fun e => !(e.src == src && e.line == p / 128) }
  ({ a with s, k, mark := true } : Acc).put (.atomic raises) (x.destX o.rd) [(intScalar (fmtOf o.ty) old).zeroExtend 1024] fl 6

/-- An atomic on integers, which raises no flag. DEDUCED, log 40. -/
def atomic (o : AFmt) (f : Nat → Nat × BitVec 5) (x : Ctx) (a : Acc) : Acc := atomicWith false o f x a

/-- An atomic's operand: the low bits of a scalar. -/
def Ctx.low (x : Ctx) (o : AFmt) (n : BitVec 5) : Nat := (x.rd n).toNat % 2 ^ (8 * atomBytes o)
/-- Whether one operand is less than another, by TY. -/
def atomLess (o : AFmt) (p q : Nat) : Bool :=
  match fmtOf o.ty with
  | .int s w => intOf s w p < intOf s w q
  | .flt _ => false

/-- AADD. -/
def effAadd (o : AFmt) (x : Ctx) (a : Acc) : Acc :=
  atomic o (fun m => ((m + x.low o o.rb) % 2 ^ (8 * atomBytes o), 0)) x a
/-- AMIN. -/
def effAmin (o : AFmt) (x : Ctx) (a : Acc) : Acc :=
  atomic o (fun m => (if atomLess o (x.low o o.rb) m then x.low o o.rb else m, 0)) x a
/-- AMAX. -/
def effAmax (o : AFmt) (x : Ctx) (a : Acc) : Acc :=
  atomic o (fun m => (if atomLess o m (x.low o o.rb) then x.low o o.rb else m, 0)) x a
/-- AAND. -/
def effAand (o : AFmt) (x : Ctx) (a : Acc) : Acc := atomic o (fun m => (m &&& x.low o o.rb, 0)) x a
/-- AOR. -/
def effAor (o : AFmt) (x : Ctx) (a : Acc) : Acc := atomic o (fun m => (m ||| x.low o o.rb, 0)) x a
/-- AXOR. -/
def effAxor (o : AFmt) (x : Ctx) (a : Acc) : Acc := atomic o (fun m => (m ^^^ x.low o o.rb, 0)) x a
/-- AXCHG. -/
def effAxchg (o : AFmt) (x : Ctx) (a : Acc) : Acc := atomic o (fun _ => (x.low o o.rb, 0)) x a
/-- ACAS. -/
def effAcas (o : AFmt) (x : Ctx) (a : Acc) : Acc :=
  atomic o (fun m => (if m == x.low o o.rc then x.low o o.rb else m, 0)) x a
/-- AFADD: RNE, whatever RMODE holds (R281). -/
def effAfadd (o : AFmt) (x : Ctx) (a : Acc) : Acc :=
  atomicWith true o (fun m =>
    let (v, fl) := xadd .rne (fp32.value m) (fp32.value (x.low o o.rb))
    let (b, fl') := roundWith v (.flt fp32) .rne false 0
    (b, fl ||| fl')) x a

/-! The sampler path (R284 to R287). -/

/-- The lines a sampler cache holds. -/
def samplerRoom : Nat := 2048

/-- A 16.16 coordinate: its floor and its fraction in units of 2^-16 (R285, R286). -/
def coord (v : W64) : Int × Nat :=
  let i := toSigned 32 (v.toNat % 2 ^ 32)
  (i / 65536, (i % 65536).toNat)

/-- An index mapped into an axis of size `n` (R286). -/
def mapIndex (wrap : Bool) (n : Nat) (i : Int) : Nat :=
  if wrap then (i % (n : Int)).toNat else (max 0 (min i (n - 1))).toNat

/-- The channel vectors that a sample reads, as (t, h, w) (R286). -/
def sampleAt (o : QFmt) (d : FieldDesc) (x : Ctx) : List (Nat × Nat × Nat) :=
  let ax := fun (v : W64) (n : Nat) (k : Nat) => mapIndex (o.amode == 1) n ((coord v).1 + k)
  let one := fun (p q r : Nat) => (ax (x.rd o.sz) d.t p, ax (x.rd o.sy) d.h q, ax (x.rd o.sx) d.w r)
  if o.filt == 0 then [one 0 0 0]
  else [one 0 0 0, one 0 0 1, one 0 1 0, one 0 1 1, one 1 0 0, one 1 0 1, one 1 1 0, one 1 1 1]

/-- The channel group of a sample. -/
def sampleGroup (o : QFmt) (x : Ctx) : Nat := (x.rd o.sx).toNat / 2 ^ 32 % 65536

/-- The channels of a sample's group (R286): bytes for nearest, 32 channels for trilinear. -/
def sampleBytes (o : QFmt) (d : FieldDesc) (x : Ctx) : Nat × Nat :=
  let g := sampleGroup o x
  let per := if o.filt == 0 then 128 else 32 * d.es
  let total := d.c * d.es
  (g * per, min per (total - g * per))

/-- The virtual addresses of the bytes a sample reads of one channel vector. -/
def vectorVas (o : QFmt) (d : FieldDesc) (own : Nat) (x : Ctx) (p : Nat × Nat × Nat) : List Nat :=
  let (lo, n) := sampleBytes o d x
  (List.range n).map fun i => d.addr p.1 p.2.1 p.2.2 0 own + lo + i

/-- An address looked up for a core's sampler, in its cluster's copy-engine TLB, which a walk fills (R249, R284). -/
def Ctx.sampLook (x : Ctx) (va : Nat) : Lookup :=
  x.s.copyLook (coreCluster x.c) (corePkg x.c) (x.s.space x.c).1 (x.s.space x.c).2 va

/-- The translation of an address for a core's sampler. -/
def Ctx.sampXlate (x : Ctx) (va : Nat) : Option Xlation :=
  match x.sampLook va with
  | .hit e => some e
  | _ => none

/-- The group index of the core's die, 0 outside the group. -/
def Ctx.own (x : Ctx) (d : FieldDesc) : Nat := (d.indexOf (coreDie x.c)).getD 0

/-- Whether a descriptor cannot be sampled (R285). -/
def smpBad (o : QFmt) (d : FieldDesc) : Bool :=
  d.layout == 2 || d.unset || (o.filt == 1 && !(d.fmt == 0x08 || d.fmt == 0x0A || d.fmt == 0x09))

/-- The virtual addresses that a sample reads, by channel vector. -/
def smpVas (o : QFmt) (x : Ctx) : List (List Nat) :=
  let d := x.s.desc x.c o.fd.toNat
  if smpBad o d then [] else (sampleAt o d x).map (vectorVas o d (x.own d) x)

/-- The lines that a sample reads. -/
def smpPlaces (o : QFmt) (x : Ctx) : List (Src × Nat) :=
  (smpVas o x).flatten.filterMap fun v => (x.sampXlate v).map fun e =>
    let (src, p) := e.at (v - e.base)
    (src, p / 128)

/-- The first address of several whose translation a test picks, with the descriptor, as a trap's words.
DESIGN CHOICE, log 58. -/
def smpTrap (o : QFmt) (x : Ctx) (t : W64 → W64 → Probe) (vas : List Nat) (pick : Lookup → Bool) : Probe :=
  match vas.find? fun v => pick (x.sampLook v) with
  | some v => t (BitVec.ofNat 64 v) (o.fd.zeroExtend 64)
  | none => .go

/-- The lines of a sample that the sampler cache does not hold and whose data a slice would replace by zeros. -/
def smpZeroed (o : QFmt) (x : Ctx) : List (Src × Nat) :=
  (smpPlaces o x).filter fun p => x.s.zeroed p.1 (p.2 * 128) 128
    && !(x.s.cluster (coreCluster x.c)).samp.any fun l => l.src == p.1 && l.line == p.2 && !l.bad

/-- The checks of LDSMP (R285), and its waits for an invalidation to end (R306) and for the walks of its misses (R250). The words
of its trap records, and PAGE_FAULT before PERM_FAULT: DESIGN CHOICE, log 58. -/
def probeSmp (o : QFmt) (x : Ctx) : Probe :=
  let d := x.s.desc x.c o.fd.toNat
  let vas := (smpVas o x).flatten
  .first [.stallIf (x.s.now < (x.s.cluster (coreCluster x.c)).sampTo) false,
    .trapIf (smpBad o d) .permFault (BitVec.ofNat 64 d.base) (o.fd.zeroExtend 64),
    .stallIf (vas.any fun v => match x.sampLook v with
      | .miss => true
      | _ => false) false,
    smpTrap o x .smpFault vas fun r => match r with
      | .hit _ => false
      | _ => true,
    smpTrap o x (.trap .permFault) vas fun r => match r with
      | .hit e => !leafR e.leaf
      | _ => false]

/-- The slices' answer to LDSMP (R425). -/
def answerSmp (o : QFmt) (x : Ctx) : Probe :=
  if (x.s.launch x.k.launch).strict && !(smpZeroed o x).isEmpty then .dataErr (smpZeroed o x) [] [] else .go

/-- The misses of LDSMP join the walker queue of the core's die (R249, R250). -/
def smpWalks (o : QFmt) (x : Ctx) (s : State) : State :=
  let vas := (smpVas o x).flatten.filter fun v => match x.sampLook v with
    | .miss => true
    | _ => false
  let (space, root) := x.s.space x.c
  (nubNat (vas.map fun v => v / 65536)).foldl (fun s p =>
    s.queueWalk (coreDie x.c) space root (BitVec.ofNat 64 (p * 65536)) (.copy (coreCluster x.c))) s

/-- A line read through the sampler cache: a held line is the value it was filled with or the slice's now, a free choice;
the line read is held from then on (R287). A held line is not read again where the slice's data is in error; one that holds an
error itself is dropped and fetched again (R450). DESIGN CHOICE, log 21. -/
def sampLine (l : Nat) (src : Src) (line : Nat) (cl : Nat) (s : State) : Row × State :=
  let q := s.cluster cl
  let now := rowOfBytes (s.delivered src (line * 128) 128)
  let same := fun (l : SampLine) => l.src == src && l.line == line
  match q.samp.find? fun l => same l && !l.bad with
  | some old =>
    let (f, s) := s.fresh
    if Config.staleSample f || s.zeroed src (line * 128) 128 then (old.data, s)
    else (now, (s.readLine l src line).setCluster cl { q with
      samp := q.samp.map fun l => if same l then { l with data := now } else l })
  | none =>
    let others := q.samp.filter fun l => !same l
    let kept := if others.length < samplerRoom then others else others.drop 1
    (now, (s.readLine l src line).setCluster cl { q with samp := kept ++ [{ src, line, data := now }] })

/-- The lines of several places read by a launch, each once. DESIGN CHOICE, log 21. -/
def sampLines (l cl : Nat) : List (Src × Nat) → State → List ((Src × Nat) × Row) × State
  | [], s => ([], s)
  | p :: ps, s =>
    let (rest, s') := sampLines l cl ps s
    if rest.any (fun r => r.1 == p) then (rest, s')
    else
      let (row, s'') := sampLine l p.1 p.2 cl s'
      ((p, row) :: rest, s'')

/-- `lerp` (R286). -/
def lerp (a b f : XVal) : XVal := rnAdd a (rnMul f (rnAdd b a.neg))

/-- Eight neighbours combined: four W lerps, two H lerps, the T lerp (R286). -/
def trilerp (fw fh ft : XVal) : List XVal → XVal
  | [a, b, c, d, e, f, g, h] =>
    lerp (lerp (lerp a b fw) (lerp c d fw) fh) (lerp (lerp e f fw) (lerp g h fw) fh) ft
  | _ => .nan

/-- The bytes of one channel vector's group, from lines read. -/
def vectorBytes (x : Ctx) (lines : List ((Src × Nat) × Row)) (vas : List Nat) : List Byte :=
  vas.map fun v =>
    match x.sampXlate v with
    | none => 0
    | some e =>
      let (src, p) := e.at (v - e.base)
      match lines.find? fun l => l.1 == (src, p / 128) with
      | some l => l.2.extractLsb' (8 * (p % 128)) 8
      | none => 0

/-- What walks have given for the addresses of a sample, no longer kept: it has been made (R250). -/
def smpDone (o : QFmt) (x : Ctx) (s : State) : State :=
  let cl := coreCluster x.c
  let q := s.cluster cl
  if q.got.isEmpty then s else s.setCluster cl { q with got := dropGot (x.s.space x.c).1 (smpVas o x).flatten q.got }

/-- LDSMP (R285, R286). DEDUCED, log 40. -/
def effLdsmp (o : QFmt) (x : Ctx) (a : Acc) : Acc :=
  let cl := coreCluster x.c
  let d := x.s.desc x.c o.fd.toNat
  let vs := smpVas o x
  let (lines, s) := sampLines x.k.launch cl (smpPlaces o x) a.s
  let bytes := vs.map (vectorBytes x lines)
  let row :=
    if o.filt == 0 then rowOfBytes (bytes.headD [])
    else
      let w := 8 * d.es
      let frac := fun (v : W64) => XVal.mk false (coord v).2 (-16)
      let vals := bytes.map fun bs => (natOfBytes bs, bs.length / d.es)
      rowOf (mapRow 32 32 fun i =>
        if (vals.headD (0, 0)).2 ≤ i then 0
        else encodeExact fp32 (trilerp (frac (x.rd o.sx)) (frac (x.rd o.sy)) (frac (x.rd o.sz))
          (vals.map fun v => (fmtOf d.fmt).value (elem w v.1 i))))
  ({ a with s := smpDone o x s } : Acc).put .sample (x.destRow o.td o.rowd) [row] 0 (if o.filt == 0 then 24 else 32)

end Sys2Proof.Machine
end

