-- ==== Sys2Proof/Machine/Cross.lean ====
section
/-! DEFINITION. The X slot's engine pushes and reads (R313 to R323, R349, R378, R391, R396), and the issue of OVL (R418). -/

namespace Sys2Proof.Machine

/-! Pushes (R314). -/

/-- The elements and the reserved slots of a core's result queue. -/
def Core.results (k : Core) (q : Nat) : Nat := (k.elems.get [] q).length + k.resv.get 0 q

/-- The scratchpad address of a command line. -/
def lineAddr (o : XCmd) (x : Ctx) : Nat := (x.rd o.ra).toNat

/-- The checks and waits of a push: an entry and, with RES, a result slot, then its line's address (R314). -/
def probePush (q : Nat) (o : XCmd) (x : Ctx) : Probe :=
  .first [.stallIf (x.s.roomIn q (pushTarget x.c q) x.k.launch == 0 || (o.fn.getLsbD 0 && 16 ≤ x.k.results q)) true,
    .trapIf (!spOk (lineAddr o x) 128 128) .misalign (x.rd o.ra),
    .stallIf (x.k.linesBusy (lineAddr o x) 128) false]

/-- A push: the entry and the result slot reserved, the line and the operand taken, the push gated (R314). -/
def push (q : Nat) (kind : Option Nat) (o : XCmd) (x : Ctx) (a : Acc) : Acc :=
  let line := a.spView x (lineAddr o x)
  let res := o.fn.getLsbD 0
  let p : Push :=
    { q, core := x.c, lid := x.k.launch, kind := kind.getD (elem 8 line.toNat 0), line, opnd := x.rd o.rb
      mask := o.mask, sc := o.sc.toNat, res, scout := x.k.regs.scout.toNat }
  let t := pushTarget x.c q
  let s := a.s.setEngq t ((a.s.engq t).reserve x.k.launch true)
  let k := if res then { a.k with resv := a.k.resv.put q (a.k.resv.get 0 q + 1) } else a.k
  ({ a with s, k } : Acc).gate [.push p]

/-- EPUSH: KIND is byte 0 of the line (R321). -/
def effEpush (o : XCmd) (x : Ctx) (a : Acc) : Acc := push o.q.toNat none o x a
/-- CPY. -/
def effCpy (o : XCmd) (x : Ctx) (a : Acc) : Acc := push 0 (some 0x01) o x a
/-- CPYT. -/
def effCpyt (o : XCmd) (x : Ctx) (a : Acc) : Acc := push 0 (some 0x02) o x a
/-- CPYF. -/
def effCpyf (o : XCmd) (x : Ctx) (a : Acc) : Acc := push 0 (some 0x03) o x a
/-- CPYH. -/
def effCpyh (o : XCmd) (x : Ctx) (a : Acc) : Acc := push 0 (some 0x04) o x a
/-- BXCH. -/
def effBxch (o : XCmd) (x : Ctx) (a : Acc) : Acc := push 1 (some 0x10) o x a
/-- ALLRED. -/
def effAllred (o : XCmd) (x : Ctx) (a : Acc) : Acc := push 2 (some 0x20) o x a
/-- RSCAT. -/
def effRscat (o : XCmd) (x : Ctx) (a : Acc) : Acc := push 2 (some 0x21) o x a
/-- AGATH. -/
def effAgath (o : XCmd) (x : Ctx) (a : Acc) : Acc := push 2 (some 0x22) o x a
/-- BCAST. -/
def effBcast (o : XCmd) (x : Ctx) (a : Acc) : Acc := push 2 (some 0x23) o x a
/-- ALLTOALL. -/
def effAlltoall (o : XCmd) (x : Ctx) (a : Acc) : Acc := push 2 (some 0x24) o x a
/-- RESHARD. -/
def effReshard (o : XCmd) (x : Ctx) (a : Acc) : Acc := push 2 (some 0x28) o x a
/-- PLQ. -/
def effPlq (o : XCmd) (x : Ctx) (a : Acc) : Acc := push o.q.toNat (some 0x30) o x a

/-! Reads (R322, R323, R378, R396). -/

/-- EPOP: the oldest element, an acquire; zero where there is none and none is to come (R255, R322). DEDUCED, log 40. -/
def effEpop (o : XPop) (x : Ctx) (a : Acc) : Acc :=
  let q := o.q.toNat
  match a.k.elems.get [] q with
  | [] => a.putX x o.rd 0 1
  | v :: vs =>
    ({ a with mark := true, k := { a.k.dropClean with elems := a.k.elems.put q vs } } : Acc).putX x o.rd v 1

/-- EPOP waits for an element of a reserved slot unless NB is set. -/
def probeEpop (o : XPop) (x : Ctx) : Probe :=
  let q := o.q.toNat
  .stallIf ((x.k.elems.get [] q).isEmpty && !o.fn.getLsbD 0 && x.k.resv.get 0 q != 0) true

/-- EQSTAT (R323). -/
def effEqstat (o : XPop) (x : Ctx) (a : Acc) : Acc :=
  let q := o.q.toNat
  let free := x.s.roomIn q (pushTarget x.c q) x.k.launch
  let tb := if q == 0 then 64 - (x.s.cluster (coreCluster x.c)).tbuf.length else 0
  a.putX x o.rd (BitVec.ofNat 64
    (tb * 2 ^ 48 + x.k.resv.get 0 q * 2 ^ 32 + (x.k.elems.get [] q).length * 2 ^ 16 + free)) 1

/-- CSTAT of a descriptor (R378). -/
def effCstatReshard (o : XPop) (x : Ctx) (a : Acc) : Acc :=
  let l := x.s.launch x.k.launch
  let n := o.q.toNat % 16
  a.putX x o.rd (BitVec.ofNat 64
    ((l.rseq.read n).toNat * 2 ^ 32 + (l.rretry.read n).toNat * 2 ^ 16 + (l.rstate.read n).toNat)) 1

/-- CSTAT of the links (R378). -/
def effCstatLinks (o : XPop) (x : Ctx) (a : Acc) : Acc :=
  let l := x.s.launch x.k.launch
  let f := coreDie x.c
  a.putX x o.rd (BitVec.ofNat 64
    (x.s.lgen.toNat * 2 ^ 32 + (l.recov.read f).toNat * 2 ^ 16 + x.s.sluiceUsed f x.k.launch * 2 ^ 8)) 1

/-- The number of a word of a completion record: engine, launch slot, word (R393). -/
def recNo (mdie slot w : Nat) : Nat := (mdie * 16 + slot) * 4 + w

/-- PLRES (R396). -/
def effPlres (o : XPop) (x : Ctx) (a : Acc) : Acc :=
  let m := corePkg x.c * 8 + o.q.toNat % 8
  a.putX x o.rd ((x.s.launch x.k.launch).prec.read (recNo m o.fn.toNat (o.q.toNat / 16))) 1

/-! OVL (R418). -/

/-- The address of a stream. -/
def ovlVa (o : XOvl) (x : Ctx) : W64 := (x.k.regs.handle o.h.toNat).va + x.rd o.ra

/-- The checks and waits of OVL. -/
def probeOvl (o : XOvl) (x : Ctx) : Probe :=
  let st := (x.k.regs.handle o.h.toNat).state
  .first [.trapIf (st == .invalid) .handleInvalid,
    .stallIf (st == .pending) (!x.s.awaitsXlat x.c o.h.toNat),
    .trapIf ((ovlVa o x).toNat % 8 != 0) .misalign (ovlVa o x) (o.h.zeroExtend 64),
    .trapIf (o.half.getLsbD 0 == x.pc.getLsbD 12) .ispmRange]

/-- OVL: the load is put on its way; its destination is busy until it ends. -/
def effOvl (o : XOvl) (x : Ctx) (a : Acc) : Acc :=
  let rd := if x.dropX || o.rd == 0 then 0 else physScalar x.k.regs.rrb o.rd
  { a with mark := true, k := { a.k with ovls := a.k.ovls ++ [⟨o.half.getLsbD 0, rd, ovlVa o x, 0, a.k.seq⟩] } }

end Sys2Proof.Machine
end

