-- ==== Sys2Proof/Machine/Issue.lean ====
section
/-! DEFINITION. The issue of a bundle (R28 to R34, R41 to R45, R57 to R62, R454), taking a trap (R13, R274, R424 to R427),
and the steps at which a core's results land. -/

namespace Sys2Proof.Machine

/-! One slot: its checks and waits, its effect, what it puts into the gated buffer, how its held word advances. -/

/-- Whether FENCE.C still waits at its scope (R304): at CORE scope a store has performed once it is in the L1. -/
def fenceWaits (k : Core) (mask : BitVec 16) (sc : BitVec 3) : Bool :=
  if sc == 0 then
    k.loads.any (fun l => mask.getLsbD l.cls) || (mask.getLsbD 0 && (!k.mout.isEmpty || !k.sends.isEmpty
      || k.outq.any fun o => match o.eff with
        | .sp _ _ | .spclr _ _ | .spfill _ _ => true
        | _ => false))
  else classPending k mask

/-- Whether a scratchpad effect of the core has not reached its bank (R307). -/
def bankWaits (k : Core) : Bool :=
  k.mout.any (fun m => m.lines.isSome) || k.outq.any fun o => match o.eff with
    | .sp _ _ | .spclr _ _ | .spfill _ _ => true
    | _ => false

/-- Whether a store of the core has not performed: a global or a scratchpad store, a SEND row, the lines of a MOUTS (R288,
R306). -/
def storeWaits (k : Core) : Bool :=
  !k.sends.isEmpty || k.mout.any (fun m => m.lines.isSome) || k.outq.any fun o => match o.eff with
    | .store _ _ _ _ _ | .sp _ _ => true
    | _ => false

/-- Whether a change of TBANK must wait for an access to a bank it changes (R149). -/
def bankBusy (k : Core) (v : BitVec 16) : Bool :=
  !tbankBad k v && k.busy.any fun r => match r.tileOf with
    | some t => match tileBank t with
      | some b => bankCode v b != bankCode k.tbank b
      | none => false
    | none => false

/-- The checks and waits of a slot's instruction beside its registers; `v0` is the enabled V0 instruction of the bundle,
which V1 comes after. DEDUCED, log 39. -/
def slotProbe (v0 : Option Instr) (x : Ctx) (i : Instr) : Probe :=
  match i with
  | .brr o =>
    let t := x.rd o.ra
    .trapIf (t.toNat / 2 ^ 13 != 0 || t.getLsbD 12 != x.pc.getLsbD 12) .ispmRange
  | .trap o => .trap .trap (o.imm.zeroExtend 64) 0
  | .mfcr o => .stallIf (o.cr == 0x011 && x.k.flagsPending) false
  | .mtcr o => .stallIf (o.cr == 0x040 && bankBusy x.k ((x.rd o.ra).truncate 16)) false
  | .ifence => .stallIf (!x.k.ovls.isEmpty) false
  | .brswap _ => .stallIf (x.k.ovls.any fun o => o.half != x.pc.getLsbD 12) false
  | .fenceC o => .stallIf (fenceWaits x.k o.mask o.sc) false
  | .fenceSc o => .stallIf (fenceWaits x.k 0xFFFF o.sc || anythingPending x.k) false
  | .spfence => .stallIf (bankWaits x.k) false
  | .fenceSmp => .stallIf (storeWaits x.k) false
  | .pmov o => probePmov o ((x.k.regs.port o.port.toNat).after o.port.toNat v0)
  | .ptake o => probePtake ((x.k.regs.port o.port.toNat).after o.port.toNat v0)
  | .mma o | .mmaz o => probeMac o x
  | .mouts o => probeMouts o x
  | .rset o => probeRset o x
  | .rpush o => probeRpush o x
  | .rpop o => probeRpop o x
  | .rget o => probeRget o x
  | .ldsc o => probeLdsc o x
  | .lds o => probeSpLoad o 8 8 x
  | .ldsr o => probeSpLoad o 128 128 x
  | .ldst o => probeSpLoad o 128 4096 x
  | .sts o => probeSpStore o 8 8 x
  | .stsr o => probeSpStore o 128 128 x
  | .stst o => probeSpStore o 128 4096 x
  | .spclr o | .spfill o => probeFill o x
  | .ldg o => probeLoad o 8 8 x
  | .ldgr o => probeLoad o 128 128 x
  | .ldgt o => probeLoad o 128 4096 x
  | .ldscg o => probeLoad o 256 256 x
  | .ldgAcq o => probeAcq o 8 8 x
  | .ldgrAcq o => probeAcq o 128 128 x
  | .stg o | .stgRel o => probeStore o 8 8 x
  | .stgr o | .stgrRel o => probeStore o 128 128 x
  | .stgt o => probeStore o 128 4096 x
  | .aadd o | .amin o | .amax o | .aand o | .aor o | .axor o | .axchg o | .acas o | .afadd o => probeAtom o x
  | .ldsmp o => probeSmp o x
  | .send o => probeP2p o x
  | .recv o | .recvadd o => probeRecv o x
  | .semset o | .semwait o => probeSem o x
  | .epush o => probePush o.q.toNat o x
  | .cpy o | .cpyt o | .cpyf o | .cpyh o => probePush 0 o x
  | .bxch o => probePush 1 o x
  | .allred o | .rscat o | .agath o | .bcast o | .alltoall o | .reshard o => probePush 2 o x
  | .plq o => probePush o.q.toNat o x
  | .epop o => probeEpop o x
  | .ovl o => probeOvl o x
  | _ => .go

/-- The scratchpad lines that a slot's instruction reads at their banks: of an MMA those of the operand tiles that the operand
cache does not hold. -/
def spReads (x : Ctx) (i : Instr) : List Nat :=
  let tile := fun (n : Nat) =>
    let r := x.k.ring n
    if x.k.opc.any fun e => e.ring == n && e.gen == r.gen && e.slot == r.head && !e.bad then []
    else linesOf (r.slotAddr r.head) 4096
  match i with
  | .lds o => linesOf (spAddr o x) 8
  | .ldsr o => linesOf (spAddr o x) 128
  | .ldst o | .ldsc o => linesOf (spAddr o x) 4096
  | .recv o | .recvadd o => [lineKey (recvAddr o x)]
  | .mma o | .mmaz o => tile o.rga.toNat ++ tile o.rgb.toNat
  | .epush o | .cpy o | .cpyt o | .cpyf o | .cpyh o | .bxch o | .allred o | .rscat o | .agath o | .bcast o
  | .alltoall o | .reshard o | .plq o => [lineKey (lineAddr o x)]
  | _ => []

/-- The errors of scratchpad lines that the reads of a bundle find: the lines are replaced by zeros and counted in the launch's
record (R416, R450, R451). DESIGN CHOICE, log 42. -/
def meetReads (c : Nat) (ls : List Nat) (s : State) : State :=
  let q := s.cluster (coreCluster c)
  if q.badLines ls == 0 then s
  else (s.addZeroed (s.core c).launch (q.badLines ls)).setCluster (coreCluster c) (q.meetSp ls)

/-- A load from scratchpad, in a strict launch, of a line that holds an uncorrectable error (R425, R450). -/
def answerSp (x : Ctx) (i : Instr) : Probe :=
  let ls := spReads x i
  if (x.s.launch x.k.launch).strict && (x.s.cluster (coreCluster x.c)).badLines ls != 0 then .dataErr [] [] ls else .go

/-- The answer of a slot's access, which comes once its checks have passed (R311): replaced data of a load in a strict launch,
seepage of an acquire or an atomic. -/
def slotAnswer (x : Ctx) (i : Instr) : Probe :=
  match i with
  | .lds _ | .ldsr _ | .ldst _ | .ldsc _ | .recv _ | .recvadd _ => answerSp x i
  | .ldg o => answerLoad o 8 x
  | .ldgr o => answerLoad o 128 x
  | .ldgt o => answerLoad o 4096 x
  | .ldscg o => answerLoad o 256 x
  | .ldgAcq o => answerAcq o 8 x
  | .ldgrAcq o => answerAcq o 128 x
  | .aadd o | .amin o | .amax o | .aand o | .aor o | .axor o | .axchg o | .acas o | .afadd o => answerAtom o x
  | .ldsmp o => answerSmp o x
  | _ => .go

/-- The effect of a slot's enabled instruction. -/
def slotEffect (i : Instr) (x : Ctx) (a : Acc) : Acc :=
  match i with
  | .nop _ => effNop x a
  | .add o => effAdd o x a | .sub o => effSub o x a | .mul o => effMul o x a | .mulh o => effMulh o x a
  | .div o => effDiv o x a | .rem o => effRem o x a | .addi o => effAddi o x a | .and o => effAnd o x a
  | .or o => effOr o x a | .xor o => effXor o x a | .shl o => effShl o x a | .shr o => effShr o x a
  | .sar o => effSar o x a | .andi o => effAndi o x a | .ori o => effOri o x a | .xori o => effXori o x a
  | .shli o => effShli o x a | .shri o => effShri o x a | .sari o => effSari o x a | .min o => effMin o x a
  | .max o => effMax o x a | .clz o => effClz o x a | .popc o => effPopc o x a | .movi o => effMovi o x a
  | .movhi o => effMovhi o x a | .sel o => effSel o x a | .cmp o => effCmp o x a | .cmpi o => effCmpi o x a
  | .plog o => effPlog o x a | .pget o => effPget o x a | .pset o => effPset o x a | .fadd o => effFadd o x a
  | .fsub o => effFsub o x a | .fmul o => effFmul o x a | .ffma o => effFfma o x a | .fdiv o => effFdiv o x a
  | .fsqrt o => effFsqrt o x a | .fmin o => effFmin o x a | .fmax o => effFmax o x a | .fcmp o => effFcmp o x a
  | .fcvt o => effFcvt o x a | .fcvti o => effFcvti o x a | .icvtf o => effIcvtf o x a | .br o => effBr o x a
  | .brl o => effBrl o x a | .brr o => effBrr o x a | .loop o => effLoop o x a | .loopb o => effLoopb o x a
  | .brswap o => effBrswap o x a | .ifence => effIfence x a | .xlat o => effXlat o x a | .hrel o => effHrel o x a
  | .fenceC o => effFenceC o x a | .fenceSc o => effFenceSc o x a | .spfence => effSpfence x a
  | .fenceSmp => effFenceSmp x a | .mfcr o => effMfcr o x a | .mtcr o => effMtcr o x a
  | .vadd o => effVadd o x a | .vsub o => effVsub o x a | .vmul o => effVmul o x a | .vfma o => effVfma o x a
  | .vmin o => effVmin o x a | .vmax o => effVmax o x a | .vabs o => effVabs o x a | .vneg o => effVneg o x a
  | .vclamp o => effVclamp o x a | .vmulh o => effVmulh o x a | .vadds o => effVadds o x a
  | .vsubs o => effVsubs o x a | .vmuls o => effVmuls o x a | .vfmas o => effVfmas o x a
  | .vmins o => effVmins o x a | .vmaxs o => effVmaxs o x a | .vand o => effVand o x a | .vor o => effVor o x a
  | .vxor o => effVxor o x a | .vnot o => effVnot o x a | .vshl o => effVshl o x a | .vshr o => effVshr o x a
  | .vsar o => effVsar o x a | .vpopc o => effVpopc o x a | .vcmp o => effVcmp o x a | .vsel o => effVsel o x a
  | .vmov o => effVmov o x a | .vzero o => effVzero o x a | .viota o => effViota o x a
  | .vbcast o => effVbcast o x a | .vextr o => effVextr o x a | .vins o => effVins o x a | .vcvt o => effVcvt o x a
  | .vperm o => effVperm o x a | .vrot o => effVrot o x a | .vscale o => effVscale o x a
  | .vrsum o => effVrsum o x a | .vdot o => effVdot o x a | .vrmax o => effVrmax o x a | .vrmin o => effVrmin o x a
  | .vexp2 o => effVexp2 o x a | .vlog2 o => effVlog2 o x a | .vrcp o => effVrcp o x a | .vrsq o => effVrsq o x a
  | .vtanh o => effVtanh o x a | .pmov o => effPmov o x a | .ptake o => effPtake o x a
  | .mma o => effMma o x a | .mmaz o => effMmaz o x a | .mout o => effMout o x a | .mouts o => effMouts o x a
  | .mzero o => effMzero o x a | .rset o => effRset o x a | .rpush o => effRpush o x a | .rpop o => effRpop o x a
  | .rget o => effRget o x a | .ldsc o => effLdsc o x a
  | .lds o => effLds o x a | .ldsr o => effLdsr o x a | .ldst o => effLdst o x a | .sts o => effSts o x a
  | .stsr o => effStsr o x a | .stst o => effStst o x a | .spclr o => effSpclr o x a | .spfill o => effSpfill o x a
  | .ldg o => effLdg o x a | .ldgAcq o => effLdgAcq o x a | .ldgr o => effLdgr o x a
  | .ldgrAcq o => effLdgrAcq o x a | .ldgt o => effLdgt o x a | .ldscg o => effLdscg o x a
  | .stg o => effStg o x a | .stgRel o => effStgRel o x a | .stgr o => effStgr o x a
  | .stgrRel o => effStgrRel o x a | .stgt o => effStgt o x a
  | .aadd o => effAadd o x a | .amin o => effAmin o x a | .amax o => effAmax o x a | .aand o => effAand o x a
  | .aor o => effAor o x a | .axor o => effAxor o x a | .axchg o => effAxchg o x a | .acas o => effAcas o x a
  | .afadd o => effAfadd o x a | .ldsmp o => effLdsmp o x a
  | .epush o => effEpush o x a | .epop o => effEpop o x a | .eqstat o => effEqstat o x a | .fdrd o => effFdrd o x a
  | .send o => effSend o x a | .recv o => effRecv o x a | .recvadd o => effRecvadd o x a
  | .semadd o => effSemadd o x a | .semset o => effSemset o x a | .semrd o => effSemrd o x a
  | .semwait o => effSemwait o x a | .barc _ => effBarc x a | .barg _ => effBarg x a | .ovl o => effOvl o x a
  | .cpy o => effCpy o x a | .cpyt o => effCpyt o x a | .cpyf o => effCpyf o x a | .cpyh o => effCpyh o x a
  | .bxch o => effBxch o x a | .allred o => effAllred o x a | .rscat o => effRscat o x a
  | .agath o => effAgath o x a | .bcast o => effBcast o x a | .alltoall o => effAlltoall o x a
  | .reshard o => effReshard o x a | .cstatReshard o => effCstatReshard o x a
  | .cstatLinks o => effCstatLinks o x a | .plq o => effPlq o x a | .plres o => effPlres o x a
  | _ => a

/-- The gated-buffer entries a slot's instruction takes (R271). -/
def gateNeed (i : Instr) : Nat :=
  match i with
  | .stg _ | .stgRel _ | .sts _ | .spclr _ | .spfill _ | .stgr _ | .stgrRel _ | .stsr _ => 1
  | .stgt _ | .stst _ => 32
  | .epush _ | .cpy _ | .cpyt _ | .cpyf _ | .cpyh _ | .bxch _ | .allred _ | .rscat _ | .agath _ | .bcast _
  | .alltoall _ | .reshard _ | .plq _ => 1
  | .semadd _ | .semset _ => 1
  | _ => 0

/-- Whether an instruction is an atomic. -/
def isAtomic : Instr → Bool
  | .aadd _ | .amin _ | .amax _ | .aand _ | .aor _ | .axor _ | .axchg _ | .acas _ | .afadd _ => true
  | _ => false

/-- An instruction that takes a restart mark before its bundle, whatever its predicate (R71, R141, R283). -/
def marksAlways (i : Instr) : Bool :=
  isAtomic i || match i with
    | .mtcr o => o.cr == 0x040
    | _ => false

/-- An instruction that takes a restart mark before its bundle where it is enabled: a fence or a barrier; a SEMWAIT whose
threshold is in range, a RECV or RECVADD whose address is (R229, R231, R238, R303). -/
def marksBefore (x : Ctx) (i : Instr) : Bool :=
  match i with
  | .fenceC _ | .fenceSc _ | .spfence | .fenceSmp | .barc _ | .barg _ => true
  | .semwait o => !x.k.isBusy (rx x.k.regs.rrb o.ra) && decide (semVal o x ≤ 65535)
  | .recv o | .recvadd o => !x.k.isBusy (rx x.k.regs.rrb o.ra) && probeP2p o x == .go
  | _ => false

/-- The write-down that an instruction starts before it issues (R254, R304, R306). -/
def downBefore (k : Core) (i : Instr) : Core :=
  match i with
  | .fenceC o => if o.sc == 0 then k else k.queueDown k.seq fun e => e.cls &&& o.mask != 0
  | .fenceSc o => if o.sc == 0 then k else k.queueDown k.seq fun _ => true
  | .fenceSmp => k.queueDown k.seq fun _ => true
  | .barc _ | .barg _ => k.queueDown k.seq fun _ => true
  | .rpush _ => k.queueDown k.seq fun _ => true
  | _ => k

/-- The write-down that precedes the sending of an atomic, once every check of its bundle has passed (R282, R283). -/
def downAtomic (x : Ctx) (k : Core) (i : Instr) : Core :=
  match i with
  | .aadd o | .amin o | .amax o | .aand o | .aor o | .axor o | .axchg o | .acas o | .afadd o => atomDown o x k
  | _ => k

/-- Whether an instruction writes scratchpad from the matrix unit or by a row sent: the dirty lines of class 0 are written down
before it performs (R288, R293). -/
def zeroStore : Instr → Bool
  | .mouts _ | .send _ => true
  | _ => false

/-- The cycles a fence takes once its waits are over (R305 to R307). DESIGN CHOICE, log 3. -/
def fenceTime (p : Pkg) (i : Instr) : Option Nat :=
  match i with
  | .fenceC o | .fenceSc o => some (fenceCycles p o.sc.toNat)
  | .spfence => some 4
  | .fenceSmp => some 220
  | _ => none

/-- An address field advanced: a carry out of its field makes the next issue trap (R42). -/
def advanceField {n : Nat} (v : BitVec n) (step : BitVec 3) (unit : Nat) : BitVec n × Bool :=
  let w := v.toNat + step.toNat * unit
  if 2 ^ n ≤ w then (v, true) else (BitVec.ofNat n w, false)

/-- A row field advanced modulo 32. -/
def advanceRow (r : BitVec 5) (step : BitVec 3) : BitVec 5 := r + step.zeroExtend 5

/-- ROWD, ROWA and ROWB of a V-three word that uses both sources. -/
def adv3 (o : VThree) : VThree :=
  { o with rowd := advanceRow o.rowd o.step, rowa := advanceRow o.rowa o.step, rowb := advanceRow o.rowb o.step }
/-- ROWD and ROWA of a V-three word that uses one source. -/
def adv2 (o : VThree) : VThree := { o with rowd := advanceRow o.rowd o.step, rowa := advanceRow o.rowa o.step }
/-- ROWD of a V-three word that uses no source. -/
def adv1 (o : VThree) : VThree := { o with rowd := advanceRow o.rowd o.step }
/-- ROWD and ROWA of a V-scalar word. -/
def advS (o : VScalar) : VScalar := { o with rowd := advanceRow o.rowd o.step, rowa := advanceRow o.rowa o.step }
/-- OFF of a format G word. -/
def advG (o : GFmt) : GFmt × Bool := let (v, f) := advanceField o.off o.step 1; ({ o with off := v }, f)
/-- IMM of a format P word. -/
def advP (unit : Nat) (o : PFmt) : PFmt × Bool := let (v, f) := advanceField o.imm o.step unit; ({ o with imm := v }, f)
/-- ROWA and IMM of an X-p2p word. -/
def advX (o : XP2p) : XP2p × Bool :=
  let (v, f) := advanceField o.imm o.step 128
  ({ o with imm := if f then o.imm else v, rowa := advanceRow o.rowa o.step }, f)

/-- The operation of a held word after one issue, and whether its next issue traps (R42). -/
def advanceOp (i : Instr) : Instr × Bool :=
  match i with
  | .vadd o => (.vadd (adv3 o), false) | .vsub o => (.vsub (adv3 o), false) | .vmul o => (.vmul (adv3 o), false)
  | .vfma o => (.vfma (adv3 o), false) | .vmin o => (.vmin (adv3 o), false) | .vmax o => (.vmax (adv3 o), false)
  | .vclamp o => (.vclamp (adv3 o), false) | .vmulh o => (.vmulh (adv3 o), false)
  | .vand o => (.vand (adv3 o), false) | .vor o => (.vor (adv3 o), false) | .vxor o => (.vxor (adv3 o), false)
  | .vshl o => (.vshl (adv3 o), false) | .vshr o => (.vshr (adv3 o), false) | .vsar o => (.vsar (adv3 o), false)
  | .vcmp o => (.vcmp (adv3 o), false) | .vsel o => (.vsel (adv3 o), false) | .vperm o => (.vperm (adv3 o), false)
  | .vdot o => (.vdot (adv3 o), false)
  | .vabs o => (.vabs (adv2 o), false) | .vneg o => (.vneg (adv2 o), false) | .vnot o => (.vnot (adv2 o), false)
  | .vpopc o => (.vpopc (adv2 o), false) | .vmov o => (.vmov (adv2 o), false)
  | .vrsum o => (.vrsum (adv2 o), false) | .vrmax o => (.vrmax (adv2 o), false)
  | .vrmin o => (.vrmin (adv2 o), false) | .vexp2 o => (.vexp2 (adv2 o), false)
  | .vlog2 o => (.vlog2 (adv2 o), false) | .vrcp o => (.vrcp (adv2 o), false) | .vrsq o => (.vrsq (adv2 o), false)
  | .vtanh o => (.vtanh (adv2 o), false)
  | .vzero o => (.vzero (adv1 o), false) | .viota o => (.viota (adv1 o), false)
  | .vadds o => (.vadds (advS o), false) | .vsubs o => (.vsubs (advS o), false)
  | .vmuls o => (.vmuls (advS o), false) | .vfmas o => (.vfmas (advS o), false)
  | .vmins o => (.vmins (advS o), false) | .vmaxs o => (.vmaxs (advS o), false)
  | .vrot o => (.vrot (advS o), false) | .vscale o => (.vscale (advS o), false)
  | .vbcast o => (.vbcast { o with rowd := advanceRow o.rowd o.step }, false)
  | .vins o => (.vins { o with rowd := advanceRow o.rowd o.step }, false)
  | .vextr o => (.vextr { o with rowa := advanceRow o.rowa o.step }, false)
  | .vcvt o => (.vcvt { o with rowd := advanceRow o.rowd o.step, rowa := advanceRow o.rowa o.step }, false)
  | .pmov o => (.pmov { o with rowa := advanceRow o.rowa o.step }, false)
  | .ptake o => (.ptake { o with rowd := advanceRow o.rowd o.step }, false)
  | .ldsc o => (.ldsc (advP 256 o).1, (advP 256 o).2)
  | .lds o => (.lds (advP 8 o).1, (advP 8 o).2) | .ldsr o => (.ldsr (advP 128 o).1, (advP 128 o).2)
  | .ldst o => (.ldst (advP 4096 o).1, (advP 4096 o).2)
  | .sts o => (.sts (advP 8 o).1, (advP 8 o).2) | .stsr o => (.stsr (advP 128 o).1, (advP 128 o).2)
  | .stst o => (.stst (advP 4096 o).1, (advP 4096 o).2)
  | .spclr o => (.spclr (advP 128 o).1, (advP 128 o).2) | .spfill o => (.spfill (advP 128 o).1, (advP 128 o).2)
  | .ldg o => (.ldg (advG o).1, (advG o).2) | .ldgAcq o => (.ldgAcq (advG o).1, (advG o).2)
  | .ldgr o => (.ldgr (advG o).1, (advG o).2) | .ldgrAcq o => (.ldgrAcq (advG o).1, (advG o).2)
  | .ldgt o => (.ldgt (advG o).1, (advG o).2) | .ldscg o => (.ldscg (advG o).1, (advG o).2)
  | .stg o => (.stg (advG o).1, (advG o).2) | .stgRel o => (.stgRel (advG o).1, (advG o).2)
  | .stgr o => (.stgr (advG o).1, (advG o).2) | .stgrRel o => (.stgrRel (advG o).1, (advG o).2)
  | .stgt o => (.stgt (advG o).1, (advG o).2)
  | .ldsmp o => (.ldsmp { o with rowd := advanceRow o.rowd o.step }, false)
  | .send o => (.send (advX o).1, (advX o).2) | .recv o => (.recv (advX o).1, (advX o).2)
  | .recvadd o => (.recvadd (advX o).1, (advX o).2)
  | i => (i, false)

/-- A held word after one issue. -/
def advance (w : SlotWord) : Held := { word := { w with op := (advanceOp w.op).1 }, fault := (advanceOp w.op).2 }

/-! Taking a trap (R13, R274, R424 to R426). -/

/-- Whether a trap awaits the host: the pumphouse answers the others itself (R424). -/
def Trap.toHost : Trap → Bool
  | .handleRevoked | .cowWrite | .dataError | .watchdog => false
  | _ => true

/-- STATE of a record as the trap is taken (R424, R426): 1 awaits the host; a kill leaves nothing to await. DEDUCED, log 11. -/
def Trap.state : Trap → Nat
  | .handleRevoked | .cowWrite => 0
  | .dataError | .watchdog => 2
  | _ => 1

/-- A cluster's count of SEM_OVERFLOW traps (R230). -/
def State.countSemovf (s : State) (c : Nat) : State :=
  let q := s.cluster (coreCluster c)
  s.setCluster (coreCluster c) { q with semovf := if q.semovf == 0xFFFF then q.semovf else q.semovf + 1 }

/-- What a trap adds to its launch: the count, and the kill of DATA_ERROR and WATCHDOG (R424, R425). The granules that a load
found replaced are counted as it reads them (R416, R451). -/
def noteTrap (t : Trap) (l : Launch) : Launch :=
  let l := { l with traps := l.traps + 1 }
  match t with
  | .dataError => { l with doom := l.doom <|> some (0x04, t.code) }
  | .watchdog => { l with doom := l.doom <|> some (0x03, t.code) }
  | _ => l

/-- TAKING A TRAP (R13): a page-class trap first rolls back; the core halts, the record is written, the pumphouse told. A
barrier that has released stays released for a bundle that traps after it: the bundle issues again with no second arrival and
no second test of its header wait. DESIGN CHOICE, log 47. DEDUCED, log 11. DEDUCED, log 43. -/
def takeTrap (c : Nat) (slot : Nat) (t : Trap) (w1 w2 : W64) (s : State) : State :=
  let s := if t.pageClass then rollback c s else s
  let k := s.core c
  let k := { k with
    run := .trapped, loopBuf := none, hold := none, waiting := [], granted := none, arrC := false, arrG := false
    trap := { state := t.state, pc := k.pc, rb := t.pageClass, slot, code := t.code, w1, w2 } }
  let s := (s.setCore c k).setLaunch k.launch (noteTrap t (s.launch k.launch))
  if t.toHost then s.notify (corePkg c) ⟨2, gcore c, t.code, 0⟩ else s

/-! Fetch and decode (R28 to R31, R42, R57). -/

/-- A word that a bundle issues. -/
structure IWord where
  slot : Slot
  word : SlotWord

/-- The trap of a tile operand: TILE_RANGE before TILE_OFF (R57 steps 5 and 6). -/
def tileTrap (k : Core) (w : SlotWord) : Option Trap :=
  let ts := (regReads k.regs.rrb w.op ++ regWrites k.regs.rrb w.op).filterMap Reg.tileOf
  if ts.any (fun t => 128 ≤ t && !k.ecc) then some .tileRange
  else if ts.any (fun t => t < 128 && bankCode k.tbank (t / 16) == 2) then some .tileOff
  else none

/-- The word of one slot, decoded, or its trap with the offending word. -/
def slotWord (k : Core) (sl : Slot) (present : Option (W64 × Except DecTrap SlotWord)) :
    Except (Trap × W64) (Option IWord) :=
  let tiles := fun (w : SlotWord) => match tileTrap k w with
    | some t => Except.error (t, 0)
    | none => .ok (some ⟨sl, w⟩)
  match present with
  | some (w, .error .illegalSlot) => .error (.illegalSlot, w)
  | some (w, .error .predReserved) => .error (.predReserved, w)
  | some (_, .ok sw) => tiles sw
  | none =>
    match k.regs.held.find sl.num with
    | none => .ok none
    | some h => if h.fault then .error (.illegalSlot, encodeSlot h.word) else tiles h.word

/-- The words of a bundle in slot order, the present ones given by slot and place; the first slot that fails gives the
trap. -/
def slotWords (k : Core) (pres : BitVec 7) (src : Slot → Nat → W64 × Except DecTrap SlotWord) :
    List Slot → Nat → Except (Nat × Trap × W64) (List IWord)
  | [], _ => .ok []
  | sl :: ss, p =>
    let here := pres.getLsbD sl.num
    match slotWord k sl (if here then some (src sl p) else none) with
    | .error (t, w) => .error (sl.num, t, w)
    | .ok r =>
      match slotWords k pres src ss (if here then p + 1 else p) with
      | .error e => .error e
      | .ok ws => .ok (r.toList ++ ws)

/-- The present words of a bundle. -/
def presCount (pres : BitVec 7) : Nat := popCount 7 pres.toNat

/-- Two unpredicated words that name one destination (R60): the first of them. DEDUCED, log 39. -/
def conflict (b : BitVec 5) : List IWord → Option IWord
  | [] => none
  | w :: ws =>
    if w.word.ctl.psel == 31 && ws.any (fun v => v.word.ctl.psel == 31
        && (regWrites b w.word.op).any fun r => (regWrites b v.word.op).any r.meets) then some w
    else conflict b ws

/-- The checks of a bundle whose header is read: its words in slot order, then their destinations (R57). -/
def fetchWords (k : Core) (h : Header) (src : Slot → Nat → W64 × Except DecTrap SlotWord) :
    Except (Nat × Trap × W64) (Header × List IWord) :=
  let p := k.pc.toNat
  if 4095 < p % 4096 + presCount h.pres then .error (7, .ispmRange, 0)
  else
    match slotWords k h.pres src Slot.all (p + 1) with
    | .error e => .error e
    | .ok ws =>
      match conflict k.regs.rrb ws with
      | some w => .error (w.slot.num, .bundleConflict, encodeSlot w.word)
      | none => .ok (h, ws)

/-- Fetch and decode at the PC: the header and the words, or a trap with its slot and offending word. -/
def fetch (k : Core) : Except (Nat × Trap × W64) (Header × List IWord) :=
  let hw := k.ispm.read k.pc.toNat
  match decodeHeader hw with
  | none => .error (7, .illegalBundle, hw)
  | some h => fetchWords k h fun sl p => (k.ispm.read p, decodeSlot sl (k.ispm.read p))

/-- The checks of an operation as the one plain word of its slot (R57 steps 3 and 4). -/
def plainWord (sl : Slot) (i : Instr) : Except DecTrap SlotWord :=
  let w : SlotWord := ⟨.plain, i⟩
  if !i.slots.contains sl || !w.fieldsOk then .error .illegalSlot
  else if !w.predsOk then .error .predReserved
  else .ok w

/-- The bundle without header clauses whose one present word is an operation, as a fetch would give it. -/
def fetchPlain (sl : Slot) (i : Instr) (k : Core) : Except (Nat × Trap × W64) (Header × List IWord) :=
  fetchWords k (Header.plain (BitVec.ofNat 7 (2 ^ sl.num))) fun _ _ => (encodeSlot ⟨.plain, i⟩, plainWord sl i)

/-- Whether a word is enabled (R36). -/
def IWord.enabled (k : Core) (w : IWord) : Bool :=
  (w.word.ctl.psel == 31) || (k.regs.pr w.word.ctl.psel != (w.word.ctl.pn == 1))

/-! Waiting for the conditions of issue (R454). -/

/-- The tile banks that a bundle's words name (R147). -/
def namedBanks (k : Core) (ws : List IWord) : List Nat :=
  (ws.flatMap fun w => regReads k.regs.rrb w.word.op ++ regWrites k.regs.rrb w.word.op).filterMap fun r =>
    match r.tileOf with
    | some t => tileBank t
    | none => none

/-- Whether the restart region holds no bundle yet. -/
def Core.fresh (k : Core) : Bool := k.markSeq == k.seq && k.gated.isEmpty

/-- An implicit mark at the bundle about to issue, unless its region is fresh already (R62). -/
def implicitMark (c : Nat) (s : State) : State := if (s.core c).fresh then s else takeMark c (s.core c).pc s

/-- The wake of RETAIN banks begun (R147), if a named bank needs one; `none` where no bank makes the bundle wait. The
implicit mark comes before the wait for every wake, one that an MTCR has begun too (R62). -/
def wakeBanks (c : Nat) (ws : List IWord) (s : State) : Option State :=
  let k := s.core c
  let bs := namedBanks k ws
  let asleep := bs.filter fun b => bankCode k.tbank b == 1 && !k.waking.any fun w => w.1 == b
  if asleep.isEmpty && !k.waking.any fun w => bs.contains w.1 then none
  else
    let s := implicitMark c s
    let k := s.core c
    some (s.setCore c { k with waking := k.waking ++ (nubNat asleep).map fun b => (b, s.now + 64) })

/-- Whether a predicate that the bundle's words are enabled by is busy (R119). -/
def predsBusy (k : Core) (ws : List IWord) : Bool :=
  ws.any fun w => w.word.ctl.psel.toNat < 24 && k.isBusy (.p w.word.ctl.psel.toNat)

/-- Whether a register that the bundle reads or writes is busy (R119, R120, R153, R195). -/
def regsBusy (k : Core) (en : List IWord) : Bool :=
  en.any fun w => (regReads k.regs.rrb w.word.op ++ regWrites k.regs.rrb w.word.op).any k.isBusy

/-- The context of a slot; the later enabled words of the bundle win its destinations (R60). -/
def ctxOf (c : Nat) (s : State) (next : BitVec 13) (later : List IWord) (w : IWord) : Ctx :=
  let k := s.core c
  let won := later.flatMap fun v => regWrites k.regs.rrb v.word.op
  let lost := (regWrites k.regs.rrb w.word.op).filter fun r => won.any r.meets
  { c, s, k, slot := w.slot, pc := k.pc, next
    dropX := lost.any fun r => match r with
      | .x _ => true
      | _ => false
    dropT := lost.any fun r => r.tileOf.isSome
    dropK := lost.any fun r => match r with
      | .k _ => true
      | _ => false }

/-- Every enabled word with its context. DEDUCED, log 40. -/
def ctxs (c : Nat) (s : State) (next : BitVec 13) : List IWord → List (IWord × Ctx)
  | [] => []
  | w :: ws => (w, ctxOf c s next ws w) :: ctxs c s next ws

/-- The writes of a bundle that later words of it have won (R60). -/
def dropCount (b : BitVec 5) : List IWord → Nat
  | [] => 0
  | w :: ws =>
    let won := ws.flatMap fun v => regWrites b v.word.op
    ((regWrites b w.word.op).filter fun r => won.any r.meets).length + dropCount b ws

/-- The enabled V0 instruction of a bundle, as V1 sees it. -/
def v0Of (en : List IWord) (w : IWord) : Option Instr :=
  if w.slot == .v1 then (en.find? fun v => v.slot == .v0).map (·.word.op) else none

/-- A word with bad check bits that a slot reads and its code cannot correct (R151, R152). DESIGN CHOICE, log 42. -/
def badRead (k : Core) (w : IWord) : Option BadWord := k.bad.find? fun b => !b.fixable k && b.reg.readBy k.regs.rrb w.word

/-- REG_ERROR of a bad word (R152, R426). -/
def BadWord.trap (b : BadWord) : Probe :=
  .trap .regError (Config.regErrorDetail b.reg.code.1 b.reg.code.2.1 b.reg.code.2.2 b.word) 0

/-- The probe of one enabled word. -/
def wordProbe (en : List IWord) (w : IWord × Ctx) : Probe :=
  match badRead w.2.k w.1 with
  | some b => b.trap
  | none => slotProbe (v0Of en w.1) w.2 w.1.word.op

/-- REG_ERROR of a word that its predicate disables: it reads the predicates alone (R36, R152). -/
def offTrap (k : Core) (ws en : List IWord) : Option (Nat × Probe) :=
  (ws.filter fun w => !en.any fun v => v.slot == w.slot).findSome? fun w =>
    if w.word.ctl.psel.toNat < 24 then
      (k.bad.find? fun b => b.reg == .preds && !b.fixable k).map fun b => (w.slot.num, b.trap)
    else none

/-- The gated entries of a bundle (R271). -/
def bundleNeed (h : Header) (en : List IWord) : Nat :=
  h.sen.toNat + (en.map fun w => gateNeed w.word.op).foldl (· + ·) 0

/-- Whether control falls through to the next bundle in sequence. DESIGN CHOICE, log 46. -/
def fallsThrough (k : Core) (h : Header) (en : List IWord) : Bool :=
  h.kind == 0 && !en.any fun w => match w.word.op with
    | .br _ | .brl _ | .brr _ | .brswap _ => true
    | .loopb o => loopTaken o k.regs
    | _ => false

/-- Whether a bundle holds an enabled barrier: the crest's or the cluster's. -/
def barrierOf (en : List IWord) : Option Bool :=
  en.findSome? fun w => match w.word.op with
    | .barc _ => some false
    | .barg _ => some true
    | _ => none

/-! Waits (R32, R227, R229). -/

/-- The header's wait: its semaphore, its threshold, whether passing subtracts. -/
def headerWait (h : Header) : List (Nat × Nat × Bool) :=
  if h.wen == 1 then [(h.wsem.toNat, h.wthr.toNat, h.wdec == 1)] else []

/-- The SEMWAIT of a bundle whose operand is in range. -/
def semWaits (xs : List (IWord × Ctx)) : List (Nat × Nat × Bool) :=
  xs.filterMap fun w => match w.1.word.op with
    | .semwait o => if semVal o w.2 ≤ 65535 then some (o.sem.toNat, semVal o w.2, o.fn.getLsbD 0) else none
    | _ => none

/-- The bundle stays: its implicit mark is taken (R62), and what its wait needs is noted: each change of a semaphore tests it
(R227). -/
def stayWaiting (c : Nat) (ws : List (Nat × Nat × Bool)) (s : State) : State :=
  let s := implicitMark c s
  s.setCore c { s.core c with waiting := ws }

/-- A core's bundle stalls on another condition: it takes no part in the tests of semaphores (R227). -/
def stall (c : Nat) (mark : Bool) (s : State) : State := if mark then implicitMark c s else s

/-- The waits on some semaphores tested: their counters have got back what a test had taken for a bundle that does not issue
after all (R227, R454). -/
def retest (c : Nat) (ds : List (Nat × Nat × Nat)) (s : State) : State :=
  (nubNat (ds.map (·.1))).foldl (fun s n => s.testWaits (coreCluster c) n) s

/-! Effects (R32, R42, R43). -/

/-- The header signal of SAT = 0: admitted (R32, R226). DEDUCED, log 40. -/
def headerSignal (c : Nat) (h : Header) (a : Acc) : Acc :=
  if h.sen == 1 && h.sat == 0 then
    admitInc (coreCluster c) h.ssem.toNat h.sinc.toNat (.signal h.ssem.toNat h.sinc.toNat) a
  else a

/-- The header signal of SAT = 1: left to be applied once everything up to its own bundle has performed (R32, R33). -/
def satSignal (h : Header) (pc : BitVec 13) (a : Acc) : Acc :=
  if h.sen == 1 && h.sat == 1 then a.gate [.satSignal h.ssem.toNat h.sinc.toNat pc] else a

/-- The header's passed wait. -/
def headerPass (c : Nat) (ws : List (Nat × Nat × Bool)) (a : Acc) : Acc :=
  ws.foldl (fun a w =>
    let a := passWait c w.1 a
    if w.2.2 then subtract (coreCluster c) w.1 w.2.1 a else a) a

/-- The held words after a bundle: those that issued with HOLD advance, a word present without it releases its slot. -/
def heldAfter (pres : BitVec 7) (ws : List IWord) (t : Tab Held) : Tab Held :=
  ws.foldl (fun t w =>
    if w.word.ctl.hold == 1 then t.put w.slot.num (advance w.word)
    else if pres.getLsbD w.slot.num then t.drop w.slot.num else t) t

/-- Register words read with an error that the code corrects: written back, and counted in full-correction mode (R116,
R152). -/
def correctRead (ws en : List IWord) (k : Core) : Core :=
  let hit := fun (b : BadWord) => b.fixable k && (en.any (fun w => b.reg.readBy k.regs.rrb w.word)
    || b.reg == .preds && ws.any fun w => w.word.ctl.psel.toNat < 24)
  let n := (k.bad.filter hit).length
  { k with
    bad := k.bad.filter fun b => !hit b
    corr := if k.ecc then k.corr else BitVec.ofNat 16 (min 0xFFFF (k.corr.toNat + n)) }

/-- What a retired bundle leaves: the rounding state, BCONF, the MTCR write, held words, scale counts, PC (R42, R60, R84,
R140, R211), and good check bits where it writes whole registers (R152). An MTCR to BCONF replaces the bundle's own count.
DESIGN CHOICE, log 49. A LOOPB that falls through and a BRSWAP release the HOLD = 1 words of their own bundle too. DESIGN CHOICE,
log 48. `before` is the core before the bundle: its RRB names the bundle's registers (R100). -/
def retire (h : Header) (ws en : List IWord) (before : Core) (a : Acc) : Core :=
  let now := a.s.now
  let k := { a.k with
    regs := { a.k.regs with seed := a.rnd.seed }
    bconf := BitVec.ofNat 32 (min 0xFFFFFFFF (a.k.bconf.toNat + dropCount before.regs.rrb en)) }
  let k := match a.mtcr with
    | some (n, v) => writeCr now n v k
    | none => k
  let held := if a.relHeld || h.kind == 1 then [] else heldAfter h.pres ws k.regs.held
  { k with
    regs := countScales { k.regs with held }
    bad := k.bad.filter fun b => !en.any fun w => b.writtenBy before.regs.rrb before w.word
    pc := a.next, seq := k.seq + 1, ready := now + 1 + a.bubble, hold := none, passed := none }

/-- The END of a core's program (R34, R302): its region commits and its dirty bytes are written down. -/
def endCore (c : Nat) (s : State) : State :=
  let s := commit c s
  let k := s.core c
  s.setCore c { (k.queueDown k.seq fun _ => true) with run := .ended, fin := true }

/-- The earlier of two traps by slot. -/
def earlierTrap : Option (Nat × Probe) → Option (Nat × Probe) → Option (Nat × Probe)
  | some p, some q => some (if q.1 < p.1 then q else p)
  | p, q => p <|> q

/-- The first of several probes that stops its slot. -/
def slotTrap (f : IWord × Ctx → Probe) (xs : List (IWord × Ctx)) : Option (Nat × Probe) :=
  xs.findSome? fun w => match f w with
    | .go | .stall _ => none
    | p => some (w.1.slot.num, p)

/-- Whether an instruction accesses memory through a handle, by the checks of R248. -/
def usesPage (i : Instr) : Bool :=
  (handleRead i).isSome && match i with
    | .ovl _ => false
    | _ => true

/-- What stops a word that is no atomic: its checks, then the answer of its access. DEDUCED, log 40. -/
def wordStop (en : List IWord) (w : IWord × Ctx) : Probe :=
  .first [wordProbe en w, if isAtomic w.1.word.op then .go else slotAnswer w.2 w.1.word.op]

/-- Whether a probe is a slice's answer of seepage. -/
def Probe.isSeep : Probe → Bool
  | .seep _ _ _ => true
  | _ => false

/-- The first trap of a bundle by slot, the answers of its accesses among them (R13); the seepage of an acquire gives way to a
failed check of R248 of another access, which comes before any seepage check (R311). DEDUCED, log 40. -/
def slotStop (k : Core) (ws en : List IWord) (xs : List (IWord × Ctx)) : Option (Nat × Probe) :=
  match earlierTrap (offTrap k ws en) (slotTrap (wordStop en) xs) with
  | some (n, p) =>
    if p.isSeep then (slotTrap (wordProbe en) (xs.filter fun w => usesPage w.1.word.op)).orElse fun _ => some (n, p)
    else some (n, p)
  | none => none

/-- What the waits of a bundle that are still to subtract take from a semaphore (R226, R227). -/
def takenFrom (sub : List (Nat × Nat × Bool)) (n : Nat) : Nat :=
  ((sub.filter fun w => w.1 == n && w.2.2).map (·.2.1)).foldl (· + ·) 0

/-- The first trap of a bundle at execution, by slot; the header's admission comes after the slots and before a SEMADD
(R13, R32, R226), both against the counter that the bundle's own waits leave, and the answer of an atomic after all (R283, R311).
DEDUCED, log 40. -/
def firstTrap (c : Nat) (h : Header) (ws en : List IWord) (xs : List (IWord × Ctx)) (s : State) : Option (Nat × Probe) :=
  let cl := coreCluster c
  let hv := if h.sen == 1 && h.sat == 0 then h.sinc.toNat else 0
  let sub := semWaits xs
  let semadd := xs.findSome? fun w => match w.1.word.op with
    | .semadd o =>
      let before := if o.sem == h.ssem then hv else 0
      if admits s cl o.sem.toNat (takenFrom sub o.sem.toNat) before (semVal o w.2) then none
      else some (w.1.slot.num, Probe.semOver o.sem.toNat)
    | _ => none
  match slotStop (s.core c) ws en xs with
  | some t => some t
  | none =>
    if !admits s cl h.ssem.toNat (takenFrom sub h.ssem.toNat) 0 hv && hv != 0 then some (7, .semOver h.ssem.toNat)
    else semadd <|> slotTrap (fun w => slotAnswer w.2 w.1.word.op) (xs.filter fun w => isAtomic w.1.word.op)

/-- The failed walk that a PAGE_FAULT of LDSMP reports forgotten: a later access walks again (R246, R250). -/
def forgetWalk (c va : Nat) (s : State) : State :=
  let q := s.cluster (coreCluster c)
  if q.cbad.isEmpty then s
  else s.setCluster (coreCluster c) { q with cbad := q.cbad.filter fun p => p != ((s.space c).1, va / 65536) }

/-- A trap at execution taken. -/
def takeProbe (c slot : Nat) (p : Probe) (s : State) : State :=
  match p with
  | .trap t w1 w2 =>
    let s := match t with
      | .regError =>
        let k := s.core c
        s.setCore c { k with uncorr := if k.uncorr == 0xFFFF then k.uncorr else k.uncorr + 1 }
      | .semOverflow => s.countSemovf c
      | _ => s
    takeTrap c slot t w1 w2 s
  | .smpFault va fd => takeTrap c slot .pageFault va fd (forgetWalk c va.toNat s)
  | .semOver n =>
    takeTrap c slot .semOverflow (BitVec.ofNat 64 n) 0 ((s.moveSem (coreCluster c) n 65535).countSemovf c)
  | .seep f w1 w2 => takeTrap c slot .seepage w1 w2 (s.setMdie f { s.mdie f with straps := (s.mdie f).straps + 1 })
  | .dataErr lines own sp =>
    let s := own.foldl (fun s l => let (s, k) := findL1 l.1 [l.2] s (s.core c); s.setCore c k) s
    let s := lines.foldl (fun s l => s.readLine (s.core c).launch l.1 l.2) s
    takeTrap c slot .dataError 0 0 (meetReads c sp s)
  | _ => s

/-- A core's state with the scale writes that come before its next bundle landed (R211). -/
def State.landed (s : State) (c : Nat) : State := s.setCore c (s.core c).landScales

/-- The write-downs that the atomics of a bundle still need before they are sent (R282, R283). -/
def atomDowns (xs : List (IWord × Ctx)) (k : Core) : Core := xs.foldl (fun k w => downAtomic w.2 k w.1.word.op) k

/-- The bundle issues: the mark of a MARK header, the waits' subtractions, traps, then the scale writes due and every effect
(R32, R211). An atomic that every check has let pass first has its write-downs made, for which the bundle waits (R282, R283). -/
def issueNow (c : Nat) (h : Header) (ws en : List IWord) (next : BitVec 13) (hw : List (Nat × Nat × Bool)) (s : State) :
    State :=
  let s₀ := if h.mark == 1 then implicitMark c s else s
  let k := s₀.core c
  let a : Acc := { s := s₀, k, rnd := ⟨k.regs.seed, 0⟩, next, bubble := 0, relHeld := false, mtcr := none, mark := false }
  let a := headerPass c hw a
  let s := a.s.setCore c a.k
  let t := s.landed c
  let xs := ctxs c t next en
  match firstTrap c h ws en xs t with
  | some (slot, p) => takeProbe c slot p (s.setCore c (correctRead ws en a.k))
  | none =>
    if atomDowns xs k != k then s₀.setCore c (atomDowns xs (s₀.core c))
    else
      let t := meetReads c (xs.flatMap fun w => spReads w.2 w.1.word.op) t
      let a := headerSignal c h { a with s := t, k := correctRead ws en (t.core c) }
      let a := satSignal h k.pc (xs.foldl (fun a w => slotEffect w.1.word.op w.2 a) a)
      let s := a.s.setCore c (retire h ws en k a)
      if h.kind == 1 then endCore c s
      else
        let s := if a.mark || ws.any (fun w => isAtomic w.word.op) then takeMark c a.next s else s
        if en.any fun w => zeroStore w.word.op then
          s.setCore c ((s.core c).queueDown (k.seq - 1) fun e => e.cls.getLsbD 0)
        else s

/-- A barrier bundle arrives, once the core's effects have performed (R232). -/
def arrive (c : Nat) (global : Bool) (s : State) : State :=
  let k := s.core c
  s.setCore c (if global then { k with arrG := true, arrAt := s.now } else { k with arrC := true, arrAt := s.now })

/-- Whether an engine still holds a command that a test picks (R232, R415): waiting, timed or running. -/
def State.engineHolds (s : State) (pick : Push → Bool) : Bool :=
  s.engqs.any (fun q => q.2.entries.any pick || q.2.running.any fun r => pick r.push)
    || s.clusters.any fun q => q.2.tbuf.any fun t => pick t.push

/-- Whether an engine still holds a command of a core. -/
def State.pushedBy (s : State) (c : Nat) : Bool := s.engineHolds fun p => p.core == c && !p.host

/-- A barrier bundle (R232, R454): its header wait is tested once, unless a change of its semaphore has met it already (`met`);
then it arrives and issues when the barrier has released. -/
def barrierStep (c : Nat) (global : Bool) (h : Header) (ws en : List IWord) (next : BitVec 13) (met : Bool) (s : State) :
    State :=
  let k := s.core c
  let hw := headerWait h
  match k.pass with
  | some t => if t ≤ s.now then issueNow c h ws en next [] s else s
  | none =>
    if !hw.isEmpty && k.passed.isNone then
      if !met && !s.condsPass (coreCluster c) hw [] then stayWaiting c hw s
      else
        let a : Acc :=
          { s, k, rnd := ⟨k.regs.seed, 0⟩, next, bubble := 0, relHeld := false, mtcr := none, mark := false }
        let a := headerPass c hw a
        a.s.setCore c { a.k with passed := (hw.head?).map fun w => (w.1, if w.2.2 then w.2.1 else 0) }
    else if k.settled && (!global || !s.pushedBy c) then arrive c global s
    else s

/-- The timed wait of a fence: begun when its other waits are over, over when its cycles have passed. -/
def fenceHold (c : Nat) (en : List IWord) (s : State) : Option State :=
  match en.findSome? fun w => fenceTime (s.pkg (corePkg c)) w.word.op with
  | none => none
  | some n =>
    let k := s.core c
    match k.hold with
    | none =>
      let cl := coreCluster c
      let s := s.setCore c { k with hold := some (s.now + n) }
      some (if en.any fun w => w.word.op == .fenceSmp then
        s.setCluster cl { s.cluster cl with sampTo := s.now + n } else s)
    | some t => if s.now < t then some s else none

/-- The walks that the LDSMP words of a bundle wait for (R250). -/
def walksBefore (x : Ctx) (i : Instr) (s : State) : State :=
  match i with
  | .ldsmp o => smpWalks o x s
  | _ => s

/-- The marks, write-downs and walks that come before a bundle issues, its contexts given. -/
def prepare (c : Nat) (ws en : List IWord) (next : BitVec 13) (s : State) : State :=
  let xs := ctxs c (s.landed c) next en
  let s := if ws.any (fun w => marksAlways w.word.op) || xs.any (fun w => marksBefore w.2 w.1.word.op) then implicitMark c s
    else s
  let xs := ctxs c (s.landed c) next en
  let s := s.setCore c (en.foldl (fun k w => downBefore k w.word.op) (s.core c))
  if regsBusy (s.core c) en then s else xs.foldl (fun s w => walksBefore w.2 w.1.word.op s) s

/-- The conditions of issue, then the wait, then issue (R454). The fall-through past the end of a half traps once every other
condition holds and before the header wait (R29, R32). DESIGN CHOICE, log 46. `met` says that a
change of a semaphore has met its waits. -/
def tryIssue (c : Nat) (h : Header) (ws : List IWord) (met : Bool) (s : State) : State :=
  match wakeBanks c ws s with
  | some s => s
  | none =>
    if predsBusy (s.core c) ws then s
    else
      let en := ws.filter fun w => w.enabled (s.core c)
      let next : BitVec 13 := (s.core c).pc + 1 + BitVec.ofNat 13 (presCount h.pres)
      let s := prepare c ws en next s
      let k := s.core c
      let xs := ctxs c (s.landed c) next en
      let ps := xs.map (wordProbe en)
      let full := decide (64 < k.gated.length + bundleNeed h en)
      if regsBusy k en || ps.any Probe.isStall || full then
        stall c (full || ps.any (· == .stall true)) s
      else
        match fenceHold c en s with
        | some s => s
        | none =>
          if fallsThrough k h en && 4095 < k.pc.toNat % 4096 + 1 + presCount h.pres then
            takeTrap c 7 .ispmRange 0 0 s
          else
            match barrierOf en with
            | some g => barrierStep c g h ws en next met s
            | none =>
              let hw := headerWait h
              let all := hw ++ semWaits xs
              if all.isEmpty then issueNow c h ws en next [] s
              else if !met && !s.condsPass (coreCluster c) all [] then stayWaiting c all s
              else issueNow c h ws en next hw s

/-- The oldest SAT = 1 signal that has overflowed traps: the record holds the PC of its bundle and the continuation PC
(R33, R426). -/
def takeSatTrap (c : Nat) (s : State) : State :=
  let k := s.core c
  match k.satTrap with
  | [] => s
  | (n, pc) :: rest =>
    let s := takeTrap c 7 .semOverflow (BitVec.ofNat 64 n) (BitVec.ofNat 64 (2 ^ 63 + k.pc.toNat))
      (s.setCore c { k with satTrap := rest })
    s.setCore c { s.core c with trap := { (s.core c).trap with pc } }

/-- The issue of a placed core's bundle, however it is given: it issues, stalls, or traps. What a test of semaphores has taken
for it is given back first: the bundle takes it again as it issues. -/
def issueWith (c : Nat) (get : Core → Except (Nat × Trap × W64) (Header × List IWord)) (s : State) : State :=
  let k := s.core c
  if k.run != .placed || s.now < k.ready then s
  else
    let ds := k.granted.getD []
    let s := s.takeBack c
    let s := s.setCore c { s.core c with waiting := [] }
    retest c ds (if !k.satTrap.isEmpty then takeSatTrap c s
      else
        match get (s.core c) with
        | .error (slot, t, w) => takeTrap c slot t w 0 s
        | .ok (h, ws) => tryIssue c h ws k.granted.isSome s)

/-- BUNDLE_ISSUE (R32): a placed core issues the bundle at its PC. DEDUCED, log 40. -/
def issueBundle (c : Nat) (s : State) : State := drain c (issueWith c fetch s)

/-- The current core issues the plain bundle of one operation. -/
def issueOne (sl : Slot) (i : Instr) (s : State) : State := drain s.cur (issueWith s.cur (fetchPlain sl i) s)

/-! Steps at which a core's results land. -/

/-- A result of a kind at a position lands, if it is due. -/
def landStep (c : Nat) (kind : LandKind → Bool) (i : Nat) (s : State) : State :=
  if (s.core c).landDue kind s.now i then s.setCore c ((s.core c).landOne i) else s

/-- Whether everything a core issued up to a bundle has performed (R32, R154, R201). A write-down may carry bytes of any earlier
store, whenever it was queued. -/
def Core.performedTo (k : Core) (n : Nat) : Bool :=
  k.gated.all (fun g => n < g.seq) && k.outq.all (fun o => n < o.seq && o.eff.cls? != some 16) && k.loads.all (fun l => n < l.seq)
    && k.land.all (fun l => n < l.seq) && k.mout.all (fun m => n < m.seq) && k.sends.all (fun d => n < d.seq)
    && k.mma.all (fun m => n < m.seq) && k.ovls.isEmpty

/-- The first waiting SAT = 1 signal is applied, and what has waited for it (R62), once its effects have performed (R32, R33). One that overflows is counted
(R230) and traps at the core's next bundle boundary, after those that overflowed before it; a core that has retired END is at
its last boundary. DEDUCED, log 40. -/
def satSignalApply (c : Nat) (s : State) : State :=
  let k := s.core c
  match k.sat with
  | [] => s
  | g :: gs =>
    if k.performedTo g.seq then
      let cl := coreCluster c
      if s.sem cl g.sem + g.inc ≤ 65535 then drain c ((s.setCore c { k with sat := gs }).incSem cl g.sem g.inc)
      else
        let s := ((s.setCore c { k with sat := gs, satTrap := k.satTrap ++ [(g.sem, g.pc)] }).incSem cl g.sem
          g.inc).countSemovf c
        drain c (if k.run == .ended then takeSatTrap c s else s)
    else s

/-- RETAIN banks whose wake has ended read ON (R147). -/
def bankWake (c : Nat) (s : State) : State :=
  let k := s.core c
  let done := k.waking.filter fun w => w.2 ≤ s.now
  s.setCore c { k with
    waking := k.waking.filter fun w => s.now < w.2
    tbank := done.foldl (fun t w => t &&& ~~~((3 : BitVec 16) <<< (2 * w.1))) k.tbank }

end Sys2Proof.Machine
end

