-- ==== Sys2Proof/Machine/Virtual.lean ====
section
/-! DEFINITION. Memory as the pumphouse, the engines and the host reach it: data errors found by an access (R450, R451),
access through an address space (R241), invalidation (R252), copy-on-write resolution (R268 to R270), free frames. -/

namespace Sys2Proof.Machine

/-! Access through an address space (R241). -/

/-- The granules of the entries that a walk reads (R242). -/
def walkGranules (s : State) (pkg va : Nat) : List Nat → Nat → List Nat
  | [], _ => []
  | lvl :: rest, tbl =>
    let a := pkg * 2 ^ 42 + tbl + 8 * nbits va (55 - 10 * lvl) (46 - 10 * lvl)
    let e : W64 := BitVec.ofNat 64 (s.word a 8)
    a / 256 :: (if entryT e then walkGranules s pkg va rest ((field e 21 29).toNat * 8192) else [])

/-- The errors that a walk finds in the entries it reads, dealt with: MEMERR alone counts them (R450, R451). -/
def State.meetWalk (s : State) (pkg root va : Nat) : State :=
  if s.dead.isEmpty && s.weak.isEmpty then s else s.meetWrite (walkGranules s pkg va [0, 1, 2, 3] root)

/-- The pages of 64 KiB that a range meets; a range of no byte meets none. -/
def pagesOf (va n : Nat) : List Nat :=
  if n == 0 then [] else (List.range ((va % 65536 + n + 65535) / 65536)).map fun i => va / 65536 + i

/-- The translations of a range, one for each 64 KiB of it; `none` where a walk fails or a leaf lacks what is needed. -/
def State.rangeXlate (s : State) (pkg space root va n : Nat) (need : W64 → Bool) : Option (List (Nat × Xlation)) :=
  (pagesOf va n).mapM fun p =>
    match s.walk pkg space root (p * 65536) with
    | some e => if need e.leaf then some (p, e) else none
    | none => none

/-- The runs of a range by page: translation, virtual address, bytes. -/
def pageRuns (ps : List (Nat × Xlation)) (va n : Nat) : List (Xlation × Nat × Nat) :=
  ps.filterMap fun p =>
    let lo := max va (p.1 * 65536)
    let hi := min (va + n) (p.1 * 65536 + 65536)
    if lo < hi then some (p.2, lo, hi - lo) else none

/-- Bytes of a range read at the point of coherence through an address space: the state once the errors found are dealt
with, the granules replaced, the bytes. -/
def State.readVa (s : State) (pkg space root va n : Nat) (need : W64 → Bool) : Option (State × Nat × List Byte) :=
  (s.rangeXlate pkg space root va n need).map fun ps =>
    let s := (pagesOf va n).foldl (fun s p => s.meetWalk pkg root (p * 65536)) s
    (pageRuns ps va n).foldl (fun a r =>
      let (src, p) := r.1.at (r.2.1 - r.1.base)
      let (s, z) := a.1.meet src p r.2.2
      (s.countRead src p r.2.2, a.2.1 + z, a.2.2 ++ s.delivered src p r.2.2)) (s, 0, [])

/-- The state after the pumphouse has read bytes of a range: the errors found are replaced, the codec's saturations counted. -/
def State.afterRead (s : State) (pkg space root va n : Nat) : State :=
  match s.readVa pkg space root va n fun _ => true with
  | some r => r.1
  | none => (pagesOf va n).foldl (fun s p => s.meetWalk pkg root (p * 65536)) s

/-- Bytes of a range written by the pumphouse or the host at the point of coherence through an address space, in the frames that
the leaves name: of a stamp, a completion record or a saved context on a page with COW = 1 too. DESIGN CHOICE, log 62. -/
def State.writeVa (s : State) (pkg space root va : Nat) (bs : List Byte) (need : W64 → Bool) : Option State :=
  (s.rangeXlate pkg space root va bs.length need).map fun ps =>
    let s := (pagesOf va bs.length).foldl (fun s p => s.meetWalk pkg root (p * 65536)) s
    (pageRuns ps va bs.length).foldl (fun s r =>
      let (src, p) := r.1.at (r.2.1 - r.1.base)
      s.deliverTo src (placed p ((bs.drop (r.2.1 - va)).take r.2.2))) s

/-! Invalidation (R252). -/

/-- Whether a translation's page meets a range of a space. -/
def Xlation.inRange (x : Xlation) (space lo hi : Nat) : Bool :=
  x.space == space && x.base < hi && lo < x.base + pageSize x.leaf

/-- A VALID handle whose page meets the range is REVOKED (R138). -/
def Handle.revoke (h : Handle) (space lo hi : Nat) : Handle :=
  if h.state == HState.valid && h.page.inRange space lo hi then { h with state := .revoked } else h

/-- Whether a page of 64 KiB of a space meets a range. -/
def pageIn (p : Nat × Nat) (space lo hi : Nat) : Bool := p.1 == space && p.2 * 65536 < hi && lo < (p.2 + 1) * 65536

/-- A core's handles and TLBs after an invalidation. -/
def Core.invalidate (k : Core) (mine : Bool) (space lo hi : Nat) : Core :=
  let gone := fun (x : Xlation) => x.inRange space lo hi
  { k with
    htlb := k.htlb.filter fun x => !gone x
    itlb := k.itlb.filter fun x => !gone x
    ibad := k.ibad.filter fun p => !pageIn p space lo hi
    land := k.land.map fun l => match l.dest with
      | .handle _ x => if gone x then { l with dest := .none } else l
      | _ => l
    regs := if mine then { k.regs with h := k.regs.h.mapVal fun _ h => h.revoke space lo hi } else k.regs }

/-- The translations of a space that a range meets, held by a handle or a TLB. -/
def State.held (s : State) (space lo hi : Nat) : List Xlation :=
  (s.cores.flatMap fun c => c.2.htlb ++ c.2.itlb
      ++ (c.2.regs.h.filter fun h => h.2.state == .valid).map (fun h => h.2.page))
    ++ (s.clusters.flatMap fun q => q.2.ctlb ++ q.2.got) ++ (s.dies.flatMap fun d => d.2.etlb ++ d.2.got)
  |>.filter fun x => x.inRange space lo hi

/-- The walks of a space's PENDING handles that have none in the queue and no TLB hit on its way: an invalidation has dropped
what they waited for, and they walk again once it completes (R138, R252). DEDUCED, log 14. -/
def State.rewalk (s : State) (space : Nat) : State :=
  s.cores.foldl (fun s c =>
    if (s.space c.1).1 == space && c.2.run != .free then
      c.2.regs.h.foldl (fun s h =>
        if h.2.state == .pending && !s.awaitsXlat c.1 h.1 then
          s.queueWalk (coreDie c.1) (s.space c.1).1 (s.space c.1).2 h.2.va (.handle c.1 h.1)
        else s) s
    else s) s

/-- Whether the walk of a miss would give a page that meets a range. -/
def State.walkMeets (s : State) (pkg : Nat) (w : Walk) (va : W64) (lo hi : Nat) : Bool :=
  pageIn (w.space, va.toNat / 65536) w.space lo hi || match s.walk pkg w.space w.root va.toNat with
    | some x => x.inRange w.space lo hi
    | none => false

/-- A walker queue without the walks of handles that meet a range: the handles walk again after the invalidation (R138, R252). -/
def State.dropWalks (s : State) (f space lo hi : Nat) (ws : List Walk) : List Walk :=
  (ws.map fun w =>
    if w.space == space then
      { w with who := w.who.filter fun q => match q.1 with
        | .handle _ _ => !s.walkMeets (diePkg f) w q.2 lo hi
        | _ => true }
    else w).filter fun w => !w.who.isEmpty

/-- Every TLB entry of a space whose page meets the range removed, every such VALID handle REVOKED, and the walks of such PENDING
handles dropped. DEDUCED, log 14. -/
def State.invalidate (s : State) (space lo hi : Nat) : State :=
  { s with
    cores := s.cores.mapVal fun c k => k.invalidate ((s.space c).1 == space) space lo hi
    clusters := s.clusters.mapVal fun _ q => { q with
      ctlb := q.ctlb.filter fun x => !x.inRange space lo hi
      pins := q.pins.filter fun x => !x.inRange space lo hi
      got := q.got.filter fun x => !x.inRange space lo hi
      cbad := q.cbad.filter fun p => !pageIn p space lo hi }
    dies := s.dies.mapVal fun f d => { d with
      walks := s.dropWalks f space lo hi d.walks
      got := d.got.filter fun x => !x.inRange space lo hi
      etlb := d.etlb.filter fun x => !x.inRange space lo hi
      ebad := d.ebad.filter fun p => !pageIn p space lo hi } }

/-- Whether a place lies in a translation's page. -/
def Xlation.holds (x : Xlation) (src : Src) (o : Nat) : Bool :=
  let (xs, p) := x.at 0
  src == xs && p ≤ o && o < p + pageSize x.leaf

/-- Whether a store lies in a translation's page. -/
def Xlation.holdsStore (x : Xlation) : Effect → Bool
  | .store src ws _ _ _ => ws.any fun w => x.holds src w.1
  | _ => false

/-- Whether no core still has an access on its way that used one of some translations. DEDUCED, log 14. -/
def State.quiet (s : State) (xs : List Xlation) : Bool :=
  s.cores.all fun c => xs.all fun x =>
    c.2.loads.all (fun l => l.val.isSome || !x.holds l.src l.off) && c.2.pending.all (fun e => !x.holdsStore e)

/-- The dirty bytes of some pages that no committed store will bring down are queued to be written down (R252).
DEDUCED, log 14. -/
def State.flushPages (s : State) (xs : List Xlation) : State :=
  { s with cores := s.cores.mapVal fun _ k =>
      k.queueDown k.seq fun e => xs.any fun x => x.holds e.src (e.line * 128) }

/-- The committed stores to some pages performed at once. -/
def State.performPages (s : State) (xs : List Xlation) : State :=
  s.cores.foldl (fun s c =>
    let mine := fun (o : OutEnt) => xs.any fun x => x.holdsStore o.eff
    let k := s.core c.1
    (k.outq.filter mine).foldl (fun s o => performEff c.1 s o.eff)
      (s.setCore c.1 { k with outq := k.outq.filter fun o => !mine o })) s

/-! Copy-on-write (R268 to R270). -/

/-- The physical address of the leaf entry that a walk reads, within its package. -/
def leafEntry (s : State) (pkg va : Nat) : List Nat → Nat → Option Nat
  | [], _ => none
  | lvl :: rest, tbl =>
    let a := tbl + 8 * nbits va (55 - 10 * lvl) (46 - 10 * lvl)
    let e : W64 := BitVec.ofNat 64 (s.word (pkg * 2 ^ 42 + a) 8)
    if entryT e then leafEntry s pkg va rest ((field e 21 29).toNat * 8192) else some a

/-- The entries that a leaf repeats in (R245). -/
def leafRun (e : W64) : Nat := match (leafSize e).toNat with
  | 0 => 1 | 1 => 32 | _ => 16

/-- A leaf written in every entry of its run. -/
def State.writeLeaf (s : State) (pkg root va : Nat) (old new : W64) : State :=
  match leafEntry s pkg va [0, 1, 2, 3] root with
  | none => s
  | some a =>
    let n := leafRun old
    let a0 := a / (8 * n) * (8 * n)
    (List.range n).foldl (fun s i => s.setBytes (pkg * 2 ^ 42 + a0 + 8 * i) (bytesOf 8 new)) s

/-- The leaf with another frame and COW cleared. -/
def leafWithFrame (e : W64) (frame : Nat) : W64 :=
  (e &&& ~~~(BitVec.ofNat 64 ((2 ^ 35 - 1) * 2 ^ 28 + 32))) ||| BitVec.ofNat 64 (frame / 65536 * 2 ^ 28)

/-- The bytes from the start of a leaf's frame to the end of its page's backing (R259). -/
def backingEnd (e : W64) : Nat := leafSub e * 4096 + backing (leafSfmt e) (leafDfmt e) (pageSize e)

/-- The bytes of a frame for a leaf: its page size, as often as the backing needs (R259, R269). DESIGN CHOICE, log 8. -/
def frameSize (e : W64) : Nat := max 1 ((backingEnd e + pageSize e - 1) / pageSize e) * pageSize e

/-- Physical bytes of a run copied exactly, errors in the granules written dealt with first (R266, R450). -/
def State.copyPhys (s : State) (src dst n : Nat) : State :=
  let s := s.meetWrite ((List.range ((dst % 256 + n + 255) / 256)).map fun i => dst / 256 + i)
  let m := s.mem.clearRange dst (dst + n)
  { s with mem := (s.mem.slice src (src + n)).foldl (fun m e => m.write (e.1 - src + dst) e.2) m }

/-- The granules of a run written compressed, counted (R267). -/
def State.countCopy (s : State) (a n : Nat) : State :=
  (List.range ((n + 255) / 256)).foldl (fun s i => countGranule s (a + 256 * i)) s

/-- A free frame fit for the leaf's size and placement (R269): the frame, and what is left free. DESIGN CHOICE, log 8. -/
def takeFrame (homeg : BitVec 7) (pkg : Nat) (e : W64) : List Frame → Option (Frame × List Frame)
  | [] => none
  | f :: fs =>
    let e' := leafWithFrame e (pkg * 2 ^ 42 + f.base)
    if f.size == frameSize e && f.base % pageSize e == 0 && placeOk homeg e' then some (f, fs)
    else (takeFrame homeg pkg e fs).map fun r => (r.1, f :: r.2)

/-- How a copy-on-write resolution ends. -/
inductive CowEnd where
  | done | noWalk | noWrite | noFrame
deriving DecidableEq, Repr

/-- The resolution of R269 and R270 on the page of a virtual address. DESIGN CHOICE, log 8. DEDUCED, log 14. -/
def State.resolveCow (s : State) (pkg space root va : Nat) : State × CowEnd :=
  let s := s.meetWalk pkg root va
  match s.walk pkg space root va with
  | none => (s, .noWalk)
  | some x =>
    let e := x.leaf
    if !leafW e then (s, .noWrite)
    else if !leafCow e then (s, .done)
    else
      let fp := paPkg (leafFrame e)
      let s := (s.flushPages [x]).performPages [x]
      match takeFrame (s.pkg pkg).homeg fp e (s.pkg fp).frames with
      | none => (s, .noFrame)
      | some (f, fs) =>
        let n := backing (leafSfmt e) (leafDfmt e) (pageSize e)
        let old := leafFrame e + leafSub e * 4096
        let new := fp * 2 ^ 42 + f.base
        let (s, _) := s.meet ⟨0, 0, 0, 0, leafComp e⟩ old n
        let s := s.setPkg fp { s.pkg fp with frames := fs }
        let s := s.copyPhys old (new + leafSub e * 4096) n
        let s := if leafComp e then s.countCopy (new + leafSub e * 4096) n else s
        let s := s.writeLeaf pkg root va e (leafWithFrame e new)
        let s := s.invalidate space x.base (x.base + pageSize e)
        (s.rewalk space, .done)

/-- Whether the resolution of a page may complete now: no access through the old translation is on its way. -/
def State.cowQuiet (s : State) (pkg space root va : Nat) : Bool :=
  match s.walk pkg space root va with
  | none => true
  | some x => s.quiet (s.held space x.base (x.base + pageSize x.leaf))

/-- COW set in the leaf of a page, its dirty bytes on their way to memory, and its invalidation begun: the translations that it
removes (R252, R419); `none` where the page is not mapped. -/
def State.setCow (s : State) (pkg space root va : Nat) : Option (State × List Xlation) :=
  let s := s.meetWalk pkg root va
  (s.walk pkg space root va).map fun x =>
    let xs := s.held space x.base (x.base + pageSize x.leaf)
    let s := (s.flushPages (x :: xs)).writeLeaf pkg root va x.leaf (x.leaf ||| 32)
    (s.invalidate space x.base (x.base + pageSize x.leaf), xs)

end Sys2Proof.Machine
end

