-- ==== Sys2Proof/Machine/Events.lean ====
section
/-! DEFINITION. The steps of a core beside the issue of a bundle: results that land, stores that reach their place, walks
that end (R249, R250), barriers that release (R232 to R234, R419), overlay loads that end (R417, R418). -/

namespace Sys2Proof.Machine

/-! The cores of a launch. -/

/-- The package of a launch's key, and its LID. -/
def launchPkg (l : Nat) : Nat := l / 65536
/-- The cores of a package that a CMASK places (R408). -/
def maskCores (p : Nat) (m : BitVec 48) : List Nat :=
  ((List.range 48).filter m.getLsbD).flatMap fun c => clusterCores (p * 48 + c)
/-- The cores that a launch places on its package. -/
def State.placedCores (s : State) (l : Nat) : List Nat := maskCores (launchPkg l) (s.launch l).desc.cmask

/-- Whether a core counts as arrived: it waits at the barrier, or has ended with everything performed (R234). -/
def State.arrived (s : State) (global : Bool) (c : Nat) : Bool :=
  let k := s.core c
  if k.run == .ended || k.run == .halted then k.settled && !s.pushedBy c
  else k.run == .placed && (if global then k.arrG else k.arrC)

/-- A waiting core passes its barrier at a tick. -/
def Core.release (k : Core) (global : Bool) (t : Nat) : Core :=
  if global then (if k.arrG then { k with arrG := false, pass := some t } else k)
  else if k.arrC then { k with arrC := false, pass := some t } else k

/-- The most external links between two packages of an axis (R233). -/
def axisLinks (n e : Nat) : Nat := ((List.range e).map fun d => min d (n - d)).foldl max 0

/-- The external links on the longest path between two packages of a launch (R19, R233). -/
def State.launchLinks (s : State) (l : Nat) : Nat :=
  let d := (s.launch l).desc
  if !d.fabric then 0
  else
    let t := (s.pkg (launchPkg l)).topo
    match d.box with
    | [_, _, _, ex, ey, ez] =>
      axisLinks ((t.extractLsb' 12 3).toNat + 1) ex + axisLinks ((t.extractLsb' 15 3).toNat + 1) ey
        + axisLinks ((t.extractLsb' 18 3).toNat + 1) ez
    | _ => 0

/-- QERR raised, saturating (R407). -/
def State.addQerr (s : State) (p n : Nat) : State :=
  let k := s.pkg p
  s.setPkg p { k with qerr := BitVec.ofNat 32 (min 0xFFFFFFFF (k.qerr.toNat + n)) }

/-- One snapshot of a launch applied, if it has not been: pages not mapped are counted and skipped (R419). -/
def applySnap (l : Nat) (x : Launch) (a : State × List Snap) (n : Snap) : State × List Snap :=
  match n.inval with
  | some _ => (a.1, a.2 ++ [n])
  | none =>
    let (s, xs) := n.pages.foldl (fun (b : State × List Xlation) va =>
      match b.1.setCow (launchPkg l) x.queue x.root va with
      | some (s, xs) => (s, b.2 ++ xs)
      | none => (b.1.addQerr (launchPkg l) 1, b.2)) (a.1, [])
    (s, a.2 ++ [{ n with inval := some xs }])

/-- The snapshots ordered for a launch applied: COW set, the pages' invalidation begun (R419). -/
def State.applySnaps (s : State) (l : Nat) : State :=
  let x := s.launch l
  let (s, ns) := x.snaps.foldl (applySnap l x) (s, [])
  s.setLaunch l { s.launch l with snaps := ns }

/-- Whether the snapshots ordered for a launch are applied and their invalidations complete (R252, R419). -/
def State.snapsDone (s : State) (l : Nat) : Bool := (s.launch l).snaps.all fun n => n.inval.any s.quiet

/-- The snapshots of a launch over: PENDING handles walk again (R252). -/
def State.endSnaps (s : State) (l : Nat) : State :=
  if (s.launch l).snaps.isEmpty then s
  else
    let s := s.setLaunch l { s.launch l with snaps := [] }
    s.rewalk (s.launch l).queue

/-- What comes after the snapshots of some launches: first they are applied, and while an invalidation of one is under way nothing
else happens (R419). DEDUCED, log 12. -/
def afterSnaps (ls : List Nat) (next : State → State) (s : State) : State :=
  if ls.all s.snapsDone then next (ls.foldl State.endSnaps s) else ls.foldl State.applySnaps s

/-- The tick of the last arrival of some cores at a barrier, the present one where an ended core may have come to count only now
(R232, R234). -/
def State.lastArrival (s : State) (cs : List Nat) : Nat :=
  (cs.map fun c => if (s.core c).run == .ended then s.now else (s.core c).arrAt).foldl max 0

/-- BARRIER_RELEASE (R232, R233, R419): every participant has arrived, and what the pumphouse pushed for the launch before the
last of them arrived is complete. `n` is a cluster, or a launch of the crest's barrier. DESIGN CHOICE, log 3. -/
def barrierRelease (global : Bool) (n : Nat) (s : State) : State :=
  if global then
    let ps := s.parts n
    let cs := ps.flatMap s.placedCores
    if cs.any (fun c => (s.core c).arrG) && cs.all (s.arrived true)
        && !s.engineHolds fun p => p.host && ps.contains p.lid && decide (p.at' < s.lastArrival cs) then
      afterSnaps ps (fun s =>
        let t := s.now + 960 + 480 * s.launchLinks n
        cs.foldl (fun s c => s.setCore c ((s.core c).release true t)) s) s
    else s
  else
    let cs := clusterCores n
    if cs.any (fun c => (s.core c).arrC) && cs.all (s.arrived false) then
      let s := s.setCluster n { s.cluster n with barcs := (s.cluster n).barcs + 1 }
      cs.foldl (fun s c => s.setCore c ((s.core c).release false (s.now + 12))) s
    else s

/-! Walks (R249, R250). -/

/-- The end of a walk for one of its requesters: the translation enters the requester's TLB, and is kept for the access that waits
for it; or the failure is noted for it. DEDUCED, log 10. -/
def walkDone (space : Nat) (s : State) (who : WalkFor) (va : W64) (r : Option Xlation) : State :=
  let page := (space, va.toNat / 65536)
  match who with
  | .handle c h =>
    let k := s.core c
    let hd := k.regs.handle h
    if hd.state != .pending || hd.va != va then s
    else
      match r with
      | none => s.setCore c { k with regs := k.regs.setHandle h { hd with state := .faulted } }
      | some x =>
        s.setCore c { k with
          regs := k.regs.setHandle h { hd with state := .valid, page := x }, htlb := tlbPut 256 k.htlb x }
  | .copy q =>
    match r with
    | none => s.setCluster q { s.cluster q with cbad := (s.cluster q).cbad ++ [page] }
    | some x =>
      let k := (s.cluster q).fillTlb x
      s.setCluster q { k with got := noteGot k.got x, cbad := k.cbad.filter (· != page) }
  | .engine f =>
    match r with
    | none => s.setDie f { s.die f with ebad := (s.die f).ebad ++ [page] }
    | some x =>
      let d := s.die f
      s.setDie f { d with etlb := tlbPut 1024 d.etlb x, got := noteGot d.got x, ebad := d.ebad.filter (· != page) }
  | .overlay c =>
    match r with
    | none => s.setCore c { s.core c with ibad := (s.core c).ibad ++ [page] }
    | some x => s.setCore c { s.core c with itlb := tlbPut 32 (s.core c).itlb x }

/-- WALK_END (R250): one of the walks in the 64 entries of a die's walker queue ends, for every miss that has joined it. -/
def walkEnd (f i : Nat) (s : State) : State :=
  let d := s.die f
  match d.walks[i]? with
  | none => s
  | some w =>
    if 64 ≤ i then s
    else
      w.who.foldl (fun t q => walkDone w.space t q.1 q.2 (s.walk (diePkg f) w.space w.root q.2.toNat))
        ((s.setDie f { d with walks := removeAt d.walks i }).meetWalk (diePkg f) w.root w.va.toNat)

/-! Overlay loads (R417, R418). -/

/-- What stops the reading of a stream: a page whose walk has not ended, or a page whose walk has failed. -/
inductive OvlStop where
  | walk (page : Nat) | failed
deriving DecidableEq, Repr

/-- The translation of a place in an overlay stream through the core's instruction/overlay TLB (R249). -/
def ovlXlate (c : Nat) (s : State) (va : Nat) : Except OvlStop Xlation :=
  match s.look (s.core c).itlb (s.core c).ibad (corePkg c) (s.space c).1 (s.space c).2 va with
  | .hit e => .ok e
  | .miss => .error (.walk (va / 65536))
  | .failed => .error .failed

/-- A byte of an overlay stream. -/
def ovlByte (c : Nat) (s : State) (va : Nat) : Except OvlStop Byte :=
  (ovlXlate c s va).map fun e =>
    let (src, p) := e.at (va - e.base)
    (s.delivered src p 1).headD 0

/-- Bytes of an overlay stream. -/
def ovlBytes (c : Nat) (s : State) (va n : Nat) : Except OvlStop (List Byte) :=
  (List.range n).mapM fun i => ovlByte c s (va + i)

/-- A little-endian number of an overlay stream. -/
def ovlNum (c : Nat) (s : State) (va n : Nat) : Except OvlStop Nat := (ovlBytes c s va n).map natOfBytes

/-- The words that a part of a body expands to, where it ends, and whether an index lies past the dictionary. -/
structure OvlPart where
  words : List W64
  stop  : Nat
  past  : Bool

/-- One more word before a part. -/
def OvlPart.cons (w : W64) (past : Bool) (p : OvlPart) : OvlPart := { p with words := w :: p.words, past := past || p.past }

/-- The items of one group. DESIGN CHOICE, log 25. -/
def ovlItems (c : Nat) (s : State) (dict nd ctl : Nat) : Nat → Nat → Nat → Except OvlStop OvlPart
  | 0, _, va => .ok ⟨[], va, false⟩
  | n + 1, i, va => do
    if ctl.testBit i then
      let x ← ovlNum c s va 1
      let w ← if x < nd then (ovlNum c s (dict + 8 * x) 8).map (BitVec.ofNat 64) else .ok (Config.ovlWord dict x)
      return (← ovlItems c s dict nd ctl n (i + 1) (va + 1)).cons w (decide (nd ≤ x))
    else
      let w ← ovlNum c s va 8
      return (← ovlItems c s dict nd ctl n (i + 1) (va + 8)).cons (BitVec.ofNat 64 w) false

/-- The groups of a body; `fuel` bounds them. DESIGN CHOICE, log 25. -/
def ovlGroups (c : Nat) (s : State) (dict nd : Nat) : Nat → Nat → Nat → Except OvlStop OvlPart
  | 0, _, va => .ok ⟨[], va, false⟩
  | fuel + 1, left, va =>
    if left == 0 then .ok ⟨[], va, false⟩
    else do
      let ctl ← ovlNum c s va 1
      let g ← ovlItems c s dict nd ctl (min 8 left) 0 (va + 1)
      let rest ← ovlGroups c s dict nd fuel (left - 8) g.stop
      return { words := g.words ++ rest.words, stop := rest.stop, past := g.past || rest.past }

/-- An overlay stream's header (R417). -/
structure OvlHeader where
  crc  : BitVec 32
  nw   : Nat
  toff : Nat
  nd   : Nat
  sf   : Nat
  id   : BitVec 32
  zero : Bool

/-- The header's 32 bytes read. -/
def ovlHeader (bs : List Byte) : OvlHeader :=
  let n := fun (lo k : Nat) => natOfBytes ((bs.drop lo).take k)
  { crc := BitVec.ofNat 32 (n 0 4), nw := n 4 2, toff := n 6 2, nd := n 8 2, sf := n 10 1, id := BitVec.ofNat 32 (n 12 4)
    zero := n 11 1 == 0 && n 16 16 == 0 }

/-- Whether a header keeps its limits (R417). -/
def OvlHeader.ok (h : OvlHeader) : Bool :=
  1 ≤ h.nw && h.nw ≤ 4096 && h.sf < 2 && h.zero && h.nd ≤ 256 && (h.sf == 1 || h.nd == 0)

/-- A stream's header and its body. One whose header breaks its limits has no body. DESIGN CHOICE, log 25. -/
def ovlStream (c : Nat) (s : State) (va : Nat) : Except OvlStop (OvlHeader × OvlPart) := do
  let h := ovlHeader (← ovlBytes c s va 32)
  let dict := va + 32
  let body := dict + 8 * h.nd
  if !h.ok then return (h, ⟨[], va + 32, false⟩)
  else if h.sf == 1 then
    let _ ← ovlBytes c s dict (8 * h.nd)
    return (h, ← ovlGroups c s dict h.nd h.nw h.nw body)
  else
    let ws ← (List.range h.nw).mapM fun i => (ovlNum c s (body + 8 * i) 8).map (BitVec.ofNat 64)
    return (h, ⟨ws, body + 8 * h.nw, false⟩)

/-- Whether a place in an overlay stream lies in a page that lacks X. -/
def ovlNoX (c : Nat) (s : State) (va : Nat) : Bool :=
  match ovlXlate c s va with
  | .ok e => !leafX e.leaf
  | .error _ => false

/-- What an overlay load comes to: a page still to be walked, a status with nothing expanded, or words (R418). -/
inductive OvlRun where
  | walk (page : Nat)
  | small (status : Nat)
  | expand (h : OvlHeader) (p : OvlPart)

/-- What an overlay load does, its pages all walked first: a failed walk, a page without X, a header that breaks a rule, a
resident stream, or an expansion (R418). -/
def ovlRun (c : Nat) (s : State) (o : OvlPend) : OvlRun :=
  let k := s.core c
  match ovlStream c s o.va.toNat with
  | .error (.walk p) => .walk p
  | .error .failed => .small 3
  | .ok (h, p) =>
    if (pagesOf o.va.toNat (p.stop - o.va.toNat)).any fun g => ovlNoX c s (g * 65536) then .small 4
    else if !h.ok || h.id != k.image || h.toff < (s.launch k.launch).desc.nres || 4096 < h.toff + h.nw then .small 5
    else if (if o.half then k.tagB else k.tagA) == some ⟨h.id, h.crc⟩ then .small 1
    else .expand h p

/-- The lines of a run of an overlay stream read at the slice: errors found, saturations counted (R264, R451). -/
def ovlRead (c va n : Nat) (s : State) : State :=
  (nubNat ((List.range n).map fun i => (va + i) / 128)).foldl (fun s l =>
    match ovlXlate c s (l * 128) with
    | .ok e => let (src, p) := e.at (l * 128 - e.base); s.readLine (s.core c).launch src (p / 128)
    | .error _ => s) s

/-- The bytes of words. -/
def wordBytes (ws : List W64) : List Byte := ws.flatMap (bytesOf 8)

/-- CRC-32C of a run of bytes (R183). -/
def crc32c (bs : List Byte) : BitVec 32 := crcBytes 0xFFFFFFFF bs ^^^ 0xFFFFFFFF

/-- A half's tag set. -/
def Core.setTag (k : Core) (half : Bool) (t : Option HalfTag) : Core :=
  if half then { k with tagB := t } else { k with tagA := t }

/-- The first word of a half. -/
def halfBase (half : Bool) : Nat := if half then 4096 else 0

/-- The CRC that the part computes over expanded words. Where an index lies past the dictionary the words are open, and the
sum differs from the header's (R431). DESIGN CHOICE, log 25. -/
def ovlCrc (h : OvlHeader) (p : OvlPart) : BitVec 32 :=
  let crc := crc32c (wordBytes p.words)
  if p.past && crc == h.crc then ~~~crc else crc

/-- The load `o`, first of a core's, ends: the half, its tag, and `s[RD]` (R418). -/
def ovlFinish (c : Nat) (o : OvlPend) (s : State) : State :=
  let k := s.core c
  let b := halfBase o.half
  let nres := (s.launch k.launch).desc.nres
  let (st, crc, nw, ispm, tag, len) : Nat × BitVec 32 × Nat × Store 64 × Option HalfTag × Nat := match ovlRun c s o with
    | .expand h p =>
      (if ovlCrc h p == h.crc then 0 else 2, ovlCrc h p, h.nw, k.ispm.writeRun (b + h.toff) p.words, some ⟨h.id, h.crc⟩,
        p.stop - o.va.toNat)
    | .small st => (st, 0, 0, k.ispm, none, if st == 3 then 0 else 32)
    | .walk _ => (3, 0, 0, k.ispm, none, 0)
  let s := ovlRead c o.va.toNat len s
  let k := s.core c
  let k := if 2 ≤ st then
      ({ k with ispm := ispm.clearRange (b + nres) (b + 4096) } : Core).setTag o.half none
    else if st == 0 then ({ k with ispm } : Core).setTag o.half tag else k
  let v := BitVec.ofNat 64 (crc.toNat * 2 ^ 32 + nw * 2 ^ 16 + st)
  s.setCore c (({ k with ovls := k.ovls.drop 1, ibad := [] } : Core).landAt 0 (.scalar o.rd) [v.zeroExtend 1024])

/-- The dirty bytes of stores before an overlay load on their way down: it reads them at the slices (R41, R293). -/
def ovlDown (c : Nat) (o : OvlPend) (s : State) : State :=
  if o.due == 0 then s.setCore c ((s.core c).queueDown o.seq fun _ => true) else s

/-- Whether a store that comes before an overlay load has not reached memory yet (R41, R293). -/
def Core.storesTo (k : Core) (seq : Nat) : Bool :=
  k.outq.any fun e => decide (e.seq ≤ seq) && match e.eff with
    | .store _ _ _ _ _ => true
    | _ => false

/-- OVL_END (R418): the oldest overlay load of a core lets the stores before it reach memory, has its pages walked, then reads its
header; one that expands ends when its time is over. -/
def ovlEnd (c : Nat) (s : State) : State :=
  match (s.core c).ovls with
  | [] => s
  | o :: os =>
    let s := ovlDown c o s
    let k := s.core c
    if o.due == 0 && k.storesTo o.seq then s
    else match ovlRun c s o with
    | .walk p =>
      s.queueWalk (coreDie c) (s.space c).1 (s.space c).2 (BitVec.ofNat 64 (p * 65536)) (.overlay c)
    | .small _ => ovlFinish c o s
    | .expand h _ =>
      if o.due == 0 then s.setCore c { k with ovls := { o with due := s.now + 200 + (h.nw + 1) / 2 } :: os }
      else if o.due ≤ s.now then ovlFinish c o s
      else s

/-! The meanings. -/

/-- BUNDLE_ISSUE (R32). -/
def execBundleIssue (core : Nat) (s : State) : Host.Outcome State Fault Refusal := .next (issueBundle core s)
/-- SAT_SIGNAL_APPLY (R32, R33). -/
def execSatSignalApply (core : Nat) (s : State) : Host.Outcome State Fault Refusal := .next (satSignalApply core s)
/-- SCALAR_RESULT_LAND (R119). -/
def execScalarResultLand (core idx : Nat) (s : State) : Host.Outcome State Fault Refusal :=
  .next (drain core (landStep core LandKind.isScalar idx s))
/-- ROW_RESULT_LAND (R153). -/
def execRowResultLand (core idx : Nat) (s : State) : Host.Outcome State Fault Refusal :=
  .next (drain core (landStep core LandKind.isRow idx s))
/-- SCRATCHPAD_LOAD_LAND (R223). -/
def execScratchpadLoadLand (core idx : Nat) (s : State) : Host.Outcome State Fault Refusal :=
  .next (drain core (landStep core (· == .load) idx s))
/-- ATOMIC_RETURN (R281). -/
def execAtomicReturn (core idx : Nat) (s : State) : Host.Outcome State Fault Refusal :=
  .next (drain core (landStep core LandKind.isAtomic idx s))
/-- SAMPLE_LAND (R286). -/
def execSampleLand (core idx : Nat) (s : State) : Host.Outcome State Fault Refusal :=
  .next (drain core (landStep core (· == .sample) idx s))
/-- WALK_END (R250). -/
def execWalkEnd (die idx : Nat) (s : State) : Host.Outcome State Fault Refusal := .next (walkEnd die idx s)
/-- BANK_WAKE (R147). -/
def execBankWake (core : Nat) (s : State) : Host.Outcome State Fault Refusal := .next (bankWake core s)
/-- PORT_RESULT_READY (R178). -/
def execPortResultReady (core port : Nat) (s : State) : Host.Outcome State Fault Refusal :=
  .next (s.setCore core (portReady port s.now (s.core core)))
/-- MMA_RETIRE (R187). -/
def execMmaRetire (core : Nat) (s : State) : Host.Outcome State Fault Refusal := .next (drain core (mmaRetire core s))
/-- M_OUTPUT_LAND (R202 to R204). -/
def execMOutputLand (core idx : Nat) (s : State) : Host.Outcome State Fault Refusal :=
  .next (drain core (mOutputLand core idx s))
/-- LDSC_WRITE_LAND (R211). -/
def execLdscWriteLand (core : Nat) (s : State) : Host.Outcome State Fault Refusal :=
  .next (s.landed core)
/-- STORE_REACHES_BANK (R223). -/
def execStoreReachesBank (core idx : Nat) (s : State) : Host.Outcome State Fault Refusal :=
  .next (drain core (storeReachesBank core idx s))
/-- STORE_REACHES_POINT_OF_COHERENCE (R290). -/
def execStoreReachesPointOfCoherence (core idx : Nat) (s : State) : Host.Outcome State Fault Refusal :=
  .next (drain core (storeReachesPoc core idx s))
/-- GLOBAL_LOAD_RETURN (R279). -/
def execGlobalLoadReturn (core idx : Nat) (s : State) : Host.Outcome State Fault Refusal :=
  .next (drain core (globalLoadReturn core idx s))
/-- SEND_ARRIVAL (R237). -/
def execSendArrival (core idx : Nat) (s : State) : Host.Outcome State Fault Refusal :=
  .next (drain core (sendArrival core idx s))
/-- BARRIER_RELEASE (R232). -/
def execBarrierRelease (global : Bool) (n : Nat) (s : State) : Host.Outcome State Fault Refusal :=
  .next (barrierRelease global n s)
/-- OVL_END (R418). -/
def execOvlEnd (core : Nat) (s : State) : Host.Outcome State Fault Refusal := .next (drain core (ovlEnd core s))

end Sys2Proof.Machine
end

