-- ==== Sys2Proof/Machine/Queues.lean ====
section
/-! DEFINITION. The words of the command queues (R399, R403 to R405), the waits of their queues (R401), and the queue
semaphores (R407). -/

namespace Sys2Proof.Machine

/-- The package of a queue. -/
def queuePkg (q : Nat) : Nat := q / 64

/-- The words between HEAD and TAIL. -/
def Queue.waiting (k : Queue) : Nat := (k.tail - k.head).toNat

/-! A word's units (R403 to R405). -/

/-- A unit of a queue's ring. -/
def State.ringUnit (s : State) (q i : Nat) : W64 :=
  let k := s.queue q
  BitVec.ofNat 64 (s.word (queuePkg q * 2 ^ 42 + k.base.toNat * 4096 + 8 * ((k.head.toNat + i) % 2 ^ k.log2.toNat)) 8)

/-- The dies that a header names. -/
def headerDies (h : W64) : List Nat := (List.range 8).filter fun d => h.getLsbD (1 + d)
/-- Whether a header has a control slot. -/
def headerCtl (h : W64) : Bool := h.getLsbD 0
/-- Whether a header is a SYNC word. -/
def headerSync (h : W64) : Bool := h.getLsbD 9

/-- The units of a word. -/
def wordUnits (h : W64) : Nat := 1 + (if headerCtl h then 2 else 0) + 3 * (headerDies h).length

/-- Whether a header is reserved (R403). -/
def headerBad (h : W64) : Bool :=
  h.extractLsb' 10 54 != 0 || (!headerCtl h && (headerDies h).isEmpty) || (headerSync h && (headerDies h).length < 2)

/-- A control slot's fields. -/
structure Ctrl where
  opc : Nat
  a   : Nat
  b   : Nat
  c   : Nat
  v   : W64

/-- A control slot read from its two words. -/
def ctrlOf (w0 w1 : W64) : Ctrl :=
  { opc := (w0.extractLsb' 0 8).toNat, a := (w0.extractLsb' 8 8).toNat, b := (w0.extractLsb' 16 16).toNat
    c := (w0.extractLsb' 32 32).toNat, v := w1 }

/-- Whether a control slot holds a reserved value (R404). -/
def ctrlBad (x : Ctrl) : Bool :=
  let lidOnly := x.a != 0 || x.b != 0 || x.c != 0 || 65535 < x.v.toNat
  match x.opc with
  | 0x00 | 0x0A => x.a != 0 || x.b != 0 || x.c != 0 || x.v != 0
  | 0x01 | 0x05 => x.a != 0 || x.b != 0 || x.c != 0
  | 0x02 => 1 < x.b || x.v != 0
  | 0x03 => x.b != 0 || x.c == 0 || x.v != 0
  | 0x04 => 48 ≤ x.b || x.c == 0 || 65535 < x.c || 65535 < x.v.toNat
  | 0x06 | 0x09 => lidOnly
  | 0x07 => x.a != 0
  | 0x08 => x.a != 0 || x.b != 0 || x.v.toNat % 65536 != 0
  | 0x0B => x.a != 0 || x.b != 0 || x.c != 0 || x.v.toNat % 8 != 0
  | _ => true

/-- A die slot's fields. -/
structure DieSlot where
  eng  : Nat
  cl   : Nat
  sc   : Nat
  lid  : Nat
  zero : Bool
  va   : Nat
  opnd : W64

/-- A die slot read from its three words. -/
def dieSlotOf (w0 w1 w2 : W64) : DieSlot :=
  { eng := (w0.extractLsb' 0 2).toNat, cl := (w0.extractLsb' 2 3).toNat, sc := (w0.extractLsb' 5 3).toNat
    lid := (w0.extractLsb' 16 16).toNat, zero := w0.extractLsb' 8 8 == 0 && w0.extractLsb' 32 32 == 0, va := w1.toNat
    opnd := w2 }

/-- Whether a die slot holds a reserved value (R405). -/
def dieSlotBad (x : DieSlot) : Bool :=
  x.eng == 3 || 6 ≤ x.cl || (x.eng != 0 && x.cl != 0) || x.sc < 2 || 5 < x.sc || !x.zero || x.va % 128 != 0

/-- The control slot of the word in progress. -/
def Queue.ctrl (k : Queue) : Ctrl := ctrlOf (k.word.getD 1 0) (k.word.getD 2 0)

/-- The `i`-th die slot of the word in progress. -/
def Queue.slotAt (k : Queue) (i : Nat) : DieSlot :=
  let n := (if headerCtl (k.word.headD 0) then 3 else 1) + 3 * i
  dieSlotOf (k.word.getD n 0) (k.word.getD (n + 1) 0) (k.word.getD (n + 2) 0)

/-- Whether a word holds a reserved value (R400). -/
def Queue.wordBad (k : Queue) : Bool :=
  let h := k.word.headD 0
  headerBad h || (headerCtl h && ctrlBad k.ctrl) || (List.range (headerDies h).length).any fun i => dieSlotBad (k.slotAt i)

/-! Waits (R401). -/

/-- The key of a launch that a queue names by LID. -/
def lidKey (q lid : Nat) : Nat := queuePkg q * 65536 + lid

/-- The command of a die slot, as a queue entry. -/
def slotPush (q die : Nat) (x : DieSlot) (line : Row) : Push :=
  { q := x.eng, core := queuePkg q * 384 + die * 48 + x.cl * 8, lid := lidKey q x.lid, kind := elem 8 line.toNat 0, line
    opnd := x.opnd, mask := 0, sc := x.sc, res := false, scout := 8, host := true }

/-- Whether an engine queue has room for a launch's command (R313, R346). -/
def State.roomFor (s : State) (p : Push) : Bool :=
  0 < s.roomIn p.q (pushTarget p.core p.q) p.lid

/-- Whether the wait of a queue's word in progress would pass (R401). -/
def waitOver (s : State) (q : Nat) : Bool :=
  let k := s.queue q
  if !k.ctlDone then
    match k.ctrl.opc with
    | 0x02 => k.ctrl.c ≤ ((s.pkg (queuePkg q)).qsem.read k.ctrl.a).toNat
    | 0x05 => k.ctrl.v.toNat ≤ (s.tbase (queuePkg q)).toNat
    | _ => false
  else
    match k.dies with
    | [] => false
    | d :: _ =>
      let i := (headerDies (k.word.headD 0)).length - k.dies.length
      s.roomFor (slotPush q d (k.slotAt i) 0)

/-- The queues of a package. -/
def pkgQueues (p : Nat) : List Nat := (List.range 64).map fun i => p * 64 + i

/-- The waits of every queue of a package tested: a queue whose wait is satisfied becomes READY, and nothing is subtracted
(R401). -/
def testQueues (p : Nat) (s : State) : State :=
  (pkgQueues p).foldl (fun s q =>
    let k := s.queue q
    if k.blocked && !k.word.isEmpty && waitOver s q then s.setQueue q { k with blocked := false, since := s.ticks p } else s) s

/-- A queue semaphore raised, saturating and counted, and the waits tested (R401, R404, R407). -/
def State.incQsem (s : State) (p n v : Nat) : State :=
  let k := s.pkg p
  let w := (k.qsem.read n).toNat + v
  let s := testQueues p (s.setPkg p { k with qsem := k.qsem.write n (BitVec.ofNat 32 (min 0xFFFFFFFF w)) })
  if 0xFFFFFFFF < w then s.addQerr p 1 else s

end Sys2Proof.Machine
end

