-- ==== Sys2Proof/Machine/Launch.lean ====
section
/-! DEFINITION. Launches: descriptors and images (R408 to R410, R327), placement and entry (R411 to R414), end and
completion (R415, R416), pre-emption (R420 to R422), traps answered (R424 to R427), kills (R428). -/

namespace Sys2Proof.Machine

/-! Descriptors and images. -/

/-- A number of bytes lo to lo + n − 1 of a run. -/
def byteNum (bs : List Byte) (lo n : Nat) : Nat := natOfBytes ((bs.drop lo).take n)

/-- Whether bytes lo to lo + n − 1 of a run are zero. -/
def byteZero (bs : List Byte) (lo n : Nat) : Bool := byteNum bs lo n == 0

/-- A descriptor (R408) and its image's header (R409), read from their bytes. -/
def launchDesc (d h : List Byte) : LaunchDesc where
  image := byteNum d 0 4
  entry := byteNum d 6 2
  imgVa := byteNum d 8 8
  cmask := BitVec.ofNat 48 (byteNum d 16 6)
  pri := byteNum d 22 1 % 8
  pre := (byteNum d 22 1).testBit 3
  sluice := (byteNum d 22 1).testBit 5
  fabric := (byteNum d 22 1).testBit 6
  tiles := if byteNum d 23 1 == 0 then byteNum h 8 1 else byteNum d 23 1
  detect := if byteNum d 24 1 == 0 then byteNum h 9 1 == 1 else byteNum d 24 1 == 2
  csem := byteNum d 25 1
  plslot := (List.range 8).map fun m => byteNum d (28 + m) 1
  drain := byteNum d 36 4
  wdog := byteNum d 40 4
  start := BitVec.ofNat 64 (byteNum d 48 8)
  crec := byteNum d 56 8
  ctx := byteNum d 64 8
  ctxLen := byteNum d 72 8
  args := (List.range 4).map fun i => BitVec.ofNat 64 (byteNum d (80 + 8 * i) 8)
  box := (List.range 6).map fun i => byteNum d (112 + i) 1
  nres := byteNum h 4 2
  na := byteNum h 6 2
  crc := BitVec.ofNat 32 (byteNum h 36 4)
  code := byteNum h 16 8
  data := byteNum h 24 8
  dlen := byteNum h 32 4
  rings := byteNum h 48 8

/-- The limits of a descriptor's fields (R408, R410), but for the uniqueness of its LID. -/
def descOk (d : List Byte) : Bool :=
  let x := launchDesc d []
  byteNum d 0 4 != 0 && byteNum d 4 2 != 0 && x.imgVa % 4096 == 0 && x.cmask != 0 && byteNum d 22 1 < 128
    && byteNum d 23 1 ≤ 128 && byteNum d 24 1 ≤ 2 && 3 ≤ byteNum d 26 1 && byteNum d 26 1 ≤ 5 && byteZero d 27 1
    && x.plslot.all (· ≤ 16) && byteZero d 44 4 && x.crec % 64 == 0 && x.ctx % 65536 == 0 && (!x.pre || x.ctx != 0)
    && (!x.pre || 2 ^ 20 + 2176 * 1024 * (8 * popCount 48 x.cmask.toNat) ≤ byteNum d 72 8)
    && (if x.fabric then ((x.box.take 3).all (· ≤ 7)) && (x.box.drop 3).all (fun e => 1 ≤ e && e ≤ 8)
        else byteZero d 112 6)
    && byteZero d 118 10

/-- The limits of an image header's fields (R409), and of the descriptor's fields that depend on it. -/
def headerOk (d h : List Byte) : Bool :=
  let x := launchDesc d h
  byteNum h 0 4 == byteNum d 0 4 && x.nres ≤ 4095 && x.nres + x.na ≤ 4096 && 1 ≤ byteNum h 8 1 && byteNum h 8 1 ≤ 128
    && byteNum h 9 1 ≤ 1 && byteZero h 10 6 && x.code % 8 == 0 && x.dlen ≤ 0x180000
    && x.nres ≤ x.entry && x.entry < x.nres + x.na

/-- The extents of the fabric in dies along an axis (R17, R19). -/
def fabricDies (t : BitVec 21) (axis : Nat) : Nat := 2 * ((t.extractLsb' (12 + 3 * axis) 3).toNat + 1)

/-- The rules of a field descriptor (R326, R327). -/
def fieldOk (t : BitVec 21) (d : FieldDesc) : Bool :=
  let whole := d.t * d.h * d.w * d.c * d.es
  let boxOk := d.ox + d.gw ≤ fabricDies t 0 && d.oy + d.gh ≤ fabricDies t 1 && d.oz + d.gt ≤ fabricDies t 2
  d.unset || (d.layout ≤ 3 && d.fmt.toNat ≤ 0x0C && d.base % 128 == 0 &&
    match d.layout with
    | 0 => d.group == 1 && d.halo == 0 && d.pstride == 0
    | 1 => d.t % d.gt == 0 && d.h % d.gh == 0 && d.w % d.gw == 0
        && d.haloOf 0 ≤ d.tp && d.haloOf 1 ≤ d.tp && d.haloOf 2 ≤ d.hp && d.haloOf 3 ≤ d.hp
        && d.haloOf 4 ≤ d.wp && d.haloOf 5 ≤ d.wp && boxOk && d.polderBytes ≤ d.pstride
    | 2 => d.nh != 0 && d.nh % d.group == 0 && d.c % d.nh == 0 && whole ≤ d.pstride * d.group && boxOk
    | _ => whole ≤ d.pstride && boxOk)

/-- Whether a page range of a queue's space walks and permits what is needed. -/
def State.rangeOk (s : State) (p space root va n : Nat) (need : W64 → Bool) : Bool :=
  (s.rangeXlate p space root va n need).isSome

/-- The bits of a descriptor's word that hold a field; the others read zero (R326). -/
def fieldMask (w : Nat) : W64 :=
  match w with
  | 2 => 0x0FFF0FFFFFFFFFFF
  | 3 => 0x0000FFFFFFFFFFFF
  | _ => 0xFFFFFFFFFFFFFFFF

/-- The sixteen descriptors of an image as words. -/
def imageFds (fs : List Byte) : Store 64 :=
  (List.range 64).foldl (fun t i => t.write i (BitVec.ofNat 64 (byteNum fs (8 * i) 8) &&& fieldMask (i % 4))) []

/-- What reading a LAUNCH gives: no descriptor, a refusal, or a launch admitted. -/
inductive Admission where
  | unread | refused (l : Nat) (x : Launch) | admitted (l : Nat) (x : Launch)

/-- The bytes of a run of a queue's space, where every page of it permits what is needed. -/
def State.vaBytes (s : State) (p space root va n : Nat) (need : W64 → Bool) : Option (List Byte) :=
  (s.readVa p space root va n need).map (·.2.2)

/-- Whether a launch's LID is in use: it waits, is placed, or is saved (R408). -/
def Launch.holds (x : Launch) : Bool := x.phase == .waiting || x.phase == .placed || x.phase == .saved

/-- A launch read from the descriptor at a virtual address of a queue's space (R408 to R410). -/
def readLaunch (s : State) (q va : Nat) : Admission :=
  let p := q / 64
  let root := (s.queue q).root.toNat * 8192
  match s.vaBytes p q root va 128 leafR with
  | none => .unread
  | some d =>
    let lid := byteNum d 4 2
    let l := p * 65536 + lid
    let base : Launch := { lid, queue := q, root, csc := byteNum d 26 1, desc := launchDesc d [] }
    match s.vaBytes p q root (byteNum d 8 8) 64 leafR with
    | none => .refused l base
    | some h =>
      let x := launchDesc d h
      let b := x.imgVa
      if (s.launch l).holds || !descOk d || !headerOk d h
          || !s.rangeOk p q root (b + x.code) (8 * (x.nres + x.na)) leafX
          || !s.rangeOk p q root (b + x.data) x.dlen leafR || !s.rangeOk p q root (b + x.rings) 64 leafR
          || (byteNum h 56 8 != 0 && !s.rangeOk p q root (b + byteNum h 56 8) 1 leafX)
          || !s.rangeOk p q root x.crec 64 leafW then .refused l { base with desc := x }
      else
        match s.vaBytes p q root (b + byteNum h 40 8) 512 leafR with
        | none => .refused l { base with desc := x }
        | some fs =>
          let fds := imageFds fs
          if (List.range 16).all fun n => fieldOk (s.pkg p).topo (descOf fds n) then
            .admitted l { base with desc := x, fds, strict := (byteNum d 22 1).testBit 4, phase := .waiting }
          else .refused l { base with desc := x }

/-- The errors that the reads of a LAUNCH find, dealt with, and its saturations counted (R264, R451): the descriptor, the header,
the image's field descriptors. DESIGN CHOICE, log 42. -/
def launchReads (q va : Nat) (s : State) : State :=
  let p := q / 64
  let root := (s.queue q).root.toNat * 8192
  match s.vaBytes p q root va 128 leafR with
  | none => s.afterRead p q root va 128
  | some d =>
    let s := s.afterRead p q root va 128
    let h := byteNum d 8 8
    match s.vaBytes p q root h 64 leafR with
    | none => s.afterRead p q root h 64
    | some hb =>
      let s := s.afterRead p q root h 64
      s.afterRead p q root ((launchDesc d hb).imgVa + byteNum hb 40 8) 512

/-! Completion (R415, R416). -/

/-- The completion record of a launch (R416). -/
def recordBytes (s : State) (l : Nat) (x : Launch) (status code : Nat) : List Byte :=
  wordBytes [BitVec.ofNat 64 (status + 256 * code + 2 ^ 48 * x.lid), BitVec.ofNat 64 x.zeroed, x.entryTick,
    s.tbase (launchPkg l), BitVec.ofNat 64 (x.saves + 2 ^ 32 * x.traps), 0, 0, 0]

/-- The completion record written, CSEM raised, and session 0 told (R410, R415, R441). DEDUCED, log 13. DESIGN CHOICE, log 62. -/
def State.complete (s : State) (l : Nat) (x : Launch) (status code : Nat) : State :=
  let p := launchPkg l
  let s := (s.writeVa p x.queue x.root x.desc.crec (recordBytes s l x status code) leafW).getD s
  (s.incQsem p x.desc.csem 1).notify p ⟨1, x.lid, status, x.queue % 64⟩

/-! Placement (R411 to R413). -/

/-- The launches of a package that hold clusters. -/
def State.placedOn (s : State) (p : Nat) : List (Nat × Launch) :=
  s.launches.filter fun e => launchPkg e.1 == p && e.2.phase == .placed

/-- Whether a CMASK names a cluster of a die. -/
def maskDie (m : BitVec 48) (d : Nat) : Bool := m.extractLsb' (6 * d) 6 != 0

/-- Whether a launch fits on its package (R411). -/
def State.fits (s : State) (l : Nat) : Bool :=
  let x := s.launch l
  let on := s.placedOn (launchPkg l)
  on.all (fun e => e.2.desc.cmask &&& x.desc.cmask == 0)
    && (List.range 8).all (fun m =>
        ((on.map fun e => e.2.desc.plslot.getD m 0).foldl (· + ·) 0) + x.desc.plslot.getD m 0 ≤ 16)
    && (!x.desc.sluice || (List.range 8).all fun d => !maskDie x.desc.cmask d
        || ((on.filter fun e => e.2.desc.sluice && maskDie e.2.desc.cmask d).length < 4))

/-- Whether a launch, waiting or saved, is ready (R411, R422). -/
def State.launchReady (s : State) (l : Nat) : Bool :=
  let x := s.launch l
  (x.phase == .waiting || x.phase == .saved) && x.doom.isNone && x.desc.start.toNat ≤ (s.tbase (launchPkg l)).toNat

/-- Whether every part of a launch is ready, alike and fits (R412). -/
def State.placeable (s : State) (l : Nat) : Bool :=
  (s.parts l).all fun m =>
    s.launchReady m && s.fits m && (s.launch m).phase == (s.launch l).phase
      && (s.launch m).desc.image == (s.launch l).desc.image && (s.launch m).desc.start == (s.launch l).desc.start

/-- The effective priority of a ready launch (R411). -/
def State.effPri (s : State) (l : Nat) : Nat :=
  let x := s.launch l
  let w := (s.tbase (launchPkg l)).toNat - max x.desc.start.toNat (x.readyAt.getD 0)
  min 7 (x.desc.pri + w / 160000)

/-- Whether a launch goes before another: effective priority, then START, then queue number (R411). -/
def State.goesFirst (s : State) (a b : Nat) : Bool :=
  let x := s.launch a
  let y := s.launch b
  if s.effPri a != s.effPri b then s.effPri b < s.effPri a
  else if x.desc.start != y.desc.start then x.desc.start.toNat < y.desc.start.toNat
  else x.queue < y.queue

/-- The launch that a package's pumphouse places next. -/
def State.bestLaunch (s : State) (p : Nat) : Option Nat :=
  s.launches.foldl (fun b e =>
    if launchPkg e.1 == p && s.placeable e.1 then
      match b with
      | some l => if s.goesFirst e.1 l then some e.1 else b
      | none => some e.1
    else b) none

/-- Whether a launch is placed next: the pumphouse of each of its parts' packages chooses it (R411, R412). DEDUCED, log 13. -/
def State.chosen (s : State) (l : Nat) : Bool := (s.parts l).all fun m => s.bestLaunch (launchPkg m) == some m

/-- The ticks from the choice of an entry tick to the tick itself, over the dies of every part (R406, R413). -/
def State.entryDelay (s : State) (l : Nat) : Nat :=
  ((s.parts l).flatMap fun m => ((List.range 8).filter (maskDie (s.launch m).desc.cmask)).map fun d =>
    ((s.pkg (launchPkg m)).skew.read d).toNat).foldl max 0 + 16

/-- TBANK at entry (R113, R146). -/
def entryBank (tiles : Nat) : BitVec 16 :=
  BitVec.ofNat 16 ((List.range 8).foldl (fun v b => v + (if 16 * b < tiles then 0 else 2) * 4 ^ b) 0)

/-- The rings at entry (R190). -/
def entryRings (c : Nat) (words : List W64) : Tab Ring :=
  (numbered 0 words).foldl (fun t w =>
    if (w.2.extractLsb' 24 9).toNat == 0 then t
    else t.put w.1 { base := BitVec.ofNat 24 (coreLane c * 2 ^ 21 + (w.2.extractLsb' 0 21).toNat)
                     size := (w.2.extractLsb' 24 9).toNat }) []

/-- A core as placement leaves it (R413): its code, tags, control registers, rings and arguments.
DEDUCED, log 10. DEDUCED, log 11. -/
def enterCore (c l : Nat) (x : Launch) (code rings : List W64) (at' : Nat) (k : Core) : Core :=
  let d := x.desc
  let tag : HalfTag := ⟨BitVec.ofNat 32 d.image, d.crc⟩
  let ispm := if k.tagA == some tag then k.ispm
    else ((k.ispm.writeRun 0 code).clearRange (4096 + d.nres) 8192).writeRun 4096 (code.take d.nres)
  let z := Core.atReset c
  let regs := (numbered 1 d.args).foldl (fun r a => r.wrPhys a.1 a.2) z.regs
  { z with
    run := .placed, launch := l, trap := k.trap, pc := BitVec.ofNat 13 d.entry, mark := BitVec.ofNat 13 d.entry, regs, shadow := regs
    ispm, tagA := some tag, tagB := if k.tagA == some tag then k.tagB else some tag
    image := BitVec.ofNat 32 d.image, ecc := d.detect, tiles := BitVec.ofNat 8 d.tiles, tbank := entryBank d.tiles
    rings := entryRings c rings, ready := at' }

/-- A cluster at entry: scratchpad empty but for the data segment in every lane (R215, R225, R413). DEDUCED, log 10. -/
def enterCluster (l : Nat) (data : List Row) : Cluster :=
  (List.range 8).foldl (fun q lane =>
    (({ q with sp := q.sp.writeRun (lane * 16384) data } : Cluster).setFull (lane * 16384) data.length true))
    { launch := l }

/-- Words of a run of bytes. -/
def wordsAt (bs : List Byte) (n : Nat) : List W64 := (List.range n).map fun i => BitVec.ofNat 64 (byteNum bs (8 * i) 8)

/-- The reads of a launch's image and data at its placement: the errors they find dealt with, their saturations counted (R264, R451). -/
def imageReads (l : Nat) (x : Launch) (s : State) : State :=
  let d := x.desc
  [(d.code, 8 * (d.nres + d.na)), (d.rings, 64), (d.data, d.dlen)].foldl (fun s r =>
    s.afterRead (launchPkg l) x.queue x.root (d.imgVa + r.1) r.2) s

/-- One part of a launch placed: from the first launch on HBM_SPLIT stands (R26). -/
def placePart (delay : Nat) (lord : List Nat) (s : State) (l : Nat) : State :=
  let x := s.launch l
  let p := launchPkg l
  let d := x.desc
  let get := fun (off n : Nat) => (s.vaBytes p x.queue x.root (d.imgVa + off) n fun _ => true).getD []
  let code := wordsAt (get d.code (8 * (d.nres + d.na))) (d.nres + d.na)
  let rings := wordsAt (get d.rings 64) 8
  let data := rowsOfBytes (d.dlen / 128 + 1) (get d.data d.dlen)
  let s := imageReads l x s
  let s := (maskCores p d.cmask).foldl (fun s c =>
    s.setCore c (enterCore c l x code rings (s.now + delay) (s.core c))) s
  let s := ((List.range 48).filter d.cmask.getLsbD).foldl (fun s c => s.setCluster (p * 48 + c) (enterCluster l data)) s
  let s := s.setPkg p { s.pkg p with homeSet := true }
  s.setLaunch l { x with
    phase := .placed, since := s.ticks p + delay, entryTick := s.tbase p + BitVec.ofNat 64 delay, lord, drain := none }

/-- The order key of a launch placed now (R348). -/
def State.lordOf (s : State) (l delay : Nat) : List Nat :=
  let p := ((s.parts l).map launchPkg).foldl min (launchPkg l)
  [(s.tbase p).toNat + delay, p, l % 65536]

/-- LAUNCH_PLACEMENT (R411 to R413): the package's best ready launch, where it waits for its first placement.
DESIGN CHOICE, log 6. -/
def launchPlacement (p : Nat) (s : State) : State :=
  match s.bestLaunch p with
  | none => s
  | some l =>
    if (s.launch l).phase == .waiting && s.chosen l then
      let n := s.entryDelay l
      (s.parts l).foldl (placePart n (s.lordOf l n)) s
    else s

/-! End (R415). -/

/-- Whether everything a core has issued has performed: what it has on its way as well. -/
def Core.idle (k : Core) : Bool :=
  k.settled && k.gated.isEmpty && k.land.isEmpty && k.loads.isEmpty && k.mma.isNone && k.mout.isEmpty && k.sends.isEmpty
    && k.ovls.isEmpty && k.outq.isEmpty && k.regs.ports.all fun p => p.2.wait.isEmpty

/-- CORE_HALT (R415): a core that has retired END halts once its stores have performed and its engine commands ended.
DEDUCED, log 18. -/
def coreHalt (c : Nat) (s : State) : State :=
  let k := s.core c
  if k.run == .ended && k.settled && k.outq.isEmpty && k.satTrap.isEmpty && !s.pushedBy c then
    s.setCore c { k with run := .halted, arrAt := s.now }
  else s

/-- A core freed: its code stays, with its tags, and its trap record (R144, R413, R426). DEDUCED, log 11. -/
def freeCore (c : Nat) (k : Core) : Core :=
  { Core.atReset c with ispm := k.ispm, tagA := k.tagA, tagB := k.tagB, trap := k.trap }

/-- A cluster freed: scratchpad, full bits and semaphores go, CLSTAT stays (R215, R230). -/
def freeCluster (q : Cluster) : Cluster := { barcs := q.barcs, spovr := q.spovr, semovf := q.semovf }

/-- The clusters of a launch's part freed (R415 step 1), and faces on their way to its dies dropped. -/
def freePart (s : State) (l : Nat) : State :=
  let s := { s with berms := s.berms.filter fun m => m.dst / 8 * 65536 + m.lid != l }
  let p := launchPkg l
  let m := (s.launch l).desc.cmask
  let s := (maskCores p m).foldl (fun s c => s.setCore c (freeCore c (s.core c))) s
  ((List.range 48).filter m.getLsbD).foldl (fun s c => s.setCluster (p * 48 + c) (freeCluster (s.cluster (p * 48 + c)))) s

/-- Whether the halt lines of every placed core of a launch have risen. -/
def State.halted (s : State) (l : Nat) : Bool :=
  (s.parts l).all fun m => (s.launch m).phase == .ended || (s.placedCores m).all fun c => (s.core c).run == .halted

/-! Kills (R428). -/

/-- The subtraction of a barrier bundle whose barrier has not released returned with its arrival (R234, R454), and what a test
has taken for a bundle that has not issued. -/
def returnWait (c : Nat) (s : State) : State :=
  let ds := (s.core c).granted.getD []
  let s := retest c ds (s.takeBack c)
  let k := s.core c
  let s := match k.passed with
    | some (n, v) => if k.pass.isNone then s.incSem (coreCluster c) n v else s
    | none => s
  s.setCore c { s.core c with arrC := false, arrG := false, passed := none, waiting := [] }

/-- Whether a committed effect is an engine push. -/
def Effect.isPush : Effect → Bool
  | .push _ => true
  | _ => false

/-- A core's committed pushes that have not entered their queues discarded (R428). -/
def dropPushes (c : Nat) (s : State) : State :=
  let k := s.core c
  let s := s.setCore c { k with outq := k.outq.filter fun o => !o.eff.isPush }
  k.outq.foldl (fun s o => match o.eff with
    | .push p => s.cancelPush p
    | _ => s) s

/-- A core halted by a kill: what is gated goes, and committed pushes that have not entered their queues; everything else that
has committed performs, SAT = 1 signals too (R428). DEDUCED, log 11. DEDUCED, log 43. -/
def killCore (s : State) (c : Nat) : State :=
  let k := s.core c
  let s := dropPushes c s
  if k.run == .placed || k.run == .trapped || k.run == .stopped then
    let s := returnWait c s
    let s := (s.core c).gated.foldl (dropGated c) s
    let k := s.core c
    s.setCore c { k with
      run := .stopped, gated := [], satTrap := []
      trap := if k.run == .trapped then { k.trap with state := 2 } else k.trap }
  else s

/-- The entries of a launch's part that have not started, taken out of their queues and time buffers. -/
def State.dropEntries (s : State) (l : Nat) : State :=
  { s with
    engqs := s.engqs.mapVal fun _ q => { q with entries := q.entries.filter fun p => p.lid != l }
    clusters := s.clusters.mapVal fun _ q => { q with tbuf := q.tbuf.filter fun t => t.push.lid != l } }

/-- Whether a posted command belongs to a collective that has started (R367). -/
def State.startedPush (s : State) (p : Push) : Bool := s.colls.any fun c => c.started && c.pushes.contains p

/-- Numbers in ascending order. -/
def sortNat : List Nat → List Nat
  | [] => []
  | x :: xs => let r := sortNat xs; r.takeWhile (· < x) ++ x :: r.dropWhile (· < x)

/-- The rows that members have granted given back to their pools (R363, R364). -/
def State.releaseRows (s : State) (c : Coll) : State :=
  ((sortNat c.dies).take c.granted).foldl (fun s f => s.setDie f { s.die f with pool := (s.die f).pool + c.need }) s

/-- The collectives of some parts that have not started, withdrawn at every member (R367, R428): their commands are posted
still, and matched no more. -/
def State.withdraw (s : State) (parts : List Nat) : State :=
  let mine := fun (c : Coll) => !c.started && c.pushes.any fun p => parts.contains p.lid
  let s := (s.colls.filter mine).foldl State.releaseRows s
  { s with colls := s.colls.filter fun c => !mine c }

/-- The posted commands of a launch's part that have not started, discarded (R428). -/
def State.dropPosted (s : State) (l : Nat) : State :=
  { s with engqs := s.engqs.mapVal fun _ q =>
      { q with running := q.running.filter fun r => !(r.push.q == 2 && r.push.lid == l && !s.startedPush r.push) } }

/-- The queue entry that a gated push of a saved core holds, freed. -/
def dropReserved (s : State) (g : Gate) : State :=
  match g.eff with
  | .push p =>
    let t := pushTarget p.core p.q
    s.setEngq t ((s.engq t).reserve p.lid false)
  | _ => s

/-- A launch's part that holds no cluster over, and its completion written (R428). DEDUCED, log 12. -/
def endUnplaced (l status code : Nat) (s : State) : State :=
  let x := s.launch l
  let s := ((x.saved.map (·.cores)).getD []).foldl (fun s c => c.2.gated.foldl dropReserved s) s
  (s.setLaunch l { x with phase := .ended, saved := none }).complete l x status code

/-- A kill begins on one part: STATUS and trap code noted, cores halted, entries discarded. A part that holds no cluster ends at
once, where no snapshot is ordered for it. DEDUCED, log 12. DEDUCED, log 43. -/
def killPart (status code : Nat) (s : State) (l : Nat) : State :=
  let x := s.launch l
  match x.phase with
  | .waiting | .saved =>
    if x.snaps.isEmpty then endUnplaced l status code s
    else s.setLaunch l { x with doom := x.doom <|> some (status, code) }
  | .placed =>
    let s := s.setLaunch l { x with doom := x.doom <|> some (status, code) }
    ((((s.placedCores l).foldl killCore s).dropEntries l).withdraw (s.parts l)).dropPosted l
  | _ => s

/-- A kill begins (R428): of a launch whose halt lines have all risen, nothing comes of it.
DEDUCED, log 12. DEDUCED, log 13. DEDUCED, log 43. -/
def State.kill (s : State) (l status code : Nat) : State :=
  if (s.launch l).phase == .placed && s.halted l then s else (s.parts l).foldl (killPart status code) s

/-- The entries of a launch's part that have not started, in queue order. -/
def State.unstarted (s : State) (l : Nat) : List Push :=
  ((s.clusters.flatMap fun q => q.2.tbuf.map (·.push)) ++ s.engqs.flatMap fun q => q.2.entries).filter fun p => p.lid == l

/-- Whether a kill of a launch's part still has something to halt or to discard: a core that has not ended, a push that has not
entered its queue, an entry or a posted command that has not started. -/
def State.killable (s : State) (l : Nat) : Bool :=
  (s.placedCores l).any (fun c => let k := s.core c
    k.run == .placed || k.run == .trapped || k.outq.any fun o => o.eff.isPush)
  || !(s.unstarted l).isEmpty
  || s.engqs.any fun q => q.2.running.any fun r => r.push.q == 2 && r.push.lid == l && !s.startedPush r.push

/-- Whether a part of a launch still has to be killed because another part of it is (R424, R425). -/
def State.spared (s : State) (l : Nat) : Bool :=
  match (s.launch l).phase with
  | .waiting | .saved => true
  | .placed => (s.launch l).doom.isNone
  | _ => false

/-- A launch's part over: freed, and its completion written (R415). -/
def endPart (l status code : Nat) (s : State) : State :=
  let s := freePart s l
  let x := s.launch l
  (s.setLaunch l { x with phase := .ended }).complete l x status code

/-- LAUNCH_END (R415, R428): the launch has ended or been killed, and everything of it has performed; a snapshot still ordered is
applied before (R419). DEDUCED, log 18. DEDUCED, log 43. DEDUCED, log 12. -/
def launchEnd (l : Nat) (s : State) : State :=
  let x := s.launch l
  if x.phase == .waiting || x.phase == .saved then
    match x.doom with
    | some (status, code) => afterSnaps [l] (endUnplaced l status code) s
    | none => s
  else if x.phase != .placed then s
  else
    match x.doom with
    | some (status, code) =>
      if s.killable l || (s.parts l).any s.spared then (s.parts l).foldl (killPart status code) s
      else if (s.placedCores l).all (fun c => (s.core c).idle) && !s.engineHolds fun p => p.lid == l then
        afterSnaps [l] (endPart l status code) s
      else s
    | none =>
      if s.halted l && (s.parts l).all (fun m => (s.launch m).doom.isNone)
          && !(s.engineHolds fun p => p.host && p.lid == l) && !s.pkgs.any fun p => p.2.syncs.any fun y => y.entry.lid == l then
        afterSnaps [l] (endPart l 0x01 0) s
      else s

/-! Drain, save and resume (R420 to R422). -/

/-- A drain begun on every part of a launch (R412, R420). -/
def State.drain (s : State) (l : Nat) : State :=
  (s.parts l).foldl (fun s m =>
    let x := s.launch m
    if x.phase == .placed && x.drain.isNone then s.setLaunch m { x with drain := some (s.ticks (launchPkg m)) } else s) s

/-- Whether a placed launch holds something that a launch needs and cannot have: a cluster, or a share that is used up.
DEDUCED, log 18. -/
def State.blocks (s : State) (l : Nat) (y : LaunchDesc) : Bool :=
  let x := (s.launch l).desc
  let on := s.placedOn (launchPkg l)
  x.cmask &&& y.cmask != 0
    || (List.range 8).any (fun m => x.plslot.getD m 0 != 0 && y.plslot.getD m 0 != 0
        && 16 < ((on.map fun e => e.2.desc.plslot.getD m 0).foldl (· + ·) 0) + y.plslot.getD m 0)
    || (x.sluice && y.sluice && (List.range 8).any fun d => maskDie x.cmask d && maskDie y.cmask d
        && 4 ≤ (on.filter fun e => e.2.desc.sluice && maskDie e.2.desc.cmask d).length)

/-- LAUNCH_DRAIN (R420): a ready launch that cannot fit drains a launch with PRE = 1 and lower PRI that stands in its way; or
the host asks for the drain. DESIGN CHOICE, log 7. -/
def launchDrain (q : DrainReq) (s : State) : State :=
  let l := q.launch
  let x := s.launch l
  let asks := s.launches.any fun e =>
    launchPkg e.1 == launchPkg l && s.launchReady e.1 && !s.fits e.1 && x.desc.pri < e.2.desc.pri && s.blocks l e.2.desc
  if x.phase == .placed && (q.host || (x.desc.pre && asks)) then s.drain l else s

/-- A core halted at its bundle boundary by a forced save: its arrival and the subtraction withdrawn, a mark taken
(R234, R421). A core whose barrier has released issues its barrier bundle first. The dirty bytes of one that a trap has halted are
written down too. DESIGN CHOICE, log 9. -/
def stopCore (s : State) (c : Nat) : State :=
  let k := s.core c
  if k.run == .placed && k.pass.isNone && k.satTrap.isEmpty then
    let s := takeMark c k.pc (returnWait c s)
    let k := s.core c
    drain c (s.setCore c { (k.queueDown k.seq fun _ => true) with run := .stopped, hold := none })
  else if k.run == .trapped then s.setCore c (k.queueDown k.seq fun _ => true)
  else s

/-- Whether nothing of a core is in flight (R421 step 2). What a trap that rolls nothing back has left gated waits for its answer,
and is saved with the core (R311, R427). DESIGN CHOICE, log 9. -/
def Core.calm (k : Core) : Bool := if k.run == .trapped then ({ k with gated := [] } : Core).idle else k.idle

/-- Whether a trap is still to be resolved by the pumphouse itself. -/
def Core.resolving (k : Core) : Bool := k.run == .trapped && k.trap.state == 0

/-- The context area of a part written: what its bytes hold is open (R421 step 3). DESIGN CHOICE, log 9.
DESIGN CHOICE, log 62. -/
def writeContext (s : State) (l : Nat) : State :=
  let x := s.launch l
  let (f, s) := s.fresh
  (s.writeVa (launchPkg l) x.queue x.root x.desc.ctx ((List.range x.desc.ctxLen).map (Config.ctxByte f)) leafW).getD s

/-- The context of one part saved and its resources freed (R421 steps 3 and 4). DESIGN CHOICE, log 9. DESIGN CHOICE, log 63. -/
def savePart (s : State) (l : Nat) : State :=
  let s := writeContext s l
  let x := s.launch l
  let p := launchPkg l
  let cs := (s.placedCores l).map fun c => (c, s.core c)
  let qs := ((List.range 48).filter x.desc.cmask.getLsbD).map fun c => (p * 48 + c, s.cluster (p * 48 + c))
  let runs := s.engqs.flatMap fun q => q.2.running.filter fun r => r.push.lid == l
  let ctx : SavedCtx := { cores := cs, clusters := qs, pushes := s.unstarted l, runs }
  let s := (freePart s l).dropEntries l
  let s := { s with engqs := s.engqs.mapVal fun _ q => { q with running := q.running.filter fun r => r.push.lid != l } }
  s.setLaunch l { x with
    phase := .saved, saved := some ctx, saves := x.saves + 1, drain := none, ran := x.ran + (s.ticks p - x.since)
    readyAt := some (s.tbase p).toNat }

/-- Whether a launch's time to drain has passed (R420). -/
def State.drainOver (s : State) (l : Nat) : Bool :=
  let x := s.launch l
  x.phase == .placed && x.desc.pre && match x.drain with
    | some t => t + 1600 * x.desc.drain ≤ s.ticks (launchPkg l)
    | none => false

/-- Whether a walk for a handle of a core is under way: an XLAT in flight, which completes before a save (R119, R433). -/
def State.walking (s : State) (c : Nat) : Bool :=
  (s.die (coreDie c)).walks.any fun w => w.who.any fun q => match q.1 with
    | .handle d _ => d == c
    | _ => false

/-- The number of exchanges of a descriptor that a die has taken (R338). -/
def State.bermTaken (s : State) (lid die fd : Nat) : Nat :=
  ((s.launch (partKey lid die)).bk.read (die % 8 * 16 + fd)).toNat

/-- Whether an exchange of a die awaits a face from a die whose matching command has not started, or is itself among those
that stop (R342). DEDUCED, log 19. -/
def bermAwaits (s : State) (stops : List (Nat × Nat × Nat)) (die : Nat) (r : Run) : Bool :=
  let x := s.launch (partKey r.push.lid die)
  let fd := lineFd r.push.line
  let d := descOf (s.fds (partKey r.push.lid die)) fd
  match x.bcmds.find? fun b => b.die == die && b.fd == fd && b.k == r.k with
  | none => false
  | some b =>
    (List.range 6).any fun f => (b.faces &&& ~~~(b.got ||| b.lost)).getLsbD f
      && match (d.indexOf die).bind fun i => d.across i f with
        | some j =>
          let g := d.dieOf j
          decide (s.bermTaken r.push.lid g fd ≤ r.k) || stops.contains (g, fd, r.k)
        | none => false

/-- The exchanges of a fabric's launch that a forced save stops in their started state, by die, descriptor and number (R342):
of those whose sent faces have all performed, the ones that await such a face. -/
def bermStops (s : State) (ps : List Nat) : List (Nat × Nat × Nat) :=
  let rs := s.engqs.flatMap fun e =>
    (e.2.running.filter fun r => ps.contains r.push.lid && r.push.q == 1 && r.out == 0).map fun r => (e.1 % 10000000, r)
  rs.foldl (fun stops _ =>
    (rs.filter fun r => bermAwaits s stops r.1 r.2).map fun r => (r.1, lineFd r.2.push.line, r.2.k)) []

/-- DRAIN_TIMEOUT (R420, R421): the cores halt; once nothing is in flight the context is saved. DESIGN CHOICE, log 3. -/
def drainTimeout (l : Nat) (s : State) : State :=
  let ps := s.parts l
  if !s.drainOver l || (s.launch l).doom.isSome || s.halted l then s
  else
    let s := (ps.flatMap s.placedCores).foldl stopCore s
    let cs := ps.flatMap s.placedCores
    let still := cs.all fun c =>
      let k := s.core c
      k.run != .placed && !k.resolving && k.calm && !s.walking c
    let stops := bermStops s ps
    let running := s.engqs.any fun q => q.2.running.any fun r => ps.contains r.push.lid
      && !(r.push.q == 1 && stops.contains (q.1 % 10000000, lineFd r.push.line, r.k))
      && !(r.push.q == 2 && !s.startedPush r.push)
    let onWay := s.berms.any fun m => ps.contains (m.dst / 8 * 65536 + m.lid)
    if still && !running && !onWay then ps.foldl savePart (s.withdraw ps) else s

/-- A core of a saved context put back: its handles walk again, its operand cache is empty, its banks as TBANK reads (R150,
R422). One whose barrier has released before a trap halted it stays past the barrier (R234). DEDUCED, log 10.
DESIGN CHOICE, log 9. -/
def restoreCore (at' : Nat) (s : State) (e : Nat × Core) : State :=
  let c := e.1
  let k : Core := e.2
  let again := fun (r : Regs) => { r with h := r.h.mapVal fun _ h => h.again }
  let k := { k with
    run := if k.run == RunSt.stopped then RunSt.placed else k.run, regs := again k.regs, shadow := again k.shadow, opc := [], htlb := []
    itlb := [], ibad := [], l1 := [], ready := at', waking := [] }
  queueWalks c (s.setCore c { k with loopBuf := none, hold := none, pass := k.pass.map fun _ => at' })

/-- Pushes in the order in which they were made. -/
def inPushOrder : List Push → List Push
  | [] => []
  | p :: ps =>
    let rest := inPushOrder ps
    rest.takeWhile (fun q => q.no < p.no) ++ p :: rest.dropWhile fun q => q.no < p.no

/-- One part put back (R422): its unstarted entries in their original queue order (R342). DESIGN CHOICE, log 9. CLSTAT goes on from
the counts at the save. DESIGN CHOICE, log 63. -/
def resumePart (delay : Nat) (s : State) (l : Nat) : State :=
  let x := s.launch l
  match x.saved with
  | none => s
  | some ctx =>
    let s := s.setLaunch l { x with phase := .placed, saved := none, since := s.ticks (launchPkg l) + delay }
    let s := ctx.clusters.foldl (fun s q => s.setCluster q.1 { q.2 with tbuf := [], ctlb := [], pins := [], got := [], cbad := [], samp := [] }) s
    let s := ctx.cores.foldl (restoreCore (s.now + delay)) s
    let s := ctx.runs.foldl (fun s r =>
      let t := pushTarget r.push.core r.push.q
      s.setEngq t { s.engq t with running := (s.engq t).running ++ [r] }) s
    (inPushOrder ctx.pushes).foldl (fun s p =>
      let t := pushTarget p.core p.q
      s.setEngq t { s.engq t with entries := (s.engq t).entries ++ [p] }) s

/-- LAUNCH_RESUME (R414, R422): the saved launch that its package places next is put back. -/
def launchResume (l : Nat) (s : State) : State :=
  if s.chosen l && (s.launch l).phase == .saved then
    (s.parts l).foldl (resumePart (s.entryDelay l)) s
  else s

/-- WATCHDOG (R425): past its running time every core of the launch traps at its next bundle boundary, and the launch is
killed. DESIGN CHOICE, log 3. DEDUCED, log 43. -/
def watchdog (l : Nat) (s : State) : State :=
  let x := s.launch l
  if x.phase == .placed && x.desc.wdog != 0 && x.doom.isNone && !s.halted l
      && 1600 * x.desc.wdog < x.ran + (s.ticks (launchPkg l) - x.since) then
    let s := (((s.parts l).filter fun m => (s.launch m).phase == .placed).flatMap s.placedCores).foldl (fun s c =>
      if (s.core c).run == .placed then takeTrap c 7 .watchdog 0 0 (returnWait c s) else s) s
    s.kill l 0x03 Trap.watchdog.code
  else s

/-! Traps answered (R269, R424, R427). -/

/-- Whether a core's trap is that of a SAT = 1 signal: its PC is the continuation PC, that of a bundle not issued yet (R33,
R426). -/
def Core.satTrapped (k : Core) : Bool := k.trap.code == Trap.semOverflow.code && k.trap.w2.getLsbD 63

/-- A trapped core goes on at a bundle, after its implicit mark (R427); one that has retired END has none to issue.
DEDUCED, log 11. -/
def continueAt (c : Nat) (pc : BitVec 13) (s : State) : State :=
  let k := s.core c
  let s := s.setCore c { k with
    pc, trap := { k.trap with state := 2, ans := 0 }
    run := if k.fin then .ended else .placed, ready := max k.ready (s.now + 1) }
  takeMark c pc s

/-- TRAP_RESUME (R427): the host's answer RESUME, or HANDLE_REVOKED, which resumes at once (R424). -/
def trapResume (c : Nat) (s : State) : State :=
  let k := s.core c
  if k.run == .trapped && (k.trap.state == 1 || k.trap.ans == 1 || k.trap.code == Trap.handleRevoked.code) then continueAt c k.pc s else s

/-- Whether a trap code is one of the page class (R274). -/
def pageCode (n : Nat) : Bool := 0x08 ≤ n && n ≤ 0x0B

/-- TRAP_SKIP (R427): the core goes on at the next sequential bundle, and what a barrier or a wait has given the skipped one is
over. DESIGN CHOICE, log 47. -/
def trapSkip (c : Nat) (s : State) : State :=
  let k := s.core c
  if k.run == .trapped && (k.trap.state == 1 || k.trap.ans == 2) && !pageCode k.trap.code then
    if k.satTrapped then continueAt c k.pc s
    else
      let s := s.setCore c { k with pass := none, passed := none }
      let n := 1 + presCount (readHeader (k.ispm.read k.pc.toNat)).pres
      if 4095 < k.pc.toNat % 4096 + n then takeTrap c 7 .ispmRange 0 0 (takeMark c k.pc s)
      else continueAt c (k.pc + BitVec.ofNat 13 n) s
  else s

/-- TRAP_ANSWER_KILL (R427): the launch is killed. DESIGN CHOICE, log 7. -/
def trapAnswerKill (c : Nat) (s : State) : State :=
  let k := s.core c
  if k.run == .trapped && k.trap.state == 1 then
    let s := s.setCore c { k with trap := { k.trap with state := 2 } }
    s.kill k.launch 0x02 k.trap.code
  else s

/-- COW_RESOLVE (R269): the page is copied if its leaf still has COW = 1, and the core resumes; where no frame is free the
trap goes to the host. -/
def cowResolve (c : Nat) (s : State) : State :=
  let k := s.core c
  if k.run == .trapped && k.trap.state == 0 && k.trap.code == Trap.cowWrite.code then
    let (space, root) := s.space c
    let va := k.trap.w1.toNat
    if !s.cowQuiet (corePkg c) space root va then s
    else
      match s.resolveCow (corePkg c) space root va with
      | (s, .noFrame) =>
        let k := s.core c
        (s.setCore c { k with trap := { k.trap with state := 1 } }).notify (corePkg c) ⟨2, gcore c, k.trap.code, 0⟩
      | (s, _) => continueAt c (s.core c).pc s
  else s

/-! The meanings. -/

/-- LAUNCH_PLACEMENT (R411). -/
def execLaunchPlacement (pkg : Nat) (s : State) : Host.Outcome State Fault Refusal := .next (launchPlacement pkg s)
/-- CORE_HALT (R415). -/
def execCoreHalt (core : Nat) (s : State) : Host.Outcome State Fault Refusal := .next (coreHalt core s)
/-- LAUNCH_END (R415). -/
def execLaunchEnd (l : Nat) (s : State) : Host.Outcome State Fault Refusal := .next (launchEnd l s)
/-- DRAIN_TIMEOUT (R420). -/
def execDrainTimeout (l : Nat) (s : State) : Host.Outcome State Fault Refusal := .next (drainTimeout l s)
/-- LAUNCH_RESUME (R422). -/
def execLaunchResume (l : Nat) (s : State) : Host.Outcome State Fault Refusal := .next (launchResume l s)
/-- LAUNCH_DRAIN (R420). -/
def execLaunchDrain (l : DrainReq) (s : State) : Host.Outcome State Fault Refusal := .next (launchDrain l s)
/-- WATCHDOG (R425). -/
def execWatchdog (l : Nat) (s : State) : Host.Outcome State Fault Refusal := .next (watchdog l s)
/-- COW_RESOLVE (R269). -/
def execCowResolve (core : Nat) (s : State) : Host.Outcome State Fault Refusal := .next (cowResolve core s)
/-- TRAP_RESUME (R427). -/
def execTrapResume (core : Nat) (s : State) : Host.Outcome State Fault Refusal := .next (trapResume core s)
/-- TRAP_SKIP (R427). -/
def execTrapSkip (core : Nat) (s : State) : Host.Outcome State Fault Refusal := .next (trapSkip core s)
/-- TRAP_ANSWER_KILL (R427). -/
def execTrapAnswerKill (core : Nat) (s : State) : Host.Outcome State Fault Refusal := .next (trapAnswerKill core s)

end Sys2Proof.Machine
end

