-- ==== Sys2Proof/Machine/Pumphouse.lean ====
section
/-! DEFINITION. The pumphouse: command queues (R399 to R402), pumphouse words (R403 to R407). -/

namespace Sys2Proof.Machine

/-! Queue registers (R399). -/

/-- A launch that a queue's LAUNCH word has waiting, given up; and a snapshot that its SNAP word has ordered. DEDUCED, log 41. -/
def Launch.given (q : Nat) (x : Launch) : Launch :=
  if x.phase == .waiting && x.queue == q then {}
  else { x with snaps := x.snaps.filter fun n => n.queue != q || n.inval.isSome }

/-- A queue put in FAULT, and session 0 told (R400, R441); a launch that its LAUNCH word has waiting is placed no more, and a
snapshot that its SNAP word has ordered is not applied, for the word is not executed (R399). DEDUCED, log 41. -/
def State.queueFault (s : State) (q : Nat) : State :=
  let s := { s with launches := s.launches.mapVal fun _ x => Launch.given q x }
  (s.setQueue q { s.queue q with bad := true, blocked := false, word := [], since := s.ticks (queuePkg q) }).notify (queuePkg q)
    ⟨3, q % 64, 0, 0⟩

/-- EN as it reads: 0 from the write that clears it, while the last word still ends (R399). -/
def Queue.enabled (k : Queue) : Bool := k.en && !k.ending

/-- QRING written: discarded while EN = 1. DESIGN CHOICE, log 7. -/
def qringWrite (q : Nat) (v : W64) (s : State) : State :=
  let k := s.queue q
  if k.enabled then s
  else s.setQueue q { k with root := v.extractLsb' 35 29, base := v.extractLsb' 5 30, log2 := v.truncate 5 }

/-- Whether a queue's ring and level-0 table keep their limits (R399). -/
def ringOk (homeg : BitVec 7) (k : Queue) : Bool :=
  9 ≤ k.log2.toNat && k.log2.toNat ≤ 20 && inHash homeg (k.base.toNat * 4096) (8 * 2 ^ k.log2.toNat)
    && isMemory (k.root.toNat * 8192) 8192

/-- EN set: the queue is enabled, or in FAULT on a bad ring. DESIGN CHOICE, log 7. -/
def queueEnable (q : Nat) (qpri : BitVec 3) (s : State) : State :=
  let k := s.queue q
  if k.enabled then s.setQueue q { k with qpri }
  else
    let s := s.setQueue q { k with qpri, en := true, ending := false, since := if k.en then k.since else s.ticks (queuePkg q) }
    if k.bad then s else if ringOk (s.pkg (queuePkg q)).homeg k then s else s.queueFault q

/-- EN cleared: the queue stops after the word it is executing; FAULT is left. DESIGN CHOICE, log 7. -/
def queueDisable (q : Nat) (qpri : BitVec 3) (s : State) : State :=
  let k := s.queue q
  if k.bad || k.word.isEmpty then
    s.setQueue q { k with qpri, en := false, bad := false, blocked := false, mapped := false, word := [], since := s.ticks (queuePkg q) }
  else s.setQueue q { k with qpri, ending := true }

/-- Whether a queue may execute words. -/
def Queue.runs (k : Queue) : Bool := k.en && !k.bad && k.mapped

/-- The next word begun, where one stands whole between HEAD and TAIL (R399, R400). -/
def beginWord (q : Nat) (s : State) : State :=
  let k := s.queue q
  if !k.runs || !k.word.isEmpty || k.waiting == 0 then s
  else
    let h := s.ringUnit q 0
    if headerBad h then s.queueFault q
    else if k.waiting < wordUnits h then s
    else
      let k := { k with
        word := (List.range (wordUnits h)).map (s.ringUnit q), ctlDone := !headerCtl h, dies := headerDies h, tick := none
        admitted := none, inval := none, blocked := false }
      if k.wordBad then s.queueFault q else s.setQueue q k

/-- The word in progress completes (R400). -/
def completeWord (q : Nat) (s : State) : State :=
  let k := s.queue q
  s.setQueue q { k with
    head := k.head + BitVec.ofNat 32 k.word.length, word := [], blocked := false, since := s.ticks (queuePkg q)
    en := !k.ending, mapped := k.mapped && !k.ending, ending := false }

/-- The control slot of the word in progress completes. -/
def ctlEnd (q : Nat) (s : State) : State :=
  let k := s.queue q
  let s := s.setQueue q { k with ctlDone := true, blocked := false, admitted := none, inval := none }
  if k.dies.isEmpty then completeWord q s else s

/-- The word in progress waits: its queue is BLOCKED. -/
def block (q : Nat) (s : State) : State :=
  let k := s.queue q
  if k.blocked then s else s.setQueue q { k with blocked := true, since := s.ticks (queuePkg q) }

/-- An operation of the control slot: the word begins, and where its operation is `opc` its effect is made. -/
def control (q opc : Nat) (f : Ctrl → State → State) (s : State) : State :=
  let s := beginWord q s
  let k := s.queue q
  if k.runs && !k.word.isEmpty && !k.ctlDone && k.ctrl.opc == opc then f k.ctrl s else s

/-! Control operations (R404). -/

/-- A queue's address space: package, space, root. -/
def State.queueSpace (s : State) (q : Nat) : Nat × Nat × Nat := (queuePkg q, q, (s.queue q).root.toNat * 8192)

/-- LAUNCH: the descriptor is read and the launch admitted; the word completes when it is placed or refused. -/
def wordLaunch (q : Nat) (x : Ctrl) (s : State) : State :=
  match (s.queue q).admitted with
  | some l => if (s.launch l).phase == .waiting then block q s else ctlEnd q s
  | none =>
    let r := readLaunch s q x.v.toNat
    let s := launchReads q x.v.toNat s
    match r with
    | .unread => s.queueFault q
    | .refused l r => ctlEnd q (s.complete l r 0x05 0)
    | .admitted l r =>
      let s := s.setLaunch l { r with readyAt := some (max r.desc.start.toNat (s.tbase (queuePkg q)).toNat) }
      block q (s.setQueue q { s.queue q with admitted := some l })

/-- WAITSEM. -/
def wordWaitsem (q : Nat) (x : Ctrl) (s : State) : State :=
  let p := queuePkg q
  let v := ((s.pkg p).qsem.read x.a).toNat
  if v < x.c then block q s
  else
    let s := if x.b % 2 == 1 then
        s.setPkg p { s.pkg p with qsem := (s.pkg p).qsem.write x.a (BitVec.ofNat 32 (v - x.c)) } else s
    ctlEnd q s

/-- SIGSEM. -/
def wordSigsem (q : Nat) (x : Ctrl) (s : State) : State := ctlEnd q (s.incQsem (queuePkg q) x.a x.c)

/-- A counter of a compute die raised by one, saturating at 0xFFFF. -/
def sat16 (v : BitVec 16) : BitVec 16 := if v == 0xFFFF then v else v + 1

/-- An engine increment (R226, R343). -/
def State.engineInc (s : State) (cl n v : Nat) : State :=
  let past := 65535 < s.sem cl n + v
  let s := s.incSem cl n v
  if past then s.setDie (clusterDie cl) { s.die (clusterDie cl) with semsat := sat16 (s.die (clusterDie cl)).semsat } else s

/-- An increment applied to a saved context; an overflow saturates, and is counted. -/
def State.savedInc (s : State) (l cl n v : Nat) : State :=
  let x := s.launch l
  match x.saved with
  | none => s
  | some ctx =>
    let q := ctx.clusters.get {} cl
    let w := (q.sem.read n).toNat + v
    let s := s.setLaunch l { x with saved := some { ctx with
      clusters := ctx.clusters.put cl { q with sem := q.sem.write n (BitVec.ofNat 16 (min 65535 w)) } } }
    let f := clusterDie cl
    if 65535 < w then s.setDie f { s.die f with semsat := sat16 (s.die f).semsat } else s

/-- SIGCL. -/
def wordSigcl (q : Nat) (x : Ctrl) (s : State) : State :=
  let l := lidKey q (x.v.toNat % 65536)
  let cl := queuePkg q * 48 + x.b
  let k := s.launch l
  let s := if !k.desc.cmask.getLsbD x.b then s.addQerr (queuePkg q) 1
    else match k.phase with
      | .placed => s.engineInc cl x.a x.c
      | .saved => s.savedInc l cl x.a x.c
      | _ => s.addQerr (queuePkg q) 1
  ctlEnd q s

/-- WAITTIME. -/
def wordWaittime (q : Nat) (x : Ctrl) (s : State) : State :=
  if x.v.toNat ≤ (s.tbase (queuePkg q)).toNat then ctlEnd q s else block q s

/-- PREEMPT: the drain begins. DEDUCED, log 13. DESIGN CHOICE, log 24. -/
def wordPreempt (q : Nat) (x : Ctrl) (s : State) : State := ctlEnd q (s.drain (lidKey q (x.v.toNat % 65536)))

/-- SNAP: ordered for the launch's next crest barrier; the word waits until it is applied. DESIGN CHOICE, log 24. -/
def wordSnap (q : Nat) (x : Ctrl) (s : State) : State :=
  let l := lidKey q x.b
  let (p, space, root) := s.queueSpace q
  match (s.queue q).admitted with
  | some _ => if (s.launch l).snaps.any fun n => n.queue == q then block q s else ctlEnd q s
  | none =>
    match s.vaBytes p space root x.v.toNat (8 * x.c) fun _ => true with
    | none => s.queueFault q
    | some bs =>
      let s := s.afterRead p space root x.v.toNat (8 * x.c)
      match (s.launch l).phase with
      | .none | .ended => ctlEnd q s
      | _ =>
        let n : Snap := { queue := q, pages := (List.range x.c).map fun i => byteNum bs (8 * i) 8 }
        let s := s.setLaunch l { s.launch l with snaps := (s.launch l).snaps ++ [n] }
        block q (s.setQueue q { s.queue q with admitted := some l })

/-- INVAL: translations are removed and handles revoked; the word completes once the accesses that used them have
performed (R252). DEDUCED, log 14. -/
def wordInval (q : Nat) (x : Ctrl) (s : State) : State :=
  let (p, space, root) := s.queueSpace q
  let lo := x.v.toNat
  let hi := lo + 65536 * x.c
  match (s.queue q).inval with
  | some xs => if s.quiet xs then ctlEnd q (s.rewalk space) else block q s
  | none =>
    if (s.walk p space root lo).isNone then s.queueFault q
    else
      let xs := s.held space lo hi
      let s := (s.flushPages xs).invalidate space lo hi
      if s.quiet xs then ctlEnd q (s.rewalk space)
      else block q (s.setQueue q { s.queue q with inval := some xs })

/-- KILL: begun, and complete when the launch has ended. DEDUCED, log 12. DESIGN CHOICE, log 24. -/
def wordKill (q : Nat) (x : Ctrl) (s : State) : State :=
  let l := lidKey q (x.v.toNat % 65536)
  match (s.queue q).admitted with
  | some _ => if (s.launch l).holds then block q s else ctlEnd q s
  | none =>
    let s := s.kill l 0x02 0
    if (s.launch l).holds then block q (s.setQueue q { s.queue q with admitted := some l }) else ctlEnd q s

/-- FENCE: the writes of earlier words have performed as those words completed. -/
def wordFence (q : Nat) (_ : Ctrl) (s : State) : State := ctlEnd q s

/-- STAMP. -/
def wordStamp (q : Nat) (x : Ctrl) (s : State) : State :=
  let (p, space, root) := s.queueSpace q
  match s.writeVa p space root x.v.toNat (bytesOf 8 (s.tbase p)) leafW with
  | none => s.queueFault q
  | some s => ctlEnd q s

/-! Die slots (R405, R406). -/

/-- Whether a launch places a core where a die slot sends its command. -/
def slotHome (m : BitVec 48) (die : Nat) (x : DieSlot) : Bool :=
  if x.eng == 0 then m.getLsbD (6 * die + x.cl) else maskDie m die

/-- A command for a saved launch joins its saved entries, with the next number of its queue (R405). -/
def State.savedPush (s : State) (p : Push) : State :=
  let t := pushTarget p.core p.q
  let q := s.engq t
  let l := s.launch p.lid
  match l.saved with
  | some ctx =>
    (s.setEngq t { q with count := q.count + 1 }).setLaunch p.lid
      { l with saved := some { ctx with pushes := ctx.pushes ++ [{ p with no := q.count }] } }
  | none => s

/-- One die slot sent. DESIGN CHOICE, log 26. -/
def sendSlot (q die : Nat) (x : DieSlot) (rest : List Nat) (s : State) : State :=
  let l := lidKey q x.lid
  let k := s.launch l
  let (p, space, root) := s.queueSpace q
  let next := fun (s : State) =>
    let s := s.setQueue q { s.queue q with dies := rest, blocked := false }
    if rest.isEmpty then completeWord q s else s
  match s.vaBytes p space root x.va 128 leafR with
  | none => s.queueFault q
  | some bs =>
    let s := s.afterRead p space root x.va 128
    let e := slotPush q die x (rowOfBytes bs)
    if (k.phase != .placed && k.phase != .saved) || !slotHome k.desc.cmask die x then next (s.addQerr p 1)
    else if k.phase == .saved then
      next (s.savedPush e)
    else if !s.roomFor e then block q s
    else
      match (s.queue q).tick with
      | none => next (s.enqueue e)
      | some tick =>
        let t := pushTarget e.core e.q
        let s := s.setEngq t ((s.engq t).reserve e.lid true)
        let y : SyncSlot := { tick, arrive := s.tbase p + (Config.slotTravel die).zeroExtend 64, entry := e }
        next (s.setPkg p { s.pkg p with syncs := (s.pkg p).syncs ++ [y] })

/-- The die slots of a SYNC word sent from the `i`-th on, until one has to wait (R406). -/
def sendSlots (q : Nat) (k : Queue) : List Nat → Nat → State → State
  | [], _, s => s
  | d :: ds, i, s =>
    let t := sendSlot q d (k.slotAt i) ds s
    if (t.queue q).blocked || (t.queue q).bad then t else sendSlots q k ds (i + 1) t

/-- DIE_SLOT (R405): the next die slot of the word in progress is sent, after its control slot. A SYNC word fixes its tick and
sends every slot of it (R406). -/
def dieSlot (q : Nat) (s : State) : State :=
  let s := beginWord q s
  let k := s.queue q
  if !k.runs || k.word.isEmpty || !k.ctlDone then s
  else
    match k.dies with
    | [] => s
    | d :: ds =>
      let p := queuePkg q
      let i := (headerDies (k.word.headD 0)).length - k.dies.length
      if headerSync (k.word.headD 0) then
        let n := (k.dies.map fun d => ((s.pkg p).skew.read d).toNat).foldl max 0
        let tau := k.tick.getD (s.tbase p + BitVec.ofNat 64 (n + 16))
        sendSlots q k (d :: ds) i (s.setQueue q { k with tick := some tau })
      else sendSlot q d (k.slotAt i) ds s

/-- A held die slot enters its engine queue; one that arrives after its tick is counted (R406). DEDUCED, log 18. -/
def enterSync (p : Nat) (s : State) (y : SyncSlot) : State :=
  let s := if y.tick.toNat < y.arrive.toNat then s.addQerr p 1 else s
  let t := pushTarget y.entry.core y.entry.q
  match (s.launch y.entry.lid).phase with
  | .placed => s.enterPush y.entry
  | .saved => (s.setEngq t ((s.engq t).reserve y.entry.lid false)).savedPush y.entry
  | _ => (s.setEngq t ((s.engq t).reserve y.entry.lid false)).addQerr p 1

/-- Whether a held slot's tick has come, or a late one has arrived (R406). -/
def SyncSlot.due (y : SyncSlot) (t : W64) : Bool := max y.tick.toNat y.arrive.toNat ≤ t.toNat

/-- SYNC_SLOT_ENTRY (R406): the slots held for a tick that has come enter their engine queues, on every die, and late ones that have
arrived. DESIGN CHOICE, log 2. -/
def syncSlotEntry (p i : Nat) (s : State) : State :=
  let k := s.pkg p
  let t := s.tbase p
  if k.syncs[i]?.any fun y => y.due t then
    (k.syncs.filter fun y => y.due t).foldl (enterSync p) (s.setPkg p { k with syncs := k.syncs.filter fun y => !y.due t })
  else s

/-- The entries of held slots that the present tick asks for, one step for each package: nothing else of the tick comes before
them (R406). DESIGN CHOICE, log 2. -/
def dueSyncs (s : State) : List Instr :=
  s.pkgs.filterMap fun p => (p.2.syncs.findIdx? fun y => y.due (s.tbase p.1)).map fun i => Instr.syncSlotEntry p.1 i

/-! Mapping (R401, R402). -/

/-- Whether a queue's wait is one for which it gives up its slot: WAITSEM, WAITTIME or a full engine queue. -/
def Queue.yields (k : Queue) : Bool := k.ctlDone || k.ctrl.opc == 0x02 || k.ctrl.opc == 0x05

/-- Whether a queue has a word it could begin or go on with. -/
def hasWord (s : State) (q : Nat) : Bool :=
  let k := s.queue q
  !k.word.isEmpty || (k.waiting != 0 && (headerBad (s.ringUnit q 0) || wordUnits (s.ringUnit q 0) ≤ k.waiting))

/-- STATE of QCTL (R399): 0 DISABLED, 1 IDLE, 2 READY, 3 BLOCKED, 4 FAULT. -/
def queueState (s : State) (q : Nat) : Nat :=
  let k := s.queue q
  if k.bad then 4
  else if !k.en then 0
  else if !hasWord s q then 1
  else if k.blocked then 3
  else 2

/-- TAIL written: a queue that now has a word is READY from now on; one whose ring overflows is in FAULT (R399).
DESIGN CHOICE, log 7. -/
def qptrTailWrite (q : Nat) (tail : BitVec 32) (s : State) : State :=
  let k := { s.queue q with tail }
  let t := s.setQueue q k
  let t := if queueState s q == 1 && queueState t q == 2 then t.setQueue q { k with since := s.ticks (queuePkg q) } else t
  if !k.bad && 2 ^ k.log2.toNat < k.waiting then t.queueFault q else t

/-- The queues of a package in an order, best first. -/
def sortQueues (better : Nat → Nat → Bool) : List Nat → List Nat
  | [] => []
  | q :: qs =>
    let r := sortQueues better qs
    (r.takeWhile fun x => better x q) ++ q :: (r.dropWhile fun x => better x q)

/-- QUEUE_MAPPING (R401): the waits are tested, idle queues give up their slots, long-blocked ones give one up for each READY
queue without one, and READY queues take the free ones. DESIGN CHOICE, log 2. -/
def queueMapping (p : Nat) (s : State) : State :=
  let qs := pkgQueues p
  let s := testQueues p s
  let s := qs.foldl (fun s q =>
    if (s.queue q).mapped && (queueState s q ≤ 1 || queueState s q == 4) then
      s.setQueue q { s.queue q with mapped := false } else s) s
  let ready := sortQueues (fun a b =>
      let x := s.queue a
      let y := s.queue b
      if x.qpri != y.qpri then y.qpri.toNat < x.qpri.toNat
      else if x.since != y.since then x.since < y.since else a < b)
    (qs.filter fun q => !(s.queue q).mapped && queueState s q == 2)
  let free := 16 - (qs.filter fun q => (s.queue q).mapped).length
  let out := (sortQueues (fun a b =>
      let x := s.queue a
      let y := s.queue b
      if x.qpri != y.qpri then x.qpri.toNat < y.qpri.toNat
      else if x.since != y.since then x.since < y.since else a < b)
    (qs.filter fun q =>
      let k := s.queue q
      k.mapped && queueState s q == 3 && k.yields && k.since + 32000 < s.ticks p)).take (ready.length - free)
  let s := out.foldl (fun s q => s.setQueue q { s.queue q with mapped := false }) s
  (ready.take (free + out.length)).foldl (fun s q => s.setQueue q { s.queue q with mapped := true }) s

/-! The meanings. -/

/-- NOP of the pumphouse (R404). -/
def execPumphouseNop (q : Nat) (s : State) : Host.Outcome State Fault Refusal := .next (control q 0x00 (fun _ => ctlEnd q) s)
/-- LAUNCH (R404, R408 to R410). -/
def execLaunch (q : Nat) (s : State) : Host.Outcome State Fault Refusal := .next (control q 0x01 (wordLaunch q) s)
/-- WAITSEM (R404). -/
def execWaitsem (q : Nat) (s : State) : Host.Outcome State Fault Refusal := .next (control q 0x02 (wordWaitsem q) s)
/-- SIGSEM (R404). -/
def execSigsem (q : Nat) (s : State) : Host.Outcome State Fault Refusal := .next (control q 0x03 (wordSigsem q) s)
/-- SIGCL (R404). -/
def execSigcl (q : Nat) (s : State) : Host.Outcome State Fault Refusal := .next (control q 0x04 (wordSigcl q) s)
/-- WAITTIME (R404). -/
def execWaittime (q : Nat) (s : State) : Host.Outcome State Fault Refusal := .next (control q 0x05 (wordWaittime q) s)
/-- PREEMPT (R404, R420). -/
def execPreempt (q : Nat) (s : State) : Host.Outcome State Fault Refusal := .next (control q 0x06 (wordPreempt q) s)
/-- SNAP (R404, R419). -/
def execSnap (q : Nat) (s : State) : Host.Outcome State Fault Refusal := .next (control q 0x07 (wordSnap q) s)
/-- INVAL (R404, R252). -/
def execInval (q : Nat) (s : State) : Host.Outcome State Fault Refusal := .next (control q 0x08 (wordInval q) s)
/-- KILL (R404, R428). -/
def execKill (q : Nat) (s : State) : Host.Outcome State Fault Refusal := .next (control q 0x09 (wordKill q) s)
/-- FENCE (R404). -/
def execFence (q : Nat) (s : State) : Host.Outcome State Fault Refusal := .next (control q 0x0A (wordFence q) s)
/-- STAMP (R404). -/
def execStamp (q : Nat) (s : State) : Host.Outcome State Fault Refusal := .next (control q 0x0B (wordStamp q) s)
/-- DIE_SLOT (R405). -/
def execDieSlot (q : Nat) (s : State) : Host.Outcome State Fault Refusal := .next (dieSlot q s)
/-- SYNC_SLOT_ENTRY (R406). -/
def execSyncSlotEntry (pkg idx : Nat) (s : State) : Host.Outcome State Fault Refusal := .next (syncSlotEntry pkg idx s)
/-- QUEUE_MAPPING (R401). -/
def execQueueMapping (pkg : Nat) (s : State) : Host.Outcome State Fault Refusal := .next (queueMapping pkg s)
/-- A write of QRING (R399). -/
def execQringWrite (q : Nat) (v : W64) (s : State) : Host.Outcome State Fault Refusal := .next (qringWrite q v s)
/-- A write of TAIL (R399). -/
def execQptrTailWrite (q : Nat) (tail : BitVec 32) (s : State) : Host.Outcome State Fault Refusal :=
  .next (qptrTailWrite q tail s)
/-- EN set (R399). -/
def execQueueEnable (q : Nat) (qpri : BitVec 3) (s : State) : Host.Outcome State Fault Refusal := .next (queueEnable q qpri s)
/-- EN cleared (R399). -/
def execQueueDisable (q : Nat) (qpri : BitVec 3) (s : State) : Host.Outcome State Fault Refusal :=
  .next (queueDisable q qpri s)

end Sys2Proof.Machine
end

