-- ==== Sys2Proof/Machine/Vorvor.lean ====
section
/-! DEFINITION. The host's side: device registers (R2, R21 to R26, R399, R406, R407, R426, R442, R443), Vorvor messages
(R438 to R441), attestation (R449). -/

namespace Sys2Proof.Machine

/-! Registers as words. -/

/-- LINKS (R22). -/
def linksWord (d : Die) : W64 :=
  BitVec.ofNat 64 (((List.range 6).foldl (fun v i =>
    let p := d.ports.get {} i
    v + (p.state + 4 * p.width) * 16 ^ i) 0) + d.downs.toNat * 2 ^ 24)

/-- CLSTAT (R230). -/
def clstatWord (q : Cluster) : W64 := BitVec.ofNat 64 (q.barcs.toNat * 2 ^ 32 + q.spovr.toNat * 2 ^ 16 + q.semovf.toNat)

/-- ENGSTAT (R343). -/
def engstatWord (d : Die) : W64 :=
  BitVec.ofNat 64 (d.bermlink.toNat * 2 ^ 48 + d.semsat.toNat * 2 ^ 32 + d.scoutf.toNat * 2 ^ 16 + d.failed.toNat)

/-- SLUSTAT (R366). -/
def slustatWord (d : Die) : W64 :=
  BitVec.ofNat 64 (d.badhop.toNat * 2 ^ 48 + d.recovs.toNat * 2 ^ 32 + d.pool * 2 ^ 19 + d.aborts.toNat)

/-- CLK (R452). -/
def clkWord (d : Die) : W64 :=
  BitVec.ofNat 64 (d.temp.toNat * 2 ^ 16 + (if d.emerg then 256 else 0) + d.code.toNat)

/-- The query slots of a memory die allotted to no launch (R380, R397). -/
def State.freeSlots (s : State) (f : Nat) : Nat :=
  16 - ((s.placedOn (f / 8)).map fun e => e.2.desc.plslot.getD (f % 8) 0).foldl (· + ·) 0

/-- A register of a memory die (R264, R267, R312, R397, R451). -/
def mdieReg (s : State) (f off : Nat) : Option W64 :=
  let m := s.mdie f
  match off with
  | 0x100 => some (BitVec.ofNat 64 (m.grans.toNat * 2 ^ 32 + m.sects.toNat))
  | 0x108 => some (BitVec.ofNat 64 (m.rmws.toNat * 2 ^ 32 + m.sats.toNat))
  | 0x110 => some (BitVec.ofNat 64 (m.straps.toNat * 2 ^ 32 + m.sdrops.toNat))
  | 0x118 => some (BitVec.ofNat 64 (m.plcmds.toNat * 2 ^ 32 + m.pldrops.toNat * 2 ^ 16 + s.freeSlots f))
  | 0x120 => some (BitVec.ofNat 64 (m.ecorr.toNat * 2 ^ 32 + m.euncorr.toNat))
  | _ => none

/-- A register of a compute die (R22, R230, R343, R366, R452). -/
def dieReg (s : State) (f off : Nat) : Option W64 :=
  match off with
  | 0x100 => some (linksWord (s.die f))
  | 0x300 => some (engstatWord (s.die f))
  | 0x310 => some (slustatWord (s.die f))
  | 0x330 => some (clkWord (s.die f))
  | _ =>
    if 0x200 ≤ off && off < 0x230 && off % 8 == 0 then some (clstatWord (s.cluster (f / 8 * 48 + f % 8 * 6 + (off - 0x200) / 8)))
    else none

/-- QCTL (R399). -/
def qctlWord (s : State) (q : Nat) : W64 :=
  let k := s.queue q
  BitVec.ofNat 64 (queueState s q * 4096 + (if k.mapped then 2048 else 0) + k.qpri.toNat * 256
    + (if k.enabled then 1 else 0))

/-- A register of a queue (R399). -/
def queueReg (s : State) (q off : Nat) : Option W64 :=
  let k := s.queue q
  match off with
  | 0x00 => some (BitVec.ofNat 64 (k.root.toNat * 2 ^ 35 + k.base.toNat * 32 + k.log2.toNat))
  | 0x08 => some (BitVec.ofNat 64 (k.tail.toNat * 2 ^ 32 + k.head.toNat))
  | 0x10 => some (qctlWord s q)
  | _ => none

/-- A word of a trap record (R426). DEDUCED, log 11. -/
def trapReg (s : State) (c w : Nat) : W64 :=
  let t := (s.core c).trap
  match w with
  | 0 => BitVec.ofNat 64 (t.state * 2 ^ 32 + t.pc.toNat * 2 ^ 16 + (if t.rb then 2048 else 0) + t.slot * 256 + t.code)
  | 1 => t.w1
  | 2 => t.w2
  | _ => Config.writeOnly (gcore c)

/-- A package register (R24). DESIGN CHOICE, log 27. -/
def pkgReg (s : State) (p off : Nat) : Option W64 :=
  let k := s.pkg p
  match off with
  | 0x00 => some (BitVec.ofNat 64 (2 ^ 32 + (Config.stepping p).toNat * 2 ^ 16 + 0xD7 * 256))
  | 0x08 => some 0x0512
  | 0x10 => some (k.topo.zeroExtend 64)
  | 0x18 => some (k.homeg.zeroExtend 64)
  | 0x200 => some (k.qerr.zeroExtend 64)
  | 0x300 => some (BitVec.ofNat 64 (k.rejects.toNat * 2 ^ 32 + k.gaps.toNat * 2 ^ 16 + k.resent.toNat))
  | 0x308 => some (BitVec.ofNat 64
      ((if k.mport then 2 ^ 33 else 0) + (if k.locked then 2 ^ 32 else 0) + k.offset.toNat))
  | 0x310 => some (BitVec.ofNat 64 (k.nsent.toNat * 2 ^ 32 + k.nlost.toNat * 2 ^ 16 + k.held.length))
  | _ =>
    if 0x100 ≤ off && off < 0x140 && off % 8 == 0 then some ((k.skew.read ((off - 0x100) / 8)).zeroExtend 64)
    else if 0x10000 ≤ off && off < 0x10800 then queueReg s (p * 64 + (off - 0x10000) / 32) (off % 32)
    else if 0x20000 ≤ off && off < 0x20800 && off % 8 == 0 then some ((k.qsem.read ((off - 0x20000) / 8)).zeroExtend 64)
    else if 0x40000 ≤ off && off < 0x43000 && off % 8 == 0 then
      some (trapReg s (p * 384 + (off - 0x40000) / 32) ((off - 0x40000) % 32 / 8))
    else none

/-- The register at a package physical address; `none` where there is none (R24, R25). DESIGN CHOICE, log 27. -/
def readReg (s : State) (p a : Nat) : Option W64 :=
  if 0x3F000000000 ≤ a && a < 0x3F100000000 then pkgReg s p (a - 0x3F000000000)
  else if 0x3F100000000 ≤ a && a < 0x3F180000000 then
    dieReg s (p * 8 + (a - 0x3F100000000) / 0x10000000) ((a - 0x3F100000000) % 0x10000000)
  else if 0x3F200000000 ≤ a && a < 0x3F280000000 then
    mdieReg s (p * 8 + (a - 0x3F200000000) / 0x10000000) ((a - 0x3F200000000) % 0x10000000)
  else none

/-! Writes. -/

/-- HBM_SPLIT written (R26): the first write stands, unless above 64. DESIGN CHOICE, log 7. A write that is discarded does not
use up the one write. DESIGN CHOICE, log 52. -/
def hbmSplitWrite (p : Nat) (v : W64) (s : State) : State :=
  let k := s.pkg p
  let g : BitVec 7 := v.truncate 7
  if k.homeSet || 64 < g.toNat then s else s.setPkg p { k with homeg := g, homeSet := true }

/-- The TBASE window of a change request (R423). -/
def State.window (s : State) (f : Nat) : Nat := (s.tbase (diePkg f)).toNat / 1600

/-- CLK.CODE written (R452): a clock request, unless above 8. DESIGN CHOICE, log 7. -/
def clkCodeWrite (f : Nat) (v : W64) (s : State) : State :=
  let d := s.die f
  let c : BitVec 4 := v.truncate 4
  if 8 < c.toNat then s
  else s.setDie f { d with asked := c, reqs := d.reqs ++ [⟨none, c.toNat, s.window f⟩] }

/-- The saved launch whose trap a core's record still shows (R421, R426). DEDUCED, log 30. -/
def State.savedTrap (s : State) (c : Nat) : Option Nat :=
  (s.launches.find? fun e => e.2.phase == .saved && match e.2.saved with
    | some x => x.cores.any fun k => k.1 == c && k.2.run == .trapped && k.2.trap == (s.core c).trap
    | none => false).map (·.1)

/-- An answer to the trap of a saved launch: a KILL at once; RESUME and SKIP are kept for the resume (R422, R427).
DEDUCED, log 30. -/
def answerSaved (l c v : Nat) (s : State) : State :=
  let t : TrapRec := { (s.core c).trap with state := 2, ans := v }
  let x := s.launch l
  if t.code ∈ [8, 9, 10, 11] && v == 2 then s
  else
    let s := s.setCore c { s.core c with trap := t }
    if v == 3 then s.kill l 0x02 t.code
    else s.setLaunch l { x with
      saved := x.saved.map fun y => { y with cores := y.cores.mapVal fun n k => if n == c then { k with trap := t } else k } }

/-- A write of word 3 of a trap record (R427). -/
def answerTrap (c : Nat) (v : W64) (s : State) : State :=
  let k := s.core c
  match (if k.trap.state == 1 && k.run != .trapped && 1 ≤ v.toNat && v.toNat ≤ 3 then s.savedTrap c else none) with
  | some l => answerSaved l c v.toNat s
  | none =>
  match v.toNat with
  | 1 => if (s.core c).trap.state == 1 then trapResume c s else s
  | 2 => trapSkip c s
  | 3 => trapAnswerKill c s
  | _ => s

/-- A write of a queue's register (R399). -/
def writeQueueReg (q off : Nat) (v : W64) (s : State) : State :=
  match off with
  | 0x00 => qringWrite q v s
  | 0x08 => qptrTailWrite q (v.extractLsb' 32 32) s
  | 0x10 => if v.getLsbD 0 then queueEnable q (v.extractLsb' 8 3) s else queueDisable q (v.extractLsb' 8 3) s
  | _ => s

/-- A register written; a read-only one discards the write (R3). -/
def writeReg (p a : Nat) (v : W64) (s : State) : State :=
  let off := a - 0x3F000000000
  let k := s.pkg p
  if 0x3F100000000 ≤ a && a < 0x3F180000000 then
    if (a - 0x3F100000000) % 0x10000000 == 0x330 then clkCodeWrite (p * 8 + (a - 0x3F100000000) / 0x10000000) v s else s
  else if 0x3F100000000 ≤ a then s
  else if off == 0x18 then hbmSplitWrite p v s
  else if 0x100 ≤ off && off < 0x140 then s.setPkg p { k with skew := k.skew.write ((off - 0x100) / 8) (v.truncate 16) }
  else if 0x10000 ≤ off && off < 0x10800 then writeQueueReg (p * 64 + (off - 0x10000) / 32) (off % 32) v s
  else if 0x20000 ≤ off && off < 0x20800 then
    testQueues p (s.setPkg p { k with qsem := k.qsem.write ((off - 0x20000) / 8) (v.truncate 32) })
  else if 0x40000 ≤ off && off < 0x43000 && off % 32 == 24 then answerTrap (p * 384 + (off - 0x40000) / 32) v s
  else s

/-! Messages (R438 to R440). -/

/-- The response to a request (R438): bit 7 of its TYPE set, its SEQ and session, the payload's bytes, a STATUS; ADDR and ARG as the
request's. DEDUCED, log 16. -/
def respond (r : VvReq) (status : Nat) (body : List Byte) : Response where
  head :=
    { type := r.type ||| 0x80, seq := BitVec.ofNat 32 r.seq, sess := BitVec.ofNat 16 r.sess, len := BitVec.ofNat 16 body.length
      status := BitVec.ofNat 32 status, addr := BitVec.ofNat 64 r.addr, arg := BitVec.ofNat 64 r.arg }
  body := body

/-- A request rejected and counted; answered where its session exists (R438). DEDUCED, log 16. -/
def reject (p : Nat) (r : VvReq) (s : State) : State :=
  let k := s.pkg p
  let k := { k with rejects := k.rejects + 1 }
  s.setPkg p (if r.sess < 256 then { k with answers := k.answers ++ [respond r 1 []] } else k)

/-- A message of session 0 sets where NOTIFY goes: what is held is sent (R441). DEDUCED, log 16. DESIGN CHOICE, log 38. -/
def noteSession (p : Nat) (r : VvReq) (s : State) : State :=
  let k := s.pkg p
  if r.sess == 0 && !k.noteTo then
    s.setPkg p { k.held.foldl Pkg.sendNote k with noteTo := true, held := [] }
  else s

/-- What a request's execution gives: it is rejected, it must wait, or the state, STATUS and payload of its answer. -/
inductive Served where
  | rejected | waits | done (s : State) (status : Nat) (body : List Byte)

/-- Whether a message's header is that of a request of a type (R438, R439). DEDUCED, log 16. -/
def messageOk (r : VvReq) (type : Nat) : Bool :=
  r.magic == 0x5656 && r.ver == 1 && r.type.toNat == type && r.status == 0

/-- A request served (R438, R440): malformed ones are rejected; the expected SEQ is executed and its response kept, the one
before is answered again, any other is dropped; one that must wait is kept, to be served again. No session is open before
start-up ends (R448). DEDUCED, log 16. -/
def serve (p : Nat) (r : VvReq) (type : Nat) (good : Bool) (f : State → Served) (s : State) : State :=
  if !(s.pkg p).up then s
  else if !messageOk r type || !good || 255 < r.sess then reject p r s
  else
    let s := noteSession p r s
    let k := s.pkg p
    let x := k.sess.get {} r.sess
    if r.seq == x.next.toNat then
      let finish := fun (s : State) (a : Response) =>
        let k := s.pkg p
        s.setPkg p { k with
          sess := k.sess.put r.sess { next := x.next + 1, kept := some a }, answers := k.answers ++ [a]
          vwait := k.vwait.filter fun y => !(y.sess == r.sess && y.seq == r.seq) }
      match f s with
      | .waits => if k.vwait.contains r then s else s.setPkg p { k with vwait := k.vwait ++ [r] }
      | .rejected =>
        finish (s.setPkg p { k with rejects := k.rejects + 1 }) (respond r 1 [])
      | .done s st b => finish s (respond r st b)
    else if r.seq == (x.next - 1).toNat then
      match x.kept with
      | some a => s.setPkg p { k with answers := k.answers ++ [a], resent := sat16 k.resent }
      | none => s.setPkg p { k with gaps := sat16 k.gaps }
    else s.setPkg p { k with gaps := sat16 k.gaps }

/-- REGRD. DESIGN CHOICE, log 7. -/
def regrd (p : Nat) (r : VvReq) (s : State) : State :=
  serve p r 1 (r.arg == 0 && r.len == 8 && r.body.isEmpty) (fun s =>
    match (if r.addr % 8 == 0 then readReg s p r.addr else none) with
    | none => .rejected
    | some v => .done s 0 (bytesOf 8 v)) s

/-- REGWR. DESIGN CHOICE, log 7. -/
def regwr (p : Nat) (r : VvReq) (s : State) : State :=
  serve p r 2 (r.arg == 0 && r.len == 8 && r.body.length == 8) (fun s =>
    match (if r.addr % 8 == 0 then readReg s p r.addr else none) with
    | none => .rejected
    | some _ => .done (writeReg p r.addr (BitVec.ofNat 64 (natOfBytes r.body)) s) 0 []) s

/-- The limits of a MEMRD or MEMWR message (R438, R439). DEDUCED, log 16. -/
def memOk (r : VvReq) : Bool :=
  r.addr % 8 == 0 && r.len % 8 == 0 && r.len ≤ 8192 && (r.arg < 64 || r.arg == 2 ^ 63 || (2 ^ 63 ≤ r.arg && r.arg < 2 ^ 63 + 64))

/-- Whether a message names a physical address. -/
def memPhys (r : VvReq) : Bool := 2 ^ 63 ≤ r.arg

/-- MEMRD: a physical address that is not memory is rejected (R25). DESIGN CHOICE, log 7. DEDUCED, log 16. -/
def memrd (p : Nat) (r : VvReq) (s : State) : State :=
  serve p r 3 (memOk r && r.body.isEmpty) (fun s =>
    if memPhys r then
      if isMemory r.addr r.len then
        let (s, z) := s.meet ⟨0, 0, 0, 0, false⟩ (p * 2 ^ 42 + r.addr) r.len
        .done s (if z == 0 then 0 else 2) (s.bytes (p * 2 ^ 42 + r.addr) r.len)
      else .rejected
    else
      let q := p * 64 + r.arg % 64
      match s.readVa p q ((s.queue q).root.toNat * 8192) r.addr r.len leafR with
      | none => .done s 3 []
      | some (s, z, bs) => .done s (if z == 0 then 0 else 2) bs) s

/-- Copy-on-write resolved in each page of a range; `none` where a page is not resolved. -/
def resolvePages (p q root : Nat) : List (Nat × Xlation) → State → Option State
  | [], s => some s
  | e :: es, s =>
    match s.resolveCow p q root (e.1 * 65536) with
    | (s, .done) => resolvePages p q root es s
    | _ => none

/-- MEMWR: a physical address that is not memory is rejected (R25). DESIGN CHOICE, log 7. DEDUCED, log 16. -/
def memwr (p : Nat) (r : VvReq) (s : State) : State :=
  serve p r 4 (memOk r && r.body.length == r.len) (fun s =>
    if memPhys r then
      if isMemory r.addr r.len then .done (s.deliverTo ⟨0, 0, 0, 0, false⟩ (placed (p * 2 ^ 42 + r.addr) r.body)) 0 []
      else .rejected
    else
      let q := p * 64 + r.arg % 64
      let root := (s.queue q).root.toNat * 8192
      match s.rangeXlate p q root r.addr r.len leafW with
      | none => .done s 3 []
      | some es =>
        let cows := es.filter fun e => leafCow e.2.leaf
        if cows.any fun e => !s.cowQuiet p q root (e.1 * 65536) then .waits
        else
          match resolvePages p q root cows s with
          | none => .done s 3 []
          | some s =>
            match s.writeVa p q root r.addr r.body leafW with
            | none => .done s 3 []
            | some s => .done s 0 []) s

/-- The limits of an ATTEST message. -/
def attestOk (arg : Nat) (r : VvReq) : Bool := r.addr == 0 && r.arg == arg && r.len == 32 && r.body.length == 32

/-- The 96 bytes that an attestation signs (R449). DESIGN CHOICE, log 28. -/
def attestBytes (s : State) (p : Nat) (nonce : List Byte) : List Byte :=
  let k := s.pkg p
  bytesOf 32 k.meas ++ nonce ++ bytesOf 8 ((pkgReg s p 0x00).getD 0) ++ bytesOf 8 ((pkgReg s p 0x08).getD 0)
    ++ ((List.range 7).map fun i => BitVec.ofNat 8 (k.bmode.getD i 0)) ++ List.replicate 9 0

/-- ATTEST with ARG = 0. DESIGN CHOICE, log 7. -/
def attestReport (p : Nat) (r : VvReq) (s : State) : State :=
  serve p r 5 (attestOk 0 r) (fun s =>
    let bs := attestBytes s p r.body
    .done s 0 (bs ++ bytesOf 64 (Config.sm2Sign p (natOfBytes bs)))) s

/-- ATTEST with ARG = 1. DESIGN CHOICE, log 7. -/
def attestPublicKey (p : Nat) (r : VvReq) (s : State) : State :=
  serve p r 5 (attestOk 1 r) (fun s => .done s 0 (bytesOf 64 (Config.sm2Key p))) s

/-! The meanings. -/

/-- REGRD (R439). -/
def execRegrd (pkg : Nat) (r : VvReq) (s : State) : Host.Outcome State Fault Refusal := .next (regrd pkg r s)
/-- REGWR (R439). -/
def execRegwr (pkg : Nat) (r : VvReq) (s : State) : Host.Outcome State Fault Refusal := .next (regwr pkg r s)
/-- MEMRD (R439). -/
def execMemrd (pkg : Nat) (r : VvReq) (s : State) : Host.Outcome State Fault Refusal := .next (memrd pkg r s)
/-- MEMWR (R439). -/
def execMemwr (pkg : Nat) (r : VvReq) (s : State) : Host.Outcome State Fault Refusal := .next (memwr pkg r s)
/-- ATTEST, the report (R449). -/
def execAttestReport (pkg : Nat) (r : VvReq) (s : State) : Host.Outcome State Fault Refusal := .next (attestReport pkg r s)
/-- ATTEST, the public key (R449). -/
def execAttestPublicKey (pkg : Nat) (r : VvReq) (s : State) : Host.Outcome State Fault Refusal :=
  .next (attestPublicKey pkg r s)
/-- HBM_SPLIT written (R26). -/
def execHbmSplitWrite (pkg : Nat) (v : W64) (s : State) : Host.Outcome State Fault Refusal := .next (hbmSplitWrite pkg v s)
/-- CLK.CODE written (R452). -/
def execClkCodeWrite (die : Nat) (v : W64) (s : State) : Host.Outcome State Fault Refusal := .next (clkCodeWrite die v s)

end Sys2Proof.Machine
end

