-- ==== Sys2Proof/Machine/Copy.lean ====
section
/-! DEFINITION. What the engines share (R315 to R320, R343), and the copy engine (R330 to R336). -/

namespace Sys2Proof.Machine

/-! Command lines and their ends. -/

/-- FL (R317). -/
def lineFl (r : Row) : Nat := lineNum r 1 1
/-- SIG. -/
def lineSig (r : Row) : Bool := (lineFl r).testBit 0
/-- ORD. -/
def lineOrd (r : Row) : Bool := (lineFl r).testBit 1
/-- WAITF. -/
def lineWaitf (r : Row) : Bool := (lineFl r).testBit 2
/-- SEM. -/
def lineSem (r : Row) : Nat := lineNum r 2 1
/-- SCL. -/
def lineScl (r : Row) : Nat := lineNum r 3 1
/-- TAG. -/
def lineTag (r : Row) : Nat := lineNum r 4 4

/-- The statuses of R318 that a command ends with. -/
def stDone : Nat := 0x01
/-- BAD_KIND. -/
def stKind : Nat := 0x02
/-- BAD_FIELD. -/
def stField : Nat := 0x03
/-- FD_INVALID. -/
def stFd : Nat := 0x04
/-- BOUNDARY. -/
def stBoundary : Nat := 0x05
/-- RANGE. -/
def stRange : Nat := 0x06
/-- PAGE_FAULT. -/
def stPage : Nat := 0x07
/-- PERM. -/
def stPerm : Nat := 0x08
/-- LINK. -/
def stLink : Nat := 0x09
/-- DONE_ZEROED. -/
def stZeroed : Nat := 0x0A

/-- The cluster that a line's SCL names on a die. -/
def sigCluster (die : Nat) (r : Row) : Nat := die / 8 * 48 + die % 8 * 6 + lineScl r

/-- Whether a line's SCL names a cluster of a die on which the launch places cores (R319). -/
def sclOk (s : State) (lid die : Nat) (r : Row) : Bool :=
  lineScl r < 6 && (s.launch lid).desc.cmask.getLsbD (die % 8 * 6 + lineScl r)

/-- The increment of a line with SIG, on a die: none where its SCL fails (R319). -/
def signalOf (die : Nat) (p : Push) (s : State) : State :=
  if lineSig p.line && sclOk s (partKey p.lid die) die p.line then
    s.engineInc (sigCluster die p.line) (lineSem p.line) 1 else s

/-- A result element (R320). -/
def resultElem (p : Push) (status count : Nat) : W64 :=
  BitVec.ofNat 64 (lineTag p.line * 2 ^ 32 + min 0xFFFF count * 2 ^ 16 + p.kind % 256 * 2 ^ 8 + status)

/-- The result element of a command, into its reserved slot (R316). -/
def putElem (p : Push) (status count : Nat) (s : State) : State :=
  if p.res then
    let k := s.core p.core
    s.setCore p.core { k with
      elems := k.elems.put p.q (k.elems.get [] p.q ++ [resultElem p status count])
      resv := k.resv.put p.q (k.resv.get 0 p.q - 1) }
  else s

/-- The status of a command that completed, by whether data it read was replaced by zeros. -/
def endStatus (status : Nat) (zeroed : Bool) : Nat := if status == stDone && zeroed then stZeroed else status

/-- Under STRICT a command that would end DONE_ZEROED kills its launch (R425). DEDUCED, log 43. -/
def strictEnd (lid status : Nat) (s : State) : State :=
  let x := s.launch lid
  if status == stZeroed && x.strict then
    s.setLaunch lid { x with doom := x.doom <|> some (0x04, Trap.dataError.code) } else s

/-- ENGSTAT.FAILS (R343). -/
def countFail (die status : Nat) (s : State) : State :=
  if status == stDone || status == stZeroed then s
  else s.setDie die { s.die die with failed := sat16 (s.die die).failed }

/-- A command of a copy or berm engine ends: ENGSTAT, its result element. -/
def endCommand (die : Nat) (p : Push) (status count : Nat) (zeroed : Bool) (s : State) : State :=
  let st := endStatus status zeroed
  strictEnd p.lid st (countFail die st (putElem p st count s))

/-! Translation for an engine (R249). -/

/-- Whom an engine's access is made for: the TLB's owner, the package, space and root, the launch that data errors count in. -/
structure EngCtx where
  who   : WalkFor
  pkg   : Nat
  space : Nat
  root  : Nat
  lid   : Nat

/-- The compute die whose walker queue serves an engine. -/
def EngCtx.die (x : EngCtx) : Nat := match x.who with
  | .copy q => clusterDie q
  | .engine f => f
  | _ => 0

/-- An address looked up in an engine's TLB, or in what a walk has given to an access still to be made. -/
def EngCtx.look (x : EngCtx) (s : State) (va : Nat) : Lookup := match x.who with
  | .copy q => s.copyLook q x.pkg x.space x.root va
  | .engine f => s.engineLook f x.pkg x.space x.root va
  | _ => .failed

/-- A walk asked for (R250). -/
def EngCtx.ask (x : EngCtx) (va : Nat) (s : State) : State :=
  s.queueWalk x.die x.space x.root (BitVec.ofNat 64 va) x.who

/-- What an engine keeps of the failed walk of a page, dropped. -/
def EngCtx.forget (x : EngCtx) (va : Nat) (s : State) : State :=
  let other := fun (p : Nat × Nat) => p != (x.space, va / 65536)
  match x.who with
  | .copy q => s.setCluster q { s.cluster q with cbad := (s.cluster q).cbad.filter other }
  | .engine f => s.setDie f { s.die f with ebad := (s.die f).ebad.filter other }
  | _ => s

/-- An engine's translations of an address dropped. -/
def EngCtx.drop (x : EngCtx) (va : Nat) (s : State) : State :=
  let other := fun (e : Xlation) => !e.covers x.space va
  match x.who with
  | .copy q =>
    let k := s.cluster q
    s.setCluster q { k with ctlb := k.ctlb.filter other, pins := k.pins.filter other, got := k.got.filter other }
  | .engine f =>
    let d := s.die f
    s.setDie f { d with etlb := d.etlb.filter other, got := d.got.filter other }
  | _ => s

/-- A translation found for an access that is still to be made: kept until it is made, and the last used of an engine TLB
(R249). -/
def EngCtx.keep (x : EngCtx) (e : Xlation) (s : State) : State :=
  match x.who with
  | .copy q => let k := s.cluster q; if k.got.contains e then s else s.setCluster q { k with got := noteGot k.got e }
  | .engine f =>
    let d := s.die f
    s.setDie f { d with
      etlb := if d.etlb.contains e then tlbPut 1024 d.etlb e else d.etlb
      got := if d.got.contains e then d.got else noteGot d.got e }
  | _ => s

/-- The accesses to some addresses made, or given up: their translations are kept no longer. -/
def EngCtx.done (x : EngCtx) (vas : List Nat) (s : State) : State :=
  match x.who with
  | .copy q => let k := s.cluster q; s.setCluster q { k with got := dropGot x.space vas k.got }
  | .engine f => let d := s.die f; s.setDie f { d with got := dropGot x.space vas d.got }
  | _ => s

/-- Everything that an engine keeps for accesses of an address space given up. -/
def EngCtx.release (x : EngCtx) (s : State) : State :=
  match x.who with
  | .copy q => let k := s.cluster q; s.setCluster q { k with got := k.got.filter fun e => e.space != x.space }
  | .engine f => let d := s.die f; s.setDie f { d with got := d.got.filter fun e => e.space != x.space }
  | _ => s

/-- The translation that an engine holds for an address. -/
def EngCtx.xlate (x : EngCtx) (s : State) (va : Nat) : Option Xlation :=
  match x.look s va with
  | .hit e => some e
  | _ => none

/-- What making a page ready for an access gives: its translation, a wait, or a status. -/
inductive Settled where
  | ok (e : Xlation) (s : State) | waits (s : State) | fails (s : State) (status : Nat)

/-- A page with COW = 1 resolved before an engine's write: the engine resumes with a fresh walk, for which it waits (R270). -/
def EngCtx.resolve (x : EngCtx) (va : Nat) (s : State) : Settled :=
  if !s.cowQuiet x.pkg x.space x.root va then .waits s
  else
    match s.resolveCow x.pkg x.space x.root va with
    | (s, .done) => .waits (x.ask va (x.drop va s))
    | (s, .noWalk) => .fails s stPage
    | (s, _) => .fails s stPerm

/-- A page found by a lookup made ready for a read or a write: a walk asked for on a miss, its permissions checked, a
copy-on-write resolved (R250, R270, R318). -/
def EngCtx.settle (x : EngCtx) (found : Lookup) (write : Bool) (va : Nat) (s : State) : Settled :=
  match found with
  | .failed => .fails (x.forget va s) stPage
  | .miss => .waits (x.ask va s)
  | .hit e =>
    if write then
      if !leafW e.leaf then .fails s stPerm
      else if leafCow e.leaf then x.resolve va s
      else .ok e s
    else if leafR e.leaf then .ok e s
    else .fails s stPerm

/-- What making pages ready gives: a state in which they are, a wait, or a status. -/
inductive Ready where
  | ready (s : State) | waits (s : State) | fails (s : State) (status : Nat)

/-- Pages made ready for accesses, in order: each miss waits for its walk, and what the walks give is kept until the access is
made. DEDUCED, log 17. -/
def EngCtx.prepare (x : EngCtx) : List (Bool × Nat) → State → Ready
  | [], s => .ready s
  | (w, va) :: ps, s =>
    match x.settle (x.look s va) w va s with
    | .fails s st => .fails s st
    | .waits s => .waits s
    | .ok e s => x.prepare ps (x.keep e s)

/-- The pages of 64 KiB that a run of bytes meets, by an address in each. -/
def pageVas (va n : Nat) : List Nat := (pagesOf va n).map fun p => max va (p * 65536)

/-- Bytes read by an engine at the point of coherence, from pages made ready; data errors count in its launch. -/
def EngCtx.read (x : EngCtx) (va n : Nat) (s : State) : List Byte × Bool × State :=
  (pageVas va n).foldl (fun a p =>
    let (bs, z, s) := a
    let m := min (va + n) ((p / 65536 + 1) * 65536) - p
    match x.xlate s p with
    | none => (bs ++ List.replicate m 0, z, s)
    | some e =>
      let (src, o) := e.at (p - e.base)
      let (s, k) := s.meet src o m
      let s := (s.addZeroed x.lid k).countRead src o m
      (bs ++ s.delivered src o m, z || k != 0, s)) ([], false, s)

/-- Bytes written by an engine at the point of coherence, to pages made ready. -/
def EngCtx.write (x : EngCtx) (va : Nat) (bs : List Byte) (s : State) : State :=
  (pageVas va bs.length).foldl (fun s p =>
    let m := min (va + bs.length) ((p / 65536 + 1) * 65536) - p
    match x.xlate s p with
    | none => s
    | some e =>
      let (src, o) := e.at (p - e.base)
      s.deliverTo src (placed o ((bs.drop (p - va)).take m))) s

/-! Runs of a copy command. -/

/-- A part of what a run reads or writes. -/
inductive Piece where
  | sp (addr n : Nat) | mem (va n : Nat) | zero (n : Nat)
deriving DecidableEq, Repr

/-- One run: what it reads, and the places it writes, each a list of parts of the same length in sum. -/
structure RunPlan where
  src : List Piece
  dst : List (List Piece)

/-- A copy command as its runs: how many, and each, or the status that it fails with there. -/
structure CopyPlan where
  runs : Nat
  plan : Nat → Except Nat RunPlan

/-- The pages that a run touches: reads first. -/
def RunPlan.pages (r : RunPlan) : List (Bool × Nat) :=
  let vas := fun (w : Bool) (ps : List Piece) => ps.flatMap fun p => match p with
    | .mem va n => (pageVas va n).map fun v => (w, v)
    | _ => []
  vas false r.src ++ r.dst.flatMap (vas true)

/-- The scratchpad lines that parts meet. -/
def pieceLines (ps : List Piece) : List Nat :=
  ps.flatMap fun p => match p with
    | .sp a n => (List.range ((a % 128 + n + 127) / 128)).map fun i => lineKey (a + 128 * i)
    | _ => []

/-- The scratchpad lines that a run writes. -/
def RunPlan.lines (r : RunPlan) : List Nat := nubNat (r.dst.flatMap pieceLines)

/-- The bytes of a scratchpad address at its bank. -/
def Cluster.spByte (q : Cluster) (a : Nat) : Byte := (q.spLine (lineKey a)).extractLsb' (8 * (a % 128)) 8

/-- The errors of scratchpad lines that an engine's read finds: the lines are replaced by zeros, and counted in its launch
(R450, R451). DESIGN CHOICE, log 42. -/
def EngCtx.meetLines (x : EngCtx) (cl : Nat) (ls : List Nat) (s : State) : Bool × State :=
  let q := s.cluster cl
  if q.badSp.isEmpty then (false, s)
  else (q.badLines ls != 0, (s.addZeroed x.lid (q.badLines ls)).setCluster cl (q.meetSp ls))

/-- Lines of a cluster's scratchpad that an engine's write fills, and the issue of the bundles that waited for them (R219). -/
def State.fillSet (s : State) (cl : Nat) (ls : List Nat) : State :=
  if ls.isEmpty then s
  else (s.setCluster cl (ls.foldl (fun q l => q.setFull l 1 true) (s.cluster cl))).wakeReaders cl

/-- What parts hold, read in order. -/
def readPieces (x : EngCtx) (cl : Nat) : List Piece → State → List Byte × Bool × State
  | [], s => ([], false, s)
  | p :: ps, s =>
    let (bs, z, s) := match p with
      | .sp a n =>
        let (z, s) := x.meetLines cl (pieceLines [p]) s
        ((List.range n).map fun i => (s.cluster cl).spByte (a + i), z, s)
      | .mem va n => x.read va n s
      | .zero n => (List.replicate n 0, false, s)
    let (bs', z', s) := readPieces x cl ps s
    (bs ++ bs', z || z', s)

/-- Bytes written to parts in order. -/
def writePieces (x : EngCtx) (cl : Nat) : List Piece → List Byte → State → State
  | [], _, s => s
  | p :: ps, bs, s =>
    match p with
    | .sp a n => writePieces x cl ps (bs.drop n) (s.setCluster cl ((s.cluster cl).setSp a (bs.take n)))
    | .mem va n => writePieces x cl ps (bs.drop n) (x.write va (bs.take n) s)
    | .zero n => writePieces x cl ps (bs.drop n) s

/-- The lines of a run that no later run of the command writes: they are set full (R331). -/
def lastLines (p : CopyPlan) (i : Nat) (ls : List Nat) : List Nat :=
  (List.range (p.runs - (i + 1))).foldl (fun ls j =>
    if ls.isEmpty then ls
    else match p.plan (i + 1 + j) with
      | .ok r => let later := r.lines; ls.filter fun l => !later.contains l
      | .error _ => ls) ls

/-- One run made: all its bytes read, then written, and the lines it completes set full. -/
def doRun (x : EngCtx) (cl : Nat) (p : CopyPlan) (i : Nat) (r : RunPlan) (s : State) : Bool × State :=
  let (bs, z, s) := readPieces x cl r.src s
  let s := r.dst.foldl (fun s d => writePieces x cl d bs s) s
  (z, s.fillSet cl (lastLines p i r.lines))

/-- Whether a line that a run fills is to be emptied in this cycle: the emptying comes first (R219). -/
def fillWaits (cl : Nat) (ls : List Nat) (s : State) : Bool := ls.any fun l => s.emptiesFirst cl l s.now

/-- The page of an address as far as the engine knows it: that of the translation it holds, or 64 KiB. -/
def EngCtx.pageOf (x : EngCtx) (s : State) (va : Nat) : Nat := match x.look s va with
  | .hit e => e.base / 65536
  | _ => va / 65536

/-- What the scout has gathered: the accesses ahead, their pages, and whether the SCOUT distance is reached. -/
structure Ahead where
  acc   : List (Bool × Nat) := []
  pages : List Nat := []
  full  : Bool := false

/-- One access ahead gathered: a page counts once, and one of the run being moved not at all (R117, R336). -/
def EngCtx.ahead (x : EngCtx) (s : State) (dist : Nat) (own : List (Bool × Nat)) (a : Ahead) (q : Bool × Nat) : Ahead :=
  let g := x.pageOf s q.2
  let same := fun (r : Bool × Nat) => r.1 == q.1 && x.pageOf s r.2 == g
  if a.full || own.any same || a.acc.any same then a
  else if a.pages.contains g || own.any fun r => x.pageOf s r.2 == g then { a with acc := a.acc ++ [q] }
  else if dist ≤ a.pages.length then { a with full := true }
  else { a with acc := a.acc ++ [q], pages := a.pages ++ [g] }

/-- The accesses of runs after run `i`, in iteration order, as many pages ahead of it as the SCOUT distance (R336). DEDUCED,
log 17. -/
def EngCtx.scoutPages (x : EngCtx) (s : State) (p : CopyPlan) (i dist : Nat) (own : List (Bool × Nat)) : List (Bool × Nat) :=
  ((List.range (p.runs - (i + 1))).foldl (fun a j =>
    if a.full || dist == 0 then a
    else match p.plan (i + 1 + j) with
      | .ok r => r.pages.foldl (x.ahead s dist own) a
      | .error _ => { a with full := true }) ({} : Ahead)).acc

/-- A translation that the scout has fetched, pinned (R249). -/
def EngCtx.pin (x : EngCtx) (e : Xlation) (s : State) : State :=
  match x.who with
  | .copy q =>
    let k := (s.cluster q).fillTlb e
    s.setCluster q { k with pins := if k.pins.contains e then k.pins else k.pins ++ [e] }
  | _ => s

/-- Whether the scout must stall: every entry of the TLB is pinned (R249). -/
def EngCtx.pinned (x : EngCtx) (s : State) : Bool :=
  match x.who with
  | .copy q => copyRoom ≤ (s.cluster q).pins.length
  | _ => false

/-- The pages of a run used by its data: their translations are kept and pinned no longer (R249). -/
def EngCtx.consume (x : EngCtx) (vas : List Nat) (s : State) : State :=
  let s := x.done vas s
  match x.who with
  | .copy q =>
    let k := s.cluster q
    if k.pins.isEmpty then s
    else s.setCluster q { k with pins := k.pins.filter fun e => !vas.any (e.covers x.space) }
  | _ => s

/-- The scout's walk over pages ahead of the data: it stops at a page it must wait for, without holding the data up
(R336). -/
def EngCtx.scout (x : EngCtx) : List (Bool × Nat) → State → Ready
  | [], s => .ready s
  | (w, va) :: ps, s =>
    if x.pinned s then .waits s
    else
      match x.settle (x.look s va) w va s with
      | .fails s st => .fails s st
      | .waits s => .waits s
      | .ok e s => x.scout ps (x.done [va] (x.pin e s))

/-- Whether a page can be read, or written without a resolution. -/
def EngCtx.usable (x : EngCtx) (s : State) (q : Bool × Nat) : Bool :=
  match x.xlate s q.2 with
  | none => false
  | some e => if q.1 then leafW e.leaf && !leafCow e.leaf else leafR e.leaf

/-- Bytes of a run that a page stops, written up to that page (R270). -/
def writeUntil (x : EngCtx) : List (Nat × List Byte) → State → State
  | [], s => s
  | (va, bs) :: ws, s => if x.usable s (true, va) then writeUntil x ws (x.write va bs s) else s

/-- The bytes for parts of memory by page, in order. -/
def pagePieces : List Piece → List Byte → List (Nat × List Byte)
  | [], _ => []
  | .mem va n :: ps, bs =>
    (pageVas va n).map (fun p => (p, (bs.drop (p - va)).take (min (va + n) ((p / 65536 + 1) * 65536) - p)))
      ++ pagePieces ps (bs.drop n)
  | .sp _ n :: ps, bs | .zero n :: ps, bs => pagePieces ps (bs.drop n)

/-- Bytes written at addresses in order, by page, up to a page that cannot be written (R270). -/
def EngCtx.writePart (x : EngCtx) (ws : List (Nat × List Byte)) (s : State) : State :=
  writeUntil x (ws.flatMap fun w => pagePieces [.mem w.1 w.2.length] w.2) s

/-- What a run that fails at a page without a scout has done: where it could read, its writes to the pages before. DEDUCED,
log 17. -/
def failRun (x : EngCtx) (cl : Nat) (r : RunPlan) (s : State) : State :=
  if (r.pages.filter fun q => !q.1).all (x.usable s) then
    let (bs, _, s) := readPieces x cl r.src s
    writeUntil x (r.dst.flatMap fun d => pagePieces d bs) s
  else s

/-- Whether a command with WAITF must wait for a source line of a run. -/
def waitsLine (cl : Nat) (p : Push) (r : RunPlan) (s : State) : Bool :=
  lineWaitf p.line && (pieceLines r.src).any fun l => (s.cluster cl).full.read l == 0

/-- What a copy command has come to: it waits at a run, or it ends. -/
inductive CopyEnd where
  | waits (r : Run) | ends (r : Run)

/-- A command that its scout fails (R336, R343). -/
def scoutFail (cl status : Nat) (r : Run) (s : State) : CopyEnd × State :=
  let f := clusterDie cl
  (.ends { r with status }, s.setDie f { s.die f with scoutf := sat16 (s.die f).scoutf })

/-- The runs of a command from where it stands, until it waits or ends: a run's own pages are made ready, the scout goes
ahead, the run is made. DESIGN CHOICE, log 2. -/
def copyRuns (x : EngCtx) (cl : Nat) (p : CopyPlan) : Nat → Run → State → CopyEnd × State
  | 0, r, s => (.ends r, s)
  | fuel + 1, r, s =>
    if p.runs ≤ r.prog then (.ends r, s)
    else
      match p.plan r.prog with
      | .error st => (.ends { r with status := st }, s)
      | .ok run =>
        match x.prepare run.pages s with
        | .waits s => (.waits r, s)
        | .fails s st =>
          if r.push.scout == 0 then (.ends { r with status := st }, x.done (run.pages.map (·.2)) (failRun x cl run s))
          else scoutFail cl st r (x.done (run.pages.map (·.2)) s)
        | .ready s =>
          let go := fun (s : State) =>
            if waitsLine cl r.push run s || fillWaits cl (lastLines p r.prog run.lines) s then (.waits r, s)
            else
              let (z, s) := doRun x cl p r.prog run s
              let s := x.consume (run.pages.map (·.2)) s
              copyRuns x cl p fuel { r with prog := r.prog + 1, count := r.count + 1, zeroed := r.zeroed || z } s
          match x.scout (x.scoutPages s p r.prog r.push.scout run.pages) s with
          | .fails s st => scoutFail cl st r s
          | .waits s | .ready s => go s

/-! CPY and CPYT (R330, R331, R333). -/

/-- Whether a CPY address keeps its limits. -/
def cpyAddrOk (v : Nat) : Bool := if v.testBit 63 then v / 2 ^ 24 % 2 ^ 39 == 0 else v / 2 ^ 56 == 0

/-- A count of a CPY line. -/
def cpyCount (r : Row) (i : Nat) : Nat := lineNum r (36 + 2 * i) 2

/-- The checks of a CPY line at its start. -/
def cpyOk (r : Row) : Bool :=
  cpyAddrOk (lineNum r 16 8) && cpyAddrOk (lineNum r 24 8) && 1 ≤ lineNum r 32 4 && lineNum r 32 4 ≤ 2 ^ 20
    && (List.range 5).all (fun i => 1 ≤ cpyCount r i) && lineNum r 46 2 == 0

/-- The part that a run's address names, or RANGE. -/
def cpyPiece (scratch : Bool) (v n : Nat) : Except Nat (List Piece) :=
  if scratch then
    let a := v % 2 ^ 63
    if a < 2 ^ 24 && v.testBit 63 && a % 2 ^ 21 + n ≤ laneTop then .ok [.sp a n] else .error stRange
  else .ok [.mem v n]

/-- CPY as its runs. -/
def cpyPlan (r : Row) (op : Nat) : CopyPlan where
  runs := (List.range 5).foldl (fun p i => p * cpyCount r i) 1
  plan k :=
    let sum := fun (base at' : Nat) =>
      ((List.range 5).foldl (fun (a : Nat × Nat) i =>
        (a.1 + a.2 % cpyCount r i * lineNum r (at' + 8 * i) 8, a.2 / cpyCount r i)) (base, k)).1 % 2 ^ 64
    let n := lineNum r 32 4
    match cpyPiece ((lineNum r 16 8).testBit 63) (sum (lineNum r 16 8) 48) n,
      cpyPiece ((lineNum r 24 8).testBit 63) (sum (lineNum r 24 8 + op) 88) n with
    | .ok a, .ok b => .ok ⟨a, [b]⟩
    | .error e, _ => .error e
    | _, .error e => .error e

/-! CPYF (R334). -/

/-- A coordinate through the mode of the face it passes: the coordinate, an element that reads zero or is dropped, or a
failure. -/
inductive Edge where
  | at (i : Nat) | zero | drop | fails

/-- A coordinate `u` on an axis of extent `n` whose low and high faces have modes `lo` and `hi`. -/
def edgeOf (write : Bool) (n lo hi : Nat) (u : Int) : Edge :=
  if 0 ≤ u && u < n then .at u.toNat
  else
    match if u < 0 then lo else hi with
    | 3 => .at (u % (n : Int)).toNat
    | 2 => if write then .drop else .at (min (max u 0) (n - 1)).toNat
    | 1 => if write then .drop else .zero
    | _ => .fails

/-- A signed 32-bit field of a line. -/
def lineInt (r : Row) (lo : Nat) : Int := toSigned 32 (lineNum r lo 4)

/-- The extents of a CPYF box: EW, EH, ET and EC by their order in the line. -/
def cpyfExt (r : Row) (i : Nat) : Nat := lineNum r (40 + 2 * i) 2

/-- The checks of a CPYF line's own fields. DEDUCED, log 17. -/
def cpyfOk (r : Row) : Bool :=
  lineNum r 16 1 < 16 && lineNum r 17 1 < 4 && lineNum r 18 2 == 0 && lineNum r 23 1 == 0 && lineNum r 38 2 == 0
    && (List.range 4).all fun i => 1 ≤ cpyfExt r i

/-- Runs of channels of a position at one copy of a field, as parts. -/
def channelPieces (d : FieldDesc) (t h w c0 n own : Nat) : List Piece :=
  if d.layout == 2 then (List.range n).map fun k => .mem (d.addr t h w (c0 + k) own) d.es
  else [.mem (d.addr t h w c0 own) (n * d.es)]

/-- A position of a CPYF box, as a run. `own` is the group index of the engine's die. -/
def cpyfRun (r : Row) (d : FieldDesc) (own : Option Nat) (spad : Nat) (k : Nat) : Except Nat RunPlan :=
  let (et, eh, ew, ec) := (cpyfExt r 0, cpyfExt r 1, cpyfExt r 2, cpyfExt r 3)
  let c0 := lineNum r 36 2
  let write := (lineNum r 17 1).testBit 0
  let n := ec * d.es
  let sp : List Piece := [.sp (spad + k * n) n]
  let u := (lineInt r 24 + (k / ew / eh % et : Nat), lineInt r 28 + (k / ew % eh : Nat), lineInt r 32 + (k % ew : Nat))
  if (lineNum r 17 1).testBit 1 then
    let inside := fun (v : Int) (p lo hi : Nat) => -(lo : Int) ≤ v && v < p + hi
    if inside u.1 d.tp (d.haloOf 0) (d.haloOf 1) && inside u.2.1 d.hp (d.haloOf 2) (d.haloOf 3)
        && inside u.2.2 d.wp (d.haloOf 4) (d.haloOf 5) then
      let va := d.polder (own.getD 0) (u.1 + d.haloOf 0).toNat (u.2.1 + d.haloOf 2).toNat (u.2.2 + d.haloOf 4).toNat c0
      .ok (if write then ⟨sp, [[.mem va n]]⟩ else ⟨[.mem va n], [sp]⟩)
    else .error stBoundary
  else
    match edgeOf write d.t (d.boundOf 0) (d.boundOf 1) u.1, edgeOf write d.h (d.boundOf 2) (d.boundOf 3) u.2.1,
      edgeOf write d.w (d.boundOf 4) (d.boundOf 5) u.2.2 with
    | .at t, .at h, .at w =>
      if write then
        let copies := if d.layout == 3 then List.range d.group else [0]
        .ok ⟨sp, copies.map fun i => channelPieces d t h w c0 ec i⟩
      else .ok ⟨channelPieces d t h w c0 ec (own.getD 0), [sp]⟩
    | .fails, _, _ | _, .fails, _ | _, _, .fails => .error stBoundary
    | _, _, _ => .ok (if write then ⟨[.zero 0], []⟩ else ⟨[.zero n], [sp]⟩)

/-- CPYF as its runs, or the status it fails with at its start. -/
def cpyfPlan (r : Row) (op : Nat) (d : FieldDesc) (own : Option Nat) : Except Nat CopyPlan :=
  let spad := lineNum r 20 4 + op % 2 ^ 24
  let n := cpyfExt r 0 * cpyfExt r 1 * cpyfExt r 2
  let local' := (lineNum r 17 1).testBit 1
  if !cpyfOk r then .error stField
  else if d.unset || (local' && (d.layout != 1 || own.isNone)) then .error stFd
  else if d.c < lineNum r 36 2 + cpyfExt r 3 || lineNum r 20 4 % d.es != 0 then .error stField
  else if 2 ^ 24 ≤ spad || laneTop < spad % 2 ^ 21 + n * cpyfExt r 3 * d.es then .error stRange
  else .ok ⟨n, cpyfRun r d own spad⟩

/-! CPYH (R335). -/

/-- The lane grid of a CPYH line: LW, LH, LT. -/
def laneGrid (r : Row) : Nat × Nat × Nat :=
  let g := lineNum r 30 1
  (2 ^ (g % 4), 2 ^ (g / 4 % 4), 2 ^ (g / 16 % 4))

/-- The checks of a CPYH line. -/
def cpyhOk (r : Row) : Bool :=
  let g := lineNum r 30 1
  let es := lineNum r 28 1
  let hw := lineNum r 29 1
  let b := fun i => lineNum r (20 + 2 * i) 2
  lineNum r 16 4 < 2 ^ 21 && (es == 1 || es == 2 || es == 4 || es == 8) && lineNum r 16 4 % es == 0
    && (List.range 3).all (fun i => 1 ≤ b i && hw ≤ b i) && 1 ≤ lineNum r 26 2 && 1 ≤ hw && hw ≤ 7
    && g < 64 && g % 4 + g / 4 % 4 + g / 16 % 4 ≤ 3 && lineNum r 32 96 == 0

/-- The dense extents of a CPYH sub-block: T, H, W. -/
def cpyhDims (r : Row) : Nat × Nat × Nat :=
  let hw := 2 * lineNum r 29 1
  (lineNum r 20 2 + hw, lineNum r 22 2 + hw, lineNum r 24 2 + hw)

/-- The bytes of a CPYH sub-block. -/
def cpyhBytes (r : Row) : Nat :=
  let (a, b, c) := cpyhDims r
  a * b * c * lineNum r 26 2 * lineNum r 28 1

/-- The scratchpad address of a channel vector of a lane's sub-block, coordinates counted from the first halo plane. -/
def cpyhAddr (r : Row) (lane t h w : Nat) : Nat :=
  let (_, b, c) := cpyhDims r
  lane * 2 ^ 21 + lineNum r 16 4 + ((t * b + h) * c + w) * (lineNum r 26 2 * lineNum r 28 1)

/-- The copies of one phase for one lane: source and destination addresses of channel vectors. Phase 0 fills the T faces,
1 the H faces, 2 the W faces. -/
def cpyhCopies (r : Row) (phase lane : Nat) : List (Nat × Nat) :=
  let (lw, lh, lt) := laneGrid r
  let hw := lineNum r 29 1
  let (dt, dh, dw) := cpyhDims r
  let x := lane % lw
  let y := lane / lw % lh
  let z := lane / lw / lh
  let (pos, ext, stride, bn) := match phase with
    | 0 => (z, lt, lw * lh, lineNum r 20 2)
    | 1 => (y, lh, lw, lineNum r 22 2)
    | _ => (x, lw, 1, lineNum r 24 2)
  let faces := (if 0 < pos then [(lane - stride, 0, bn)] else [])
    ++ (if pos + 1 < ext then [(lane + stride, hw + bn, hw)] else [])
  let span := fun (axis d : Nat) => if axis < phase then (List.range d) else (List.range (d - 2 * hw)).map (· + hw)
  faces.flatMap fun f =>
    (List.range hw).flatMap fun i =>
      match phase with
      | 0 => (span 1 dh).flatMap fun h => (span 2 dw).map fun w =>
          (cpyhAddr r f.1 (f.2.2 + i) h w, cpyhAddr r lane (f.2.1 + i) h w)
      | 1 => (span 0 dt).flatMap fun t => (span 2 dw).map fun w =>
          (cpyhAddr r f.1 t (f.2.2 + i) w, cpyhAddr r lane t (f.2.1 + i) w)
      | _ => (span 0 dt).flatMap fun t => (span 1 dh).map fun h =>
          (cpyhAddr r f.1 t h (f.2.2 + i), cpyhAddr r lane t h (f.2.1 + i))

/-- The lanes of a CPYH line's LANES that lie in its lane grid. DESIGN CHOICE, log 60. -/
def cpyhLanes (r : Row) : List Nat :=
  let (lw, lh, lt) := laneGrid r
  (List.range 8).filter fun l => (lineNum r 31 1).testBit l && l < lw * lh * lt

/-- One phase of a CPYH on a cluster: every source is read before any destination is written. -/
def cpyhPhase (r : Row) (q : Cluster) (phase : Nat) : Cluster :=
  let n := lineNum r 26 2 * lineNum r 28 1
  let cs := (cpyhLanes r).flatMap (cpyhCopies r phase)
  let vs := cs.map fun c => (c.2, (List.range n).map fun i => q.spByte (c.1 + i))
  vs.foldl (fun q v => q.setSp v.1 v.2) q

/-- The lines that a phase of a CPYH reads, or writes. -/
def cpyhPhaseLines (r : Row) (phase : Nat) (write : Bool) : List Nat :=
  let n := lineNum r 26 2 * lineNum r 28 1
  nubNat ((cpyhLanes r).flatMap fun l => (cpyhCopies r phase l).flatMap fun c =>
    pieceLines [.sp (if write then c.2 else c.1) n])

/-- The lines that some phases of a CPYH write. -/
def cpyhWrites (r : Row) (phases : List Nat) : List Nat := phases.flatMap fun p => cpyhPhaseLines r p true

/-- Whether a phase of a CPYH with WAITF must wait for a source line: one that no earlier phase of the command writes and that
is not full. DEDUCED, log 17. -/
def cpyhWaits (r : Row) (phase : Nat) (q : Cluster) : Bool :=
  let own := cpyhWrites r (List.range phase)
  lineWaitf r && (cpyhPhaseLines r phase false).any fun l => !own.contains l && q.full.read l == 0

/-- The lines that a phase of a CPYH sets full: those that no later phase writes (R331). -/
def cpyhFills (r : Row) (phase : Nat) : List Nat :=
  let later := cpyhWrites r ((List.range 3).filter (phase < ·))
  (cpyhPhaseLines r phase true).filter fun l => !later.contains l

/-- One phase of a CPYH made: its copies, and the lines it completes set full. -/
def cpyhDo (x : EngCtx) (cl : Nat) (r : Row) (phase : Nat) (s : State) : Bool × State :=
  let (z, s) := x.meetLines cl (cpyhPhaseLines r phase false) s
  (z, (s.setCluster cl (cpyhPhase r (s.cluster cl) phase)).fillSet cl (cpyhFills r phase))

/-- The phases of a CPYH from where it stands, until it waits or ends. DESIGN CHOICE, log 2. -/
def cpyhRuns (x : EngCtx) (cl : Nat) : Nat → Run → State → CopyEnd × State
  | 0, r, s => (.ends { r with count := (cpyhLanes r.push.line).length }, s)
  | fuel + 1, r, s =>
    if 3 ≤ r.prog then (.ends { r with count := (cpyhLanes r.push.line).length }, s)
    else if cpyhWaits r.push.line r.prog (s.cluster cl) || fillWaits cl (cpyhFills r.push.line r.prog) s then (.waits r, s)
    else
      let (z, s) := cpyhDo x cl r.push.line r.prog s
      cpyhRuns x cl fuel { r with prog := r.prog + 1, zeroed := r.zeroed || z } s

/-! Commands of a copy engine (R332, R333). -/

/-- The input queue of a cluster's copy engine. -/
def copyQueue (cl : Nat) : Nat := 10000000 + cl

/-- The context of a copy command. -/
def copyCtx (s : State) (cl : Nat) (p : Push) : EngCtx :=
  { who := .copy cl, pkg := cl / 48, space := (s.launch p.lid).queue, root := (s.launch p.lid).root, lid := p.lid }

/-- Whether a command with ORD must wait: an earlier command of its queue has not ended. -/
def ordWaits (s : State) (cl : Nat) (p : Push) : Bool :=
  lineOrd p.line && ((s.engq (copyQueue cl)).running.any (fun r => r.push.no < p.no)
    || (s.cluster cl).tbuf.any fun t => t.push.no < p.no)

/-- A command's plan: the runs of a CPY, CPYT or CPYF, or the phases of a CPYH. -/
inductive CopyWork where
  | runs (p : CopyPlan) | phases

/-- A command at its start: the status it fails with, or its work. Of several rules broken, FL, SIG and SCL come first, then the
kind, then the line's fields in this order. DESIGN CHOICE, log 59. -/
def copyStart (s : State) (cl : Nat) (p : Push) : Except Nat CopyWork :=
  let r := p.line
  let f := clusterDie cl
  if 8 ≤ lineFl r || (lineSig r && !sclOk s p.lid f r) then .error stField
  else
    match p.kind with
    | 0x01 => if cpyOk r then .ok (.runs (cpyPlan r p.opnd.toNat)) else .error stField
    | 0x02 => if cpyOk r then .ok (.runs (cpyPlan r 0)) else .error stField
    | 0x03 =>
      let d := descOf (s.fds p.lid) (lineNum r 16 1)
      (cpyfPlan r p.opnd.toNat d (d.indexOf f)).map .runs
    | 0x04 =>
      if !cpyhOk r then .error stField
      else if laneTop < lineNum r 16 4 + cpyhBytes r then .error stRange
      else .ok .phases
    | _ => .error stKind

/-- A running command gone on with. -/
def copyWork (cl : Nat) (r : Run) (s : State) : CopyEnd × State :=
  match copyStart s cl r.push with
  | .error st => (.ends { r with status := st }, s)
  | .ok .phases => cpyhRuns (copyCtx s cl r.push) cl 3 r s
  | .ok (.runs p) => copyRuns (copyCtx s cl r.push) cl p (p.runs + 1) r s

/-- A copy command gone on with, or ended: its result element, its increment, its entry among the running ones. -/
def copyGo (cl i : Nat) (r : Run) (s : State) : State :=
  let t := copyQueue cl
  let f := clusterDie cl
  match copyWork cl r s with
  | (.waits r, s) => s.setEngq t { s.engq t with running := replaceAt (s.engq t).running i r }
  | (.ends r, s) =>
    let s := s.setEngq t { s.engq t with running := removeAt (s.engq t).running i }
    signalOf f r.push (endCommand f r.push r.status r.count r.zeroed s)

/-- Whether a command that names a descriptor must wait (R377): a RESHARD of it is posted, on its own die where that is in
the descriptor's group and on any die otherwise, and the command came later. DEDUCED, log 34. -/
def State.reshardHolds (s : State) (f t : Nat) (p : Push) : Bool :=
  let fd := lineNum p.line 16 1
  let own := ((descOf (s.fds (partKey p.lid f)) fd).indexOf f).isSome
  s.engqs.any fun e =>
    (if own then e.1 == 30000000 + f else 30000000 ≤ e.1 && e.1 < 40000000) && e.2.running.any fun r =>
      r.push.kind == 0x28 && (s.parts p.lid).contains r.push.lid && r.status == stDone && r.counts
        && lineNum r.push.line 16 1 == fd && !r.before.contains (t, p.no)

/-- The head of a copy engine's queue, where it may start: one of some kinds, with fewer than four commands running. -/
def copyHead (s : State) (cl : Nat) (kinds : Nat → Bool) : Option Push :=
  let q := s.engq (copyQueue cl)
  match q.entries with
  | p :: _ => if kinds p.kind && q.running.length < 4 && !ordWaits s cl p
      && !(p.kind == 0x03 && s.reshardHolds (clusterDie cl) (copyQueue cl) p) then some p else none
  | [] => none

/-- The head of a queue becomes a running command. -/
def startHead (t : Nat) (p : Push) (s : State) : State :=
  let q := s.engq t
  s.setEngq t { q with entries := q.entries.drop 1, running := q.running ++ [{ push := p }] }

/-- A command of some kinds at a position among the running ones is gone on with; past the last, the head of the queue
starts. -/
def copyCommand (kinds : Nat → Bool) (cl i : Nat) (s : State) : State :=
  let t := copyQueue cl
  match (s.engq t).running[i]? with
  | some r => if kinds r.push.kind then copyGo cl i r s else s
  | none =>
    match copyHead s cl kinds with
    | none => s
    | some p =>
      let s := startHead t p s
      copyGo cl ((s.engq t).running.length - 1) { push := p } s

/-- CPY_COMMAND (R331): a CPY, a CPYT that has started, or a command of a kind the engine does not accept. -/
def cpyCommand (cl i : Nat) (s : State) : State :=
  let running := i < (s.engq (copyQueue cl)).running.length
  copyCommand (fun k => k != 0x03 && k != 0x04 && (running || k != 0x02)) cl i s

/-- CPYF_COMMAND (R334). -/
def cpyfCommand (cl i : Nat) (s : State) : State := copyCommand (· == 0x03) cl i s

/-- CPYH_COMMAND (R335). -/
def cpyhCommand (cl i : Nat) (s : State) : State := copyCommand (· == 0x04) cl i s

/-- A command put into a time buffer, sorted by time, equal times in push order (R333). -/
def timedPut (t : Timed) : List Timed → List Timed
  | [] => [t]
  | x :: xs => if t.time.toNat < x.time.toNat then t :: x :: xs else x :: timedPut t xs

/-- CPYT_TIMED_START (R333): the first buffered command whose time has come starts; where none can, a CPYT at the head of
the queue moves into the time buffer. -/
def cpytTimedStart (cl : Nat) (s : State) : State :=
  let t := copyQueue cl
  let k := s.cluster cl
  let q := s.engq t
  let due := fun (x : Timed) =>
    x.time.toNat ≤ (s.tbase (cl / 48)).toNat && x.entered + 16 ≤ s.now && !ordWaits s cl x.push
  match (if q.running.length < 4 then k.tbuf.find? due else none), q.entries with
  | some x, _ =>
    let s := s.setCluster cl { k with tbuf := k.tbuf.filter fun y => y != x }
    let s := s.setEngq t { q with running := q.running ++ [{ push := x.push }] }
    copyGo cl q.running.length { push := x.push } s
  | none, p :: ps =>
    if p.kind == 0x02 && k.tbuf.length < 64 then
      (s.setEngq t { q with entries := ps }).setCluster cl { k with tbuf := timedPut ⟨p.opnd, s.now, p⟩ k.tbuf }
    else s
  | none, [] => s

/-! The meanings. -/

/-- CPY_COMMAND (R331). -/
def execCpyCommand (cluster idx : Nat) (s : State) : Host.Outcome State Fault Refusal := .next (cpyCommand cluster idx s)
/-- CPYT_TIMED_START (R333). -/
def execCpytTimedStart (cluster : Nat) (s : State) : Host.Outcome State Fault Refusal := .next (cpytTimedStart cluster s)
/-- CPYF_COMMAND (R334). -/
def execCpyfCommand (cluster idx : Nat) (s : State) : Host.Outcome State Fault Refusal := .next (cpyfCommand cluster idx s)
/-- CPYH_COMMAND (R335). -/
def execCpyhCommand (cluster idx : Nat) (s : State) : Host.Outcome State Fault Refusal :=
  .next (cpyhCommand cluster idx s)

end Sys2Proof.Machine
end

