-- ==== Sys2Proof/Machine/Torus.lean ====
section
/-! DEFINITION. The torus of compute dies (R16 to R20) and its live links (R22, R23): neighbours, routes in dimension order
(R341), spanning trees (R354). -/

namespace Sys2Proof.Machine

/-- The package extent of a fabric on an axis (R21). -/
def pkgExtent (t : BitVec 21) (a : Nat) : Nat := (t.extractLsb' (12 + 3 * a) 3).toNat + 1

/-- Whether a package runs an axis open (R19, R20). -/
def axisOpen (t : BitVec 21) (a : Nat) : Bool := t.getLsbD a && 1 < pkgExtent t a

/-- The local coordinate of a die on an axis (R16). -/
def localCoord (f a : Nat) : Nat := f % 8 / 2 ^ a % 2

/-- The package one further on an axis (R17). -/
def nextPkg (t : BitVec 21) (p a : Nat) (plus : Bool) : Nat :=
  let n := pkgExtent t a
  let c := p / 8 ^ a % 8
  p - 8 ^ a * c + 8 ^ a * ((if plus then c + 1 else c + n - 1) % n)

/-- Whether a die reaches a neighbour over its external port (R19). -/
def State.viaExternal (s : State) (f a : Nat) (plus : Bool) : Bool :=
  axisOpen (s.pkg (diePkg f)).topo a && (if plus then localCoord f a == 1 else localCoord f a == 0)

/-- The neighbour of a die (R19). -/
def State.neighbour (s : State) (f a : Nat) (plus : Bool) : Nat :=
  let x := f % 8
  let y := if localCoord f a == 0 then x + 2 ^ a else x - 2 ^ a
  if s.viaExternal f a plus then nextPkg (s.pkg (diePkg f)).topo (diePkg f) a plus * 8 + y else f / 8 * 8 + y

/-- The port of a die on the link to a neighbour. -/
def State.portTo (s : State) (f a : Nat) (plus : Bool) : Nat := if s.viaExternal f a plus then 3 + a else a

/-- Whether the link to a neighbour is live: both ends read UP (R23). DEDUCED, log 31. -/
def State.linkLive (s : State) (f a : Nat) (plus : Bool) : Bool :=
  let i := s.portTo f a plus
  ((s.die f).ports.get {} i).state == 1 && ((s.die (s.neighbour f a plus)).ports.get {} i).state == 1

/-- A link named by its two dies, the lower first. -/
def linkName (f g : Nat) : Nat × Nat := (min f g, max f g)

/-! Routes in dimension order (R341). -/

/-- The dies of a ring on an axis, and a die's place on it. -/
def State.ring (s : State) (f a : Nat) : Nat × Nat :=
  let t := (s.pkg (diePkg f)).topo
  if axisOpen t a then (2 * pkgExtent t a, 2 * (diePkg f / 8 ^ a % 8) + localCoord f a) else (2, localCoord f a)

/-- The links of a walk of `n` hops on an axis, each as the die it leaves, and the die at the end. -/
def State.hops (s : State) (a : Nat) (plus : Bool) : Nat → Nat → List Nat × Nat
  | 0, f => ([], f)
  | n + 1, f =>
    let (fs, e) := s.hops a plus n (s.neighbour f a plus)
    (f :: fs, e)

/-- The hops in the + direction to a place on an axis, and in the − direction. -/
def State.axisHops (s : State) (f g a : Nat) : Nat × Nat :=
  let (n, x) := s.ring f a
  let y := (s.ring g a).2
  ((y + n - x) % n, (x + n - y) % n)

/-- The direction a packet takes first: the shorter one, + where they are equal. DEDUCED, log 31. -/
def State.firstWay (s : State) (f g a : Nat) : Bool := (s.axisHops f g a).1 ≤ (s.axisHops f g a).2

/-- One way along an axis, where every link of it is live. DEDUCED, log 31. -/
def State.axisWay (s : State) (f g a : Nat) (plus : Bool) : Option Nat :=
  let n := if plus then (s.axisHops f g a).1 else (s.axisHops f g a).2
  let (fs, e) := s.hops a plus n f
  if fs.all fun h => s.linkLive h a plus then some e else none

/-- Along an axis: the first way, or the other one where it alone is live. -/
def State.axisRoute (s : State) (f g a : Nat) : Option Nat :=
  s.axisWay f g a (s.firstWay f g a) <|> s.axisWay f g a (!s.firstWay f g a)

/-- Whether a die has a live path to another: X, then Y, then Z. DEDUCED, log 31. -/
def State.reaches (s : State) (f g : Nat) : Bool :=
  ((s.axisRoute f g 0).bind fun h => (s.axisRoute h g 1).bind fun h => s.axisRoute h g 2) == some g

/-- The next die on the way of a packet to another: X, then Y, then Z, the first way of the axis or the one that is live (R341).
DEDUCED, log 31. -/
def State.nextDie (s : State) (f g : Nat) : Option Nat :=
  if !s.reaches f g then none
  else ([0, 1, 2].find? fun a => s.axisHops f g a != (0, 0)).map fun a =>
    let w := s.firstWay f g a
    s.neighbour f a (if (s.axisWay f g a w).isSome then w else !w)

/-- Whether two neighbouring dies have a live link. -/
def State.joined (s : State) (f g : Nat) : Bool :=
  f == g || (List.range 6).any fun c => s.neighbour f (c / 2) (c % 2 == 0) == g && s.linkLive f (c / 2) (c % 2 == 0)

/-- The links of the first-choice route between two dies, whether live or not: the die each leaves, the axis, the way. -/
def State.routeLinks (s : State) (f g : Nat) : List (Nat × Nat × Bool) :=
  ([0, 1, 2].foldl (fun (r : List (Nat × Nat × Bool) × Nat) a =>
    let plus := s.firstWay r.2 g a
    let n := if plus then (s.axisHops r.2 g a).1 else (s.axisHops r.2 g a).2
    let (fs, e) := s.hops a plus n r.2
    (r.1 ++ fs.map fun h => (h, a, plus), e)) ([], f)).1

/-! Spanning trees (R354). -/

/-- Every live link of the fabric, by name. -/
def State.liveLinks (s : State) : List (Nat × Nat) :=
  s.dies.flatMap fun d => [0, 1, 2].flatMap fun a => [true, false].filterMap fun w =>
    if s.linkLive d.1 a w && d.1 < s.neighbour d.1 a w then some (linkName d.1 (s.neighbour d.1 a w)) else none

/-- The neighbours of a die on an axis, ascending. -/
def State.axisNeighbours (s : State) (f a : Nat) : List Nat :=
  let p := s.neighbour f a true
  let m := s.neighbour f a false
  if p == m then [p] else [min p m, max p m]

/-- A search in breadth: the queue, and the parents found so far. -/
structure Search where
  queue : List Nat
  tree  : List (Nat × Nat)

/-- Whether a search that began at a root has visited a die. -/
def Search.visited (x : Search) (root v : Nat) : Bool := v == root || x.tree.any fun e => e.1 == v

/-- The parents found from one die. -/
def State.expand (s : State) (avail : List (Nat × Nat)) (order : List Nat) (root u : Nat) (x : Search) : Search :=
  order.foldl (fun x a => (s.axisNeighbours u a).foldl (fun (x : Search) v =>
    if avail.contains (linkName u v) && !x.visited root v then { queue := x.queue ++ [v], tree := x.tree ++ [(v, u)] }
    else x) x) x

/-- The search until every member is visited; `fuel` bounds the dies taken from the queue. -/
def State.search (s : State) (avail : List (Nat × Nat)) (order members : List Nat) (root : Nat) : Nat → Search → Search
  | 0, x => x
  | fuel + 1, x =>
    match x.queue with
    | [] => x
    | u :: q =>
      if members.all (x.visited root) then x
      else s.search avail order members root fuel (s.expand avail order root u { x with queue := q })

/-- Leaves that are no members removed, round by round. -/
def pruneTree (members : List Nat) (root : Nat) : Nat → List (Nat × Nat) → List (Nat × Nat)
  | 0, t => t
  | fuel + 1, t =>
    pruneTree members root fuel (t.filter fun e => members.contains e.1 || e.1 == root || t.any fun c => c.2 == e.1)

/-- The dies from a die up to the root of a tree, itself first. -/
def treeUp (t : List (Nat × Nat)) : Nat → Nat → List Nat
  | 0, v => [v]
  | fuel + 1, v =>
    match t.find? fun e => e.1 == v with
    | some e => v :: treeUp t fuel e.2
    | none => [v]

/-- The path between two dies of a tree: the dies after the first. -/
def treePath (t : List (Nat × Nat)) (u v : Nat) : List Nat :=
  let a := treeUp t t.length u
  let b := treeUp t t.length v
  match a.find? b.contains with
  | none => []
  | some m => ((a.takeWhile (· != m)) ++ [m]).drop 1 ++ (b.takeWhile (· != m)).reverse

/-- One tree of R354, where there is one. -/
def State.oneTree (s : State) (avail : List (Nat × Nat)) (members : List Nat) (root k : Nat) : Option (List (Nat × Nat)) :=
  let order := (List.range 3).map fun i => (i + k) % 3
  let x := s.search avail order members root (2 * avail.length + 1) ⟨[root], []⟩
  if members.all (x.visited root) then
    let t := pruneTree members root x.tree.length x.tree
    if members.all fun u => members.all fun v => (treePath t u v).length ≤ 12 then some t else none
  else none

/-- The trees of a group over the links available: up to three, edge-disjoint (R354). -/
def State.deriveTrees (s : State) (members : List Nat) (root : Nat) : Nat → List (Nat × Nat) → List (List (Nat × Nat))
  | 0, _ => []
  | n + 1, avail =>
    match s.oneTree avail members root (2 - n) with
    | none => []
    | some t =>
      t :: s.deriveTrees members root n (avail.filter fun l => !t.any fun e => linkName e.1 e.2 == l)

end Sys2Proof.Machine
end

