-- ==== Sys2Proof/Machine/Flits.lean ====
section
/-! DEFINITION. Ports, and the flits that external links carry (R445, R446): the sender's replay buffer, router packets cut
across data flits and put together again. -/

namespace Sys2Proof.Machine

/-- A port of a die. -/
def State.port (s : State) (f i : Nat) : LinkPort := (s.die f).ports.get {} i
/-- A port replaced. -/
def State.setPort (s : State) (f i : Nat) (p : LinkPort) : State :=
  s.setDie f { s.die f with ports := (s.die f).ports.put i p }

/-- The 252 bytes of a flit that its CRC covers (R445). -/
def flitBytes (f : Flit) : List Byte :=
  bytesOf 2 (BitVec.ofNat 16 (f.seq.toNat + f.kind.toNat * 4096)) ++ bytesOf 2 (BitVec.ofNat 16 (f.ack.toNat + f.vc.toNat * 4096))
    ++ bytesOf 4 f.rsv ++ bytesOf 244 f.body

/-- Whether a flit passes its CRC and carries no reserved value (R446). -/
def flitOk (f : Flit) : Bool :=
  crc32c (flitBytes f) == f.crc && f.kind.toNat < 3 && f.vc.toNat < 4 && f.rsv == 0

/-- The flits of a replay buffer (R446). -/
def replayRoom : Nat := 512

/-- A flit sent: the port's next SEQ, the acknowledgement of what it has received, kept until it is acknowledged (R446).
DESIGN CHOICE, log 54. -/
def sendFlit (f i : Nat) (kind : BitVec 4) (body : BitVec 1952) (s : State) : State :=
  let p := s.port f i
  let x : Flit := { seq := p.sseq, kind, ack := p.next - 1, vc := 0, rsv := 0, body, crc := 0 }
  let x := { x with crc := crc32c (flitBytes x) }
  s.setPort f i { p with sseq := p.sseq + 1, out := p.out ++ [x], wire := p.wire ++ [x] }

/-- A header and a payload as one run of bytes. -/
def packetBits (hdr : BitVec 256) (data : BitVec 2048) : BitVec 3904 := (data ++ hdr).zeroExtend 3904

/-- A packet cut across two data flits, and the SEQ of the second; none while the replay buffer has no room for them.
DESIGN CHOICE, log 54. -/
def sendPacket (f i : Nat) (hdr : BitVec 256) (data : BitVec 2048) (s : State) : Option (BitVec 12 × State) :=
  if replayRoom < (s.port f i).out.length + 2 then none
  else
    let v := packetBits hdr data
    some ((s.port f i).sseq + 1, sendFlit f i 1 (v.extractLsb' 1952 1952) (sendFlit f i 1 (v.extractLsb' 0 1952) s))

/-- A packet put together from the payloads delivered at a port, the second of them with a SEQ; none while they have not
come. DESIGN CHOICE, log 54. -/
def takePacket (f i : Nat) (q : BitVec 12) (s : State) : Option (BitVec 256 × BitVec 2048 × State) :=
  let p := s.port f i
  match p.rx.find? fun x => x.1 == q - 1, p.rx.find? fun x => x.1 == q with
  | some a, some b =>
    let v : BitVec 3904 := b.2.2 ++ a.2.2
    some (v.extractLsb' 0 256, v.extractLsb' 256 2048, s.setPort f i { p with rx := p.rx.filter fun x => x != a && x != b })
  | _, _ => none

/-- What a port holds of its retry protocol, as when its link comes UP. -/
def LinkPort.fresh (p : LinkPort) : LinkPort :=
  { state := p.state, width := p.width, since := p.since, held := p.held }

/-- The axis of the external link between two neighbouring dies, if it is one. -/
def State.external (s : State) (f g : Nat) : Option Nat :=
  ((List.range 6).find? fun c => f != g && s.neighbour f (c / 2) (c % 2 == 0) == g
    && s.viaExternal f (c / 2) (c % 2 == 0)).map (· / 2)

/-! Bytes carried from die to die (R341, R445). -/

/-- Bytes as payloads of 256 bytes, the rest of the last one zero: one at least. -/
def payloadsOf (bs : List Byte) : List (BitVec 2048) :=
  (List.range (max 1 ((bs.length + 255) / 256))).map fun i => BitVec.ofNat 2048 (natOfBytes ((bs.drop (256 * i)).take 256))

/-- Payloads sent as packets while the replay buffer has room: the SEQs of their last flits, and what is left.
DESIGN CHOICE, log 54. -/
def sendAll (f i : Nat) (hdr : BitVec 256) : List (BitVec 2048) → State → List (BitVec 12) × List (BitVec 2048) × State
  | [], s => ([], [], s)
  | d :: ds, s =>
    match sendPacket f i hdr d s with
    | some (q, s) => let (qs, left, s) := sendAll f i hdr ds s; (q :: qs, left, s)
    | none => ([], d :: ds, s)

/-- Packets taken in order as far as a port has delivered them: their payloads, and the SEQs of the others.
DESIGN CHOICE, log 54. -/
def takeAll (g i : Nat) : List (BitVec 12) → State → List (BitVec 2048) × List (BitVec 12) × State
  | [], s => ([], [], s)
  | q :: qs, s =>
    match takePacket g i q s with
    | some (_, d, s) => let (ds, left, s) := takeAll g i qs s; (d :: ds, left, s)
    | none => ([], q :: qs, s)

/-- Bytes at the die where they are, with nothing of them on a link. -/
def Carry.rest (k : Carry) : Carry := { at' := k.at', path := k.path, data := k.data }

/-- One hop: at once within a package; over an external link the bytes are cut into packets, and have crossed once the far port has
delivered them all (R445). A link that is not live is waited for. DESIGN CHOICE, log 54. -/
def Carry.hop (hdr : Nat → List Nat → BitVec 256) (k : Carry) (s : State) : State × Carry :=
  match k.path with
  | [] => (s, k)
  | g :: path =>
    if !s.joined k.at' g then (s, k)
    else
      match s.external k.at' g with
      | none => (s, { at' := g, path, data := k.data })
      | some a =>
        let k := if k.across then k else { k with across := true, left := payloadsOf k.data }
        let (qs, left, s) := sendAll k.at' (3 + a) (hdr k.at' k.path) k.left s
        let (ds, cut, s) := takeAll g (3 + a) (k.cut ++ qs) s
        let got := k.got ++ ds
        if left.isEmpty && cut.isEmpty then (s, { at' := g, path, data := (got.flatMap (bytesOf 256)).take k.data.length })
        else (s, { k with left, cut, got })

/-- As many hops as can be made now; `fuel` bounds them. -/
def Carry.run (hdr : Nat → List Nat → BitVec 256) : Nat → Carry → State → State × Carry
  | 0, k, s => (s, k)
  | fuel + 1, k, s =>
    let (s, k') := k.hop hdr s
    if k'.at' == k.at' then (s, k') else k'.run hdr fuel s

/-! The header of a sluice packet (R356). -/

/-- A header of its fields; its other bits are zero. -/
def packHeader (route : BitVec 72) (nhop tree wire : Nat) (aud : Bool) (afl : BitVec 5) (chunk eoff : Nat) (scales : BitVec 56)
    (cid : Nat) : BitVec 256 :=
  BitVec.ofNat 256 (route.toNat + nhop % 16 * 2 ^ 72 + tree % 4 * 2 ^ 76 + wire % 4 * 2 ^ 78 + (if aud then 2 ^ 80 else 0)
    + afl.toNat * 2 ^ 81 + chunk % 2 ^ 24 * 2 ^ 96 + eoff % 2 ^ 16 * 2 ^ 128 + scales.toNat * 2 ^ 144 + cid % 2 ^ 49 * 2 ^ 200)

/-- ROUTE. -/
def Packet.route (p : Packet) : BitVec 72 := p.hdr.extractLsb' 0 72
/-- NHOP. -/
def Packet.nhop (p : Packet) : BitVec 4 := p.hdr.extractLsb' 72 4
/-- TREE. -/
def Packet.tree (p : Packet) : Nat := (p.hdr.extractLsb' 76 2).toNat
/-- WIRE. -/
def Packet.wire (p : Packet) : Nat := (p.hdr.extractLsb' 78 2).toNat
/-- AUD. -/
def Packet.aud (p : Packet) : Bool := p.hdr.getLsbD 80
/-- AFL. -/
def Packet.afl (p : Packet) : BitVec 5 := p.hdr.extractLsb' 81 5
/-- CHUNK. -/
def Packet.chunk (p : Packet) : Nat := (p.hdr.extractLsb' 96 24).toNat
/-- EOFF. -/
def Packet.eoff (p : Packet) : Nat := (p.hdr.extractLsb' 128 16).toNat
/-- SCALES. -/
def Packet.scales (p : Packet) : BitVec 56 := p.hdr.extractLsb' 144 56
/-- CID. -/
def Packet.cid (p : Packet) : Nat := (p.hdr.extractLsb' 200 56).toNat

/-- A header as a router passes it on: ROUTE shifted right by 6, NHOP decremented (R357). -/
def shiftHeader (h : BitVec 256) : BitVec 256 :=
  ((h >>> 76) <<< 76) ||| BitVec.ofNat 256 (((h.extractLsb' 0 72 >>> 6).toNat) + (h.extractLsb' 72 4 - 1).toNat * 2 ^ 72)

end Sys2Proof.Machine
end

