-- ==== Sys2Proof/Machine/Berm.lean ====
section
/-! DEFINITION. The berm engine (R337 to R342): halo exchange of ST3 fields. -/

namespace Sys2Proof.Machine

/-! Faces. -/

/-- A polder's extents by axis. -/
def FieldDesc.blockOf (d : FieldDesc) (a : Nat) : Nat := match a with
  | 0 => d.tp | 1 => d.hp | _ => d.wp
/-- The block whose halo face `f` a block fills. -/
def FieldDesc.receiver (d : FieldDesc) (i f : Nat) : Option Nat :=
  (List.range d.group).find? fun r => d.across r f == some i

/-- The first plane and the number of planes of a halo face along one axis, counted from the first halo plane: the face's own
axis, the interior of another, or in ordered mode an earlier axis with its halos (R339). -/
def FieldDesc.span (d : FieldDesc) (f b : Nat) (ordered : Bool) : Nat × Nat :=
  let lo := d.haloOf (2 * b)
  let hi := d.haloOf (2 * b + 1)
  let n := d.blockOf b
  if b == f / 2 then (if f % 2 == 0 then (0, lo) else (lo + n, hi))
  else if ordered && b < f / 2 then (0, lo + n + hi) else (lo, n)

/-- The positions of a halo face. -/
def FieldDesc.facePoints (d : FieldDesc) (f : Nat) (ordered : Bool) : List (Nat × Nat × Nat) :=
  let run := fun (b : Nat) => let r := d.span f b ordered; (List.range r.2).map (r.1 + ·)
  (run 0).flatMap fun t => (run 1).flatMap fun h => (run 2).map fun w => (t, h, w)

/-- A position with its coordinate on one axis replaced. -/
def movePoint (a : Nat) (g : Nat → Nat) (p : Nat × Nat × Nat) : Nat × Nat × Nat := match a with
  | 0 => (g p.1, p.2.1, p.2.2) | 1 => (p.1, g p.2.1, p.2.2) | _ => (p.1, p.2.1, g p.2.2)

/-- Where the sender of a halo face reads the element of one of its positions. -/
def FieldDesc.sourceOf (d : FieldDesc) (f : Nat) (p : Nat × Nat × Nat) : Nat × Nat × Nat :=
  let n := d.blockOf (f / 2)
  movePoint (f / 2) (fun u => if f % 2 == 0 then u + n else u - n) p

/-- Where a CLAMP face's owner reads the element of one of its positions. -/
def FieldDesc.clampOf (d : FieldDesc) (f : Nat) (p : Nat × Nat × Nat) : Nat × Nat × Nat :=
  let a := f / 2
  let lo := d.haloOf (2 * a)
  movePoint a (fun _ => if f % 2 == 0 then lo else lo + d.blockOf a - 1) p

/-- The address of a position's channel vector in a polder, and the bytes of a vector. -/
def FieldDesc.vectorVa (d : FieldDesc) (i : Nat) (p : Nat × Nat × Nat) : Nat := d.polder i p.1 p.2.1 p.2.2 0

/-- The bytes of a channel vector. -/
def FieldDesc.vec (d : FieldDesc) : Nat := d.c * d.es

/-! Lines, launches, runs. -/

/-- FACES, as a number. -/
def lineFaces (r : Row) : Nat := lineNum r 17 1
/-- BMODE. -/
def lineMode (r : Row) : Nat := lineNum r 18 1

/-- Whether a launch, by one of its parts, places a cluster on a die. -/
def State.placesDie (s : State) (l f : Nat) : Bool :=
  (s.parts l).contains (partKey l f) && maskDie (s.launch (partKey l f)).desc.cmask (f % 8)

/-- The input queue of a die's berm engine. -/
def bermQueue (die : Nat) : Nat := 20000000 + die

/-- The context of a berm command on a die. -/
def bermCtx (s : State) (die lid : Nat) : EngCtx :=
  let x := s.launch (partKey lid die)
  { who := .engine die, pkg := diePkg die, space := x.queue, root := x.root, lid := partKey lid die }

/-- Running commands of a queue that a test picks, changed. -/
def State.mapRuns (s : State) (t : Nat) (pick : Run → Bool) (g : Run → Run) : State :=
  s.setEngq t { s.engq t with running := (s.engq t).running.map fun r => if pick r then g r else r }

/-- A running command takes a status, if it has none yet. -/
def Run.fail (r : Run) (st : Nat) : Run := { r with status := if r.status == stDone then st else r.status }

/-- Whether a running command is the `k`-th exchange of a descriptor of a launch. -/
def Run.isBxch (r : Run) (lid fd k : Nat) : Bool := r.push.lid % 65536 == lid % 65536 && lineFd r.push.line == fd && r.k == k

/-- The exchange that still owes increments on a die. -/
def State.bermCmd (s : State) (lid die fd k : Nat) : Option BermCmd :=
  (s.launch (partKey lid die)).bcmds.find? fun b => b.die == die && b.fd == fd && b.k == k

/-- An exchange replaced: it is kept for as long as its launch runs, for a packet that comes later is compared with it (R338). -/
def State.putBermCmd (s : State) (lid : Nat) (b : BermCmd) : State :=
  let l := partKey lid b.die
  let x := s.launch l
  s.setLaunch l { x with bcmds := (x.bcmds.filter fun y => !(y.die == b.die && y.fd == b.fd && y.k == b.k)) ++ [b] }

/-- What becomes of a face of an exchange: it is filled; lost, with no increment (R341); or never written, its increment given all
the same (R338). -/
inductive FaceEnd where
  | filled | lost | refused
deriving DecidableEq

/-- A face of a die's exchange over, with its increment where it gives one (R338, R341). -/
def State.markFace (s : State) (lid die fd k f : Nat) (e : FaceEnd) : State :=
  match s.bermCmd lid die fd k with
  | none => s
  | some b =>
    if (b.got ||| b.lost).getLsbD f || !b.faces.getLsbD f then s
    else
      let bit : BitVec 8 := 1#8 <<< f
      match e with
      | .lost => s.putBermCmd lid { b with lost := b.lost ||| bit }
      | .filled => (s.engineInc b.cl b.sem 1).putBermCmd lid { b with got := b.got ||| bit }
      | .refused => (s.engineInc b.cl b.sem 1).putBermCmd lid { b with got := b.got ||| bit, lost := b.lost ||| bit }

/-! What a command does in turn. -/

/-- A face that a command fills: its own, on a boundary, or the halo of another block. -/
inductive BermItem where
  | own (f : Nat) | send (f r : Nat)
deriving DecidableEq

/-- The face of an item. -/
def BermItem.face : BermItem → Nat
  | .own f | .send f _ => f

/-- The items of a block's command, in the order of phases. -/
def bermItems (d : FieldDesc) (i faces : Nat) : List BermItem :=
  ((List.range 6).filter faces.testBit).flatMap fun f =>
    (if (d.across i f).isNone then [BermItem.own f] else [])
      ++ match d.receiver i f with
        | some r => [BermItem.send f r]
        | none => []

/-- A face put on its way. -/
def State.sendFace (s : State) (m : BermMsg) : State := { s with berms := s.berms ++ [m] }

/-- The message of a run for a face. -/
def bermMsg (die : Nat) (d : FieldDesc) (r : Run) (f peer : Nat) (bytes : List Byte) (fail : Option Nat) : BermMsg :=
  { lid := r.push.lid % 65536, src := die, dst := d.dieOf peer, fd := lineFd r.push.line, k := r.k, face := f
    faces := BitVec.ofNat 8 (lineFaces r.push.line), mode := BitVec.ofNat 8 (lineMode r.push.line), carry := { at' := die, data := bytes }, fail
    sc := r.push.sc }

/-- Notices in place of the faces of items (R338, R341). DEDUCED, log 19. -/
def sendNotices (die : Nat) (d : FieldDesc) (r : Run) (st : Nat) (items : List BermItem) (s : State) : State :=
  items.foldl (fun s it => match it with
    | .send f peer => s.sendFace (bermMsg die d r f peer [] (some st))
    | .own _ => s) s

/-- What an item comes to. -/
inductive ItemEnd where
  | done (r : Run) (s : State) | waits (s : State)

/-- One item: a boundary face filled, or a face read and sent (R338 to R340). -/
def doItem (die : Nat) (d : FieldDesc) (i : Nat) (r : Run) (it : BermItem) (s : State) : ItemEnd :=
  let x := bermCtx s die r.push.lid
  let lid := r.push.lid
  let fd := lineFd r.push.line
  let ordered := lineMode r.push.line == 1
  let pages := fun (w : Bool) (ps : List (Nat × Nat × Nat)) =>
    ps.flatMap fun p => (pageVas (d.vectorVa i p) d.vec).map fun va => (w, va)
  let readAll := fun (ps : List (Nat × Nat × Nat)) (s : State) =>
    ps.foldl (fun (a : List (List Byte) × Bool × State) p =>
      let (bs, z, s) := x.read (d.vectorVa i p) d.vec a.2.2
      (a.1 ++ [bs], a.2.1 || z, s)) ([], false, s)
  match it with
  | .own f =>
    let mode := d.boundOf f
    if mode == 0 then .done r (s.markFace lid die fd r.k f .filled)
    else
      let ps := d.facePoints f ordered
      let src := if mode == 2 then ps.map (d.clampOf f) else []
      let vectors := fun (s : State) =>
        if mode == 2 then readAll src s else (ps.map fun _ => List.replicate d.vec 0, false, s)
      let vas := pages false src ++ pages true ps
      match x.prepare vas s with
      | .waits s => .waits s
      | .fails s st =>
        let (vs, _, s) := if (pages false src).all (x.usable s) then vectors s else ([], false, s)
        let s := x.done (vas.map (·.2)) (x.writePart ((ps.map (d.vectorVa i)).zip vs) s)
        .done (r.fail st) (s.markFace lid die fd r.k f .lost)
      | .ready s =>
        let (vs, z, s) := vectors s
        let s := x.done (vas.map (·.2)) ((ps.zip vs).foldl (fun s e => x.write (d.vectorVa i e.1) e.2 s) s)
        .done { r with count := r.count + 1, zeroed := r.zeroed || z } (s.markFace lid die fd r.k f .filled)
  | .send f peer =>
    let ps := (d.facePoints f ordered).map (d.sourceOf f)
    let vas := (pages false ps).map (·.2)
    match x.prepare (pages false ps) s with
    | .waits s => .waits s
    | .fails s st => .done (r.fail st) ((x.done vas s).sendFace (bermMsg die d r f peer [] (some st)))
    | .ready s =>
      let (vs, z, s) := readAll ps s
      let s := x.done vas s
      .done { r with out := r.out + 1, zeroed := r.zeroed || z } (s.sendFace (bermMsg die d r f peer vs.flatten none))

/-- Whether the halos of earlier phases let a phase begin: every one of them filled, or one lost for good (R339, R341). -/
inductive Gate' where
  | opens | waits | never
deriving DecidableEq

/-- The gate of a phase in ordered mode. -/
def phaseGate (s : State) (die : Nat) (r : Run) (phase : Nat) : Gate' :=
  if lineMode r.push.line != 1 then .opens
  else
    match s.bermCmd r.push.lid die (lineFd r.push.line) r.k with
    | none => .waits
    | some b =>
      let early : BitVec 8 := b.faces &&& (BitVec.ofNat 8 (4 ^ phase - 1))
      if early &&& b.lost != 0 then .never
      else if early &&& ~~~b.got == 0 then .opens else .waits

/-- A command that starts no further phase: its partners are told (R341). DEDUCED, log 19. -/
def giveUp (die : Nat) (d : FieldDesc) (items : List BermItem) (st : Nat) (r : Run) (s : State) : Run × State :=
  let s := sendNotices die d r st (items.drop r.prog) s
  ({ r with prog := items.length }.fail st, s)

/-- The items of a command from where it stands, until it waits or has made them all. -/
def bermRun (die : Nat) (d : FieldDesc) (i : Nat) (items : List BermItem) : Nat → Run → State → Run × State
  | 0, r, s => (r, s)
  | fuel + 1, r, s =>
    match items[r.prog]? with
    | none => (r, s)
    | some it =>
      match phaseGate s die r (it.face / 2) with
      | .waits => if (s.launch (partKey r.push.lid die)).doom.isSome then giveUp die d items stLink r s else (r, s)
      | .never => giveUp die d items (if r.status == stDone then stLink else r.status) r s
      | .opens =>
        match doItem die d i r it s with
        | .waits s => (r, s)
        | .done r s => bermRun die d i items fuel { r with prog := r.prog + 1 } s

/-- The descriptor that a berm command names, of its launch's part on the die. -/
def bermDesc (s : State) (die : Nat) (p : Push) : FieldDesc := descOf (s.fds (partKey p.lid die)) (lineFd p.line)

/-- A started command gone on with; it ends once every item is made and every face it sent has performed (R340). -/
def bermGo (die n : Nat) (r : Run) (s : State) : State :=
  let d := bermDesc s die r.push
  let i := (d.indexOf die).getD 0
  let items := bermItems d i (lineFaces r.push.line)
  let (r, s) := bermRun die d i items 13 r s
  let t := bermQueue die
  if items.length ≤ r.prog && r.out == 0 then
    let s := s.setEngq t { s.engq t with running := removeAt (s.engq t).running n }
    endCommand die r.push r.status r.count r.zeroed s
  else s.setEngq t { s.engq t with running := replaceAt (s.engq t).running n r }

/-! The start of a command. -/

/-- The status that a BXCH fails with at its start (R319, R337, R338): of several, BAD_KIND, then BAD_FIELD, then FD_INVALID.
DEDUCED, log 19. DESIGN CHOICE, log 59. -/
def bxchStatus (s : State) (die : Nat) (p : Push) : Option Nat :=
  let r := p.line
  let d := bermDesc s die p
  if p.kind != 0x10 then some stKind
  else if 8 ≤ lineFl r || 16 ≤ lineFd r || 64 ≤ lineFaces r || 2 ≤ lineMode r || lineNum r 19 109 != 0
      || !lineSig r || !sclOk s (partKey p.lid die) die r then some stField
  else if d.unset || d.layout != 1 || (d.indexOf die).isNone
      || !(List.range d.group).all fun i => s.placesDie p.lid (d.dieOf i) then some stFd
  else none

/-- A command fails at its start: the increments of its faces on its own die, its element, and notices to its partners. A packet that
comes for it is compared with it still (R338). DEDUCED, log 19. -/
def bxchFail (die k st : Nat) (p : Push) (s : State) : State :=
  let d := bermDesc s die p
  let s := if p.kind == 0x10 then (List.range (popCount 6 (lineFaces p.line % 64))).foldl (fun s _ => signalOf die p s) s
    else signalOf die p s
  let s := endCommand die p st 0 false s
  let s := if p.kind == 0x10 && lineFd p.line < 16 then
      let faces := BitVec.ofNat 8 (lineFaces p.line)
      s.putBermCmd p.lid
        { die, fd := lineFd p.line, k, faces, mode := BitVec.ofNat 8 (lineMode p.line), sem := lineSem p.line
          cl := sigCluster die p.line, got := faces, lost := faces }
    else s
  if st == stField && !d.unset && d.layout == 1 && lineFd p.line < 16 then
    match d.indexOf die with
    | some i => sendNotices die d { push := p, k } st (bermItems d i (lineFaces p.line % 64)) s
    | none => s
  else s

/-- A mismatch of FACES or BMODE at a die (R338): every increment still owed is given, both commands end with BAD_FIELD.
DEDUCED, log 19. -/
def bermMismatch (m : BermMsg) (b : BermCmd) (s : State) : State :=
  let l := partKey m.lid m.dst
  let n := popCount 8 (b.faces &&& ~~~b.got).toNat
  let s := (List.range n).foldl (fun s _ => s.engineInc b.cl b.sem 1) s
  let s := s.putBermCmd m.lid { b with got := b.faces }
  let q := s.engq (bermQueue m.dst)
  let s := match q.running.find? fun r => r.isBxch m.lid m.fd m.k with
    | some r =>
      let d := descOf (s.fds l) m.fd
      let items := bermItems d ((d.indexOf m.dst).getD 0) (lineFaces r.push.line)
      let (r', s) := giveUp m.dst d items stField r s
      s.mapRuns (bermQueue m.dst) (fun r => r.isBxch m.lid m.fd m.k) fun _ => r'
    | none => s
  s.mapRuns (bermQueue m.src) (fun r => r.isBxch m.lid m.fd m.k) fun r => r.fail stField

/-- A face that has come, at a die whose command has started: its increment, its failure or its loss. DEDUCED, log 19. -/
def bermTake (m : BermMsg) (s : State) : State :=
  match m.fail with
  | some st =>
    if st == stField || st == stFd then
      (s.markFace m.lid m.dst m.fd m.k m.face .refused).mapRuns (bermQueue m.dst) (fun r => r.isBxch m.lid m.fd m.k)
        fun r => r.fail st
    else s.markFace m.lid m.dst m.fd m.k m.face .lost
  | none =>
    match s.bermCmd m.lid m.dst m.fd m.k with
    | none => s
    | some b =>
      if b.faces != m.faces || b.mode != m.mode then bermMismatch m b s
      else s.markFace m.lid m.dst m.fd m.k m.face .filled

/-- The head of a berm queue, where it may start. -/
def bermHead (s : State) (die : Nat) : Option Push :=
  match (s.engq (bermQueue die)).entries with
  | p :: _ =>
    if (lineOrd p.line && (s.engq (bermQueue die)).running.any fun r => r.push.no < p.no) || s.reshardHolds die (bermQueue die) p
    then none else some p
  | [] => none

/-- A command taken from its queue (R337 to R339). -/
def bxchStart (die : Nat) (p : Push) (s : State) : State :=
  let t := bermQueue die
  let fd := lineFd p.line
  let l := partKey p.lid die
  let k := s.bermTaken p.lid die fd
  let q := s.engq t
  let s := s.setEngq t { q with entries := q.entries.drop 1 }
  let x := s.launch l
  let s := if p.kind == 0x10 && fd < 16 then
      s.setLaunch l { x with
        bk := x.bk.write (die % 8 * 16 + fd) (BitVec.ofNat 32 (k + 1))
        bheld := x.bheld.filter fun m => !(m.dst == die && m.fd == fd && m.k == k) }
    else s
  match bxchStatus s die p with
  | some st => bxchFail die k st p s
  | none =>
    let b : BermCmd :=
      { die, fd, k, faces := BitVec.ofNat 8 (lineFaces p.line), mode := BitVec.ofNat 8 (lineMode p.line)
        sem := lineSem p.line, cl := sigCluster die p.line, got := 0, lost := 0 }
    let s := s.setEngq t { s.engq t with running := (s.engq t).running ++ [{ push := p, k }] }
    let s := s.putBermCmd p.lid b
    (x.bheld.filter fun m => m.dst == die && m.fd == fd && m.k == k).foldl (fun s m => bermTake m s) s

/-- BXCH_COMMAND (R338 to R340): a running command gone on with; past the last, the head of the queue started. -/
def bxchCommand (die n : Nat) (s : State) : State :=
  match (s.engq (bermQueue die)).running[n]? with
  | some r => bermGo die n r s
  | none =>
    match bermHead s die with
    | some p => bxchStart die p s
    | none => s

/-! Faces that arrive. -/

/-- A face that never performs: its sender's command takes the status, a link's loss is counted (R341). DEDUCED, log 19. -/
def bermLose (m : BermMsg) (st : Nat) (s : State) : State :=
  if m.fail.isSome then s
  else
    let s := s.mapRuns (bermQueue m.src) (fun r => r.isBxch m.lid m.fd m.k) fun r => { r.fail st with out := r.out - 1 }
    if st == stLink then s.setDie m.src { s.die m.src with bermlink := sat16 (s.die m.src).bermlink } else s

/-- A face taken by the command it is for, or held until that starts (R339). -/
def bermLand (m : BermMsg) (s : State) : State :=
  let l := partKey m.lid m.dst
  if m.k < s.bermTaken m.lid m.dst m.fd then bermTake m s
  else s.setLaunch l { s.launch l with bheld := (s.launch l).bheld ++ [{ m with carry := { at' := m.dst } }] }

/-- Whether a face's packets differ from the command that has started at its die. DEDUCED, log 19. -/
def bermDiffers (m : BermMsg) (s : State) : Bool :=
  match s.bermCmd m.lid m.dst m.fd m.k with
  | some b => b.faces != m.faces || b.mode != m.mode
  | none => false

/-- The header of a face's packets. DESIGN CHOICE, log 54. -/
def BermMsg.header (m : BermMsg) : BitVec 256 :=
  Config.bermHeader [m.lid, m.fd, m.k, m.face, m.faces.toNat, m.mode.toNat]

/-- A face sent on to the next die of its way (R341), or started again where that way has changed. -/
def BermMsg.onward (m : BermMsg) (g : Nat) (s : State) : State × BermMsg :=
  let k := if m.carry.path == [g] then m.carry else { at' := m.carry.at', path := [g], data := m.carry.data }
  let (s, k) := k.hop (fun _ _ => m.header) s
  (s, { m with carry := k })

/-- BERM_FACE_ARRIVAL (R338 to R341): a face on its way goes on to the next die; one that has reached its die is written, and gives
its increment or holds it. What a page that fails leaves of it stands (R270). -/
def bermFaceArrival (n : Nat) (s : State) : State :=
  match s.berms[n]? with
  | none => s
  | some m =>
    let l := partKey m.lid m.dst
    let s' := { s with berms := removeAt s.berms n }
    if (s.launch l).phase != .placed then bermLose m stLink s'
    else if m.carry.at' != m.dst then
      match s.nextDie m.carry.at' m.dst with
      | none => bermLand { m with fail := some stLink } (bermLose m stLink s')
      | some g => let (t, m) := m.onward g s; { t with berms := replaceAt t.berms n m }
    else
      match m.fail with
      | some _ => bermLand m s'
      | none =>
        if bermDiffers m s then
          bermLand m (s'.mapRuns (bermQueue m.src) (fun r => r.isBxch m.lid m.fd m.k) fun r => { r with out := r.out - 1 })
        else
          let d := descOf (s.fds l) m.fd
          let i := (d.indexOf m.dst).getD 0
          let x := bermCtx s m.dst m.lid
          let ps := d.facePoints m.face (m.mode == 1)
          let pages := ps.flatMap fun p => (pageVas (d.vectorVa i p) d.vec).map fun va => (true, va)
          let vectors := (numbered 0 ps).map fun e => (d.vectorVa i e.2, (m.carry.data.drop (e.1 * d.vec)).take d.vec)
          match x.prepare pages s' with
          | .waits s' => { s' with berms := s.berms }
          | .fails s st =>
            bermLand { m with fail := some st } (bermLose m st (x.done (pages.map (·.2)) (x.writePart vectors s)))
          | .ready s =>
            let s := x.done (pages.map (·.2)) (vectors.foldl (fun s e => x.write e.1 e.2 s) s)
            bermLand m (s.mapRuns (bermQueue m.src) (fun r => r.isBxch m.lid m.fd m.k) fun r =>
              { r with out := r.out - 1, count := r.count + 1 })

/-! The meanings. -/

/-- BXCH_COMMAND (R338). -/
def execBxchCommand (die idx : Nat) (s : State) : Host.Outcome State Fault Refusal := .next (bxchCommand die idx s)
/-- BERM_FACE_ARRIVAL (R339). -/
def execBermFaceArrival (idx : Nat) (s : State) : Host.Outcome State Fault Refusal := .next (bermFaceArrival idx s)

end Sys2Proof.Machine
end

