-- ==== Sys2Proof/Machine/Rounds.lean ====
section
/-! DEFINITION. The rounds in which a RESHARD and an ALLTOALL move their elements (R373, R374): who sends what to whom, in which
order, in rows of 4 KiB. -/

namespace Sys2Proof.Machine

/-! The schedule (R373). -/

/-- The coordinate of a member of a box on an axis: x, y, z. -/
def boxCoord (b : List Nat) (g a : Nat) : Nat :=
  match a with
  | 0 => g % b.getD 3 1
  | 1 => g / b.getD 3 1 % b.getD 4 1
  | _ => g / b.getD 3 1 / b.getD 4 1

/-- A member's number with its coordinate on an axis replaced. -/
def boxMove (b : List Nat) (g a v : Nat) : Nat :=
  let step := match a with
    | 0 => 1 | 1 => b.getD 3 1 | _ => b.getD 3 1 * b.getD 4 1
  g - boxCoord b g a * step + v * step

/-- Whether a box is 2 by 2 by 2. -/
def boxTwo (b : List Nat) : Bool := b.drop 3 == [2, 2, 2]

/-- Where a member sends an element bound for another: phase, round, member; none where it is there. -/
def nextHop (b : List Nat) (g dest : Nat) : Option (Nat × Nat × Nat) :=
  if g == dest then none
  else if boxTwo b then some (0, g ^^^ dest, dest)
  else
    ([0, 1, 2].find? fun a => boxCoord b g a != boxCoord b dest a).map fun a =>
      let n := b.getD (3 + a) 1
      let v := boxCoord b dest a
      (a, (v + n - boxCoord b g a) % n, boxMove b g a v)

/-- The members that a member sends to anywhere in the schedule. -/
def peersOf (b : List Nat) (g : Nat) : List Nat :=
  if boxTwo b then (List.range 7).map fun r => g ^^^ (r + 1)
  else [0, 1, 2].flatMap fun a => (List.range (b.getD (3 + a) 1)).filterMap fun v =>
    if v == boxCoord b g a then none else some (boxMove b g a v)

/-- The slots of the schedule in order: phase and round. -/
def slotsOf (b : List Nat) : List (Nat × Nat) :=
  if boxTwo b then (List.range 7).map fun r => (0, r + 1)
  else [0, 1, 2].flatMap fun a => (List.range (b.getD (3 + a) 1 - 1)).map fun r => (a, r + 1)

/-! Rows. -/

/-- What rows carry: the bytes of an element, the member that an element is for, its virtual address there. -/
structure Moves where
  es   : Nat
  dest : Nat → Nat
  va   : Nat → Nat

/-- Elements cut into rows of a number of elements. -/
def cutRows (n : Nat) : Nat → List (Nat × List Byte) → List (List (Nat × List Byte))
  | 0, _ => []
  | fuel + 1, es => if es.isEmpty then [] else es.take n :: cutRows n fuel (es.drop n)

/-- The rows in which a member sends elements on, in the schedule's order, those for itself in round 0 (R373, R374).
DEDUCED, log 34. -/
def rowsFrom (b : List Nat) (mv : Moves) (chunk g : Nat) (origin : Option Nat) (es : List (Nat × List Byte)) : List ReRow :=
  let n := 4096 / mv.es
  let hop := fun (e : Nat × List Byte) => nextHop b g (mv.dest e.1)
  let own := (cutRows n es.length (es.filter fun e => (hop e).isNone)).map fun r =>
    { chunk, src := g, dst := g, phase := 0, round := 0, turn := 0, elems := r, origin : ReRow }
  own ++ (numbered 1 (slotsOf b)).flatMap fun k =>
    let mine := es.filter fun e => match hop e with
      | some h => h.1 == k.2.1 && h.2.1 == k.2.2
      | none => false
    match mine.head?.bind hop with
    | some h => (cutRows n mine.length mine).map fun r =>
        { chunk, src := g, dst := h.2.2, phase := k.2.1, round := k.2.2, turn := k.1, elems := r, origin : ReRow }
    | none => []

/-! The order in which a member sends its rows (R374, R376). Of a list of rows, each member sends its own in order. -/

/-- A row put among the rows of its sender: after those of its chunk sent no later than its turn, before the others. -/
def putRow (r : ReRow) : List ReRow → List ReRow
  | [] => [r]
  | q :: qs => if q.src == r.src && (r.chunk < q.chunk || (q.chunk == r.chunk && r.turn < q.turn)) then r :: q :: qs
    else q :: putRow r qs

/-- A refused row put back: it is sent again after its sender's next round (R376). DEDUCED, log 34. -/
def putAgain (b : List Nat) (r : ReRow) (rows : List ReRow) : List ReRow :=
  putRow { r with turn := min (r.turn + 1) (slotsOf b).length } rows

/-- Whether a row is the one that its member sends next. -/
def isNextRow (rows : List ReRow) (k : Nat) (r : ReRow) : Bool := !(rows.take k).any fun q => q.src == r.src

/-- The rows that members send next. -/
def nextRows (rows : List ReRow) : List ReRow :=
  ((numbered 0 rows).filter fun e => isNextRow rows e.1 e.2).map (·.2)

/-- Elements that a row brings for other members, sent on: at once, ahead of the member's unsent rows, where it has begun the
phase that forwards them, else in that phase's rounds (R374). DEDUCED, log 34. -/
def sendOn (b : List Nat) (on rows : List ReRow) : List ReRow :=
  let begun := fun (r : ReRow) => match rows.find? fun q => q.src == r.src && q.chunk == r.chunk with
    | none => true
    | some q => match (slotsOf b)[q.turn - 1]? with
      | some k => 0 < q.turn && r.phase ≤ k.1
      | none => false
  let now := (on.filter begun).map fun r =>
    { r with turn := match rows.find? fun q => q.src == r.src && q.chunk == r.chunk with
        | some q => max r.turn q.turn
        | none => r.turn }
  (on.filter fun r => !begun r).foldl (fun rows r => putRow r rows) (now ++ rows)

/-- Whether one row asks before another: the earlier slot, then the lower source (R376). -/
def ReRow.before (a b : ReRow) : Bool :=
  a.phase < b.phase || (a.phase == b.phase && (a.round < b.round || (a.round == b.round && a.src < b.src)))

end Sys2Proof.Machine
end

