-- ==== Sys2Proof/Machine/Sluice.lean ====
section
/-! DEFINITION. The sluice engine (R345 to R370): posting and matching, staging grants, packets on spanning trees, chunks,
progress marks, recovery. -/

namespace Sys2Proof.Machine

/-! Lines of collectives (R350). -/

/-- SRC, DST, COUNT. -/
def lineSrc (r : Row) : Nat := lineNum r 16 8
/-- DST. -/
def lineDst (r : Row) : Nat := lineNum r 24 8
/-- COUNT. -/
def lineCount (r : Row) : Nat := lineNum r 32 8
/-- DTYPE. -/
def lineType (r : Row) : Nat := lineNum r 40 1
/-- WIRE. -/
def lineWire (r : Row) : Nat := lineNum r 41 1
/-- AUDIT. -/
def lineAudit (r : Row) : Bool := (lineNum r 42 1).testBit 0
/-- ROOT. -/
def lineRoot (r : Row) : Nat := lineNum r 44 2
/-- MARKS. -/
def lineMarks (r : Row) : Nat := lineNum r 48 8
/-- AUDV. -/
def lineAudv (r : Row) : Nat := lineNum r 56 8
/-- The box. -/
def lineBox (r : Row) : List Nat := (List.range 6).map fun i => lineNum r (64 + i) 1
/-- The element bytes of DTYPE. -/
def lineEs (r : Row) : Nat := (fmtOf (BitVec.ofNat 5 (lineType r))).width / 8

/-- Whether a kind reduces. -/
def reduces (kind : Nat) : Bool := kind == 0x20 || kind == 0x21

/-- The group size of a box. -/
def boxSize (b : List Nat) : Nat := b.getD 3 0 * b.getD 4 0 * b.getD 5 0

/-- The dies of a box in group order (R345). -/
def boxDies (b : List Nat) : List Nat :=
  (List.range (boxSize b)).map fun i =>
    let ex := b.getD 3 1
    let ey := b.getD 4 1
    dieAt (b.getD 0 0 + i % ex) (b.getD 1 0 + i / ex % ey) (b.getD 2 0 + i / ex / ey)

/-- The box of a command: of its line, or of its descriptor's group (R347). -/
def State.boxOf (s : State) (p : Push) : List Nat :=
  if p.kind == 0x28 then
    let d := descOf (s.fds p.lid) (lineFd p.line)
    [d.ox, d.oy, d.oz, d.gw, d.gh, d.gt]
  else lineBox p.line

/-- Whether a box is well formed for a launch (R345): extents 1 to 16, within the fabric, every member a die on which the launch
places a cluster. -/
def State.boxOk (s : State) (p : Push) (b : List Nat) : Bool :=
  let t := (s.pkg (corePkg p.core)).topo
  (List.range 3).all (fun a => 1 ≤ b.getD (3 + a) 0 && b.getD (3 + a) 0 ≤ 16
      && b.getD a 0 + b.getD (3 + a) 0 ≤ fabricDies t a)
    && (boxDies b).all (s.placesDie p.lid)

/-- The elements of SRC and of DST of a member, and of the chunk space (R351). -/
def spaces (kind n g : Nat) : Nat × Nat × Nat :=
  match kind with
  | 0x20 | 0x23 => (n, n, n)
  | 0x21 => (g * n, n, g * n)
  | 0x22 => (n, g * n, g * n)
  | _ => (g * n, g * n, g * n)

/-- The limits of a collective's line (R350, R351). -/
def collOk (p : Push) (g : Nat) : Bool :=
  let r := p.line
  let n := lineCount r
  let es := lineEs r
  let (a, b, w) := spaces p.kind n g
  let apart := lineSrc r + a * es ≤ lineDst r || lineDst r + b * es ≤ lineSrc r
  lineSrc r < 2 ^ 56 && lineSrc r % 128 == 0 && lineDst r < 2 ^ 56 && lineDst r % 128 == 0 && 1 ≤ n && n ≤ 2 ^ 36
    && (if reduces p.kind then lineType r == 0x08 || lineType r == 0x0A else lineType r ≤ 0x0C)
    && (if reduces p.kind then lineWire r ≤ 2 else lineWire r == 0)
    && (if reduces p.kind then lineNum r 42 1 ≤ 1 else lineNum r 42 1 == 0) && lineNum r 43 1 == 0
    && (if p.kind == 0x23 then lineRoot r < g else lineRoot r == 0) && lineNum r 46 2 == 0
    && lineMarks r % 8 == 0 && (lineAudv r != 0) == lineAudit r && lineNum r 70 58 == 0
    && apart && (w * es + 65535) / 65536 ≤ 2 ^ 24

/-- The limits of a RESHARD's line. -/
def reshardOk (r : Row) : Bool :=
  let lay := lineNum r 17 1
  (lay == 1 || lay == 2) && lineNum r 18 2 == 0 && lineNum r 24 8 < 2 ^ 56 && lineNum r 24 8 % 128 == 0
    && (if lay == 2 then 1 ≤ lineNum r 32 2 && lineNum r 32 2 ≤ 4095 && lineNum r 34 2 == 0 && lineNum r 36 4 == 0
        else lineNum r 32 2 == 0 && lineNum r 34 2 < 4096 && lineNum r 36 4 < 2 ^ 24)
    && lineNum r 40 88 == 0

/-- The status that a posted command fails with at its posting (R347, R350, R371). -/
def postStatus (s : State) (die : Nat) (p : Push) : Nat :=
  let r := p.line
  if 8 ≤ lineFl r || (lineSig r && !sclOk s p.lid die r) then stField
  else if p.kind == 0x28 then
    let fds := s.fds p.lid
    let d := descOf fds (lineFd r)
    let e := newField fds (lineFd r) r
    if (d.layout != 1 && d.layout != 2) || lineNum r 17 1 == d.layout then stFd
    else if reshardOk r && fieldOk (s.pkg (diePkg die)).topo e && !d.meets e.base (e.group * e.pstride) then stDone else stField
  else if collOk p (boxSize (lineBox r)) then stDone else stField

/-! Posting and matching (R346, R347). -/

/-- The input queue of a die's sluice engine. -/
def sluiceQueue (die : Nat) : Nat := 30000000 + die

/-- A sluice command ends: its increment, its element, its entry (R353). -/
def endPosted (die : Nat) (p : Push) (status count : Nat) (zeroed : Bool) (s : State) : State :=
  let t := sluiceQueue die
  let s := s.setEngq t { s.engq t with running := (s.engq t).running.filter fun r => r.push != p }
  let st := endStatus status zeroed
  strictEnd p.lid st (putElem p st count (signalOf die p s))

/-- The commands of copy and berm engines anywhere that name the descriptor of a RESHARD of their launch, by queue and number
(R377). -/
def State.naming (s : State) (p : Push) : List (Nat × Nat) :=
  s.engqs.flatMap fun t =>
    (((t.2.entries ++ t.2.running.map (·.push)).filter fun e =>
      (s.parts p.lid).contains e.lid && e.q < 2 && (e.kind == 0x03 || e.kind == 0x10) && lineFd e.line == lineFd p.line).map
        fun e => (t.1, e.no))

/-- The number under which a launch counts the commands of a die on a box (R347). -/
def boxKey (die : Nat) (b : List Nat) : Nat := b.foldl (fun k v => 256 * k + v) 0 * 8 + die % 8

/-- A command posted: it fails at once where it counts on no box, or takes its place on it (R346, R347). -/
def post (die : Nat) (p : Push) (s : State) : State :=
  let kinds := [0x20, 0x21, 0x22, 0x23, 0x24, 0x28]
  let b := s.boxOf p
  let t := sluiceQueue die
  let d := descOf (s.fds p.lid) (lineFd p.line)
  if !kinds.contains p.kind then endPosted die p stKind 0 false s
  else if p.kind == 0x28 && 16 ≤ lineFd p.line then endPosted die p stField 0 false s
  else if p.kind == 0x28 && d.unset then endPosted die p stFd 0 false s
  else if !s.boxOk p b || !(boxDies b).contains die then endPosted die p stField 0 false s
  else
    let x := s.launch p.lid
    let k := x.posts.get 0 (boxKey die b)
    let r : Run := { push := p, k, status := postStatus s die p, before := s.naming p }
    let s := s.setLaunch p.lid { x with posts := x.posts.put (boxKey die b) (k + 1) }
    s.setEngq t { s.engq t with running := (s.engq t).running ++ [r] }

/-- Whether an entry may be posted now: every earlier entry of its launch is, and no RESHARD holds it back (R346, R377).
DESIGN CHOICE, log 2. -/
def State.mayPost (s : State) (die i : Nat) (p : Push) : Bool :=
  let q := s.engq (sluiceQueue die)
  !((q.entries.take i).any fun e => e.lid == p.lid)
    && !(p.kind == 0x28 && q.running.any fun r =>
      r.push.kind == 0x28 && r.push.lid == p.lid && r.status == stDone && lineFd r.push.line == lineFd p.line)

/-- The posted command of a member that matches one posted on a box. -/
def State.partner (s : State) (lid k : Nat) (b : List Nat) (die : Nat) : Option Run :=
  (s.engq (sluiceQueue die)).running.find? fun r =>
    r.push.lid % 65536 == lid % 65536 && r.k == k && s.boxOf r.push == b

/-- What of two matched lines must agree (R347). DEDUCED, log 32. -/
def sameLine (a b : Push) : Bool :=
  a.kind == b.kind && (if a.kind == 0x28 then lineNum a.line 16 24 == lineNum b.line 16 24
    else lineNum a.line 32 14 == lineNum b.line 32 14 && lineBox a.line == lineBox b.line)

/-- The root of a collective's trees (R354). -/
def rootOf (p : Push) (dies : List Nat) : Nat :=
  if p.kind == 0x23 then dies.getD (lineRoot p.line) 0 else (sortNat dies).headD 0

/-- The staging rows that a collective reserves on each member (R363). -/
def rowsNeeded (kind t : Nat) : Nat :=
  match kind with
  | 0x20 | 0x21 => 32 * t
  | 0x22 | 0x23 => 16 * t
  | _ => 8

/-- The G matching commands of a box are posted: the match is checked (R347, R358). -/
def matched (rs : List Run) (b : List Nat) (s : State) : State :=
  let dies := boxDies b
  let ends := fun (st : Nat) => (dies.zip rs).foldl (fun s e => endPosted e.1 e.2.push st 0 false s) s
  match (sortNat dies).findSome? fun f => ((dies.zip rs).find? fun e => e.1 == f && e.2.status != stDone).map (·.2.status) with
  | some st => ends st
  | none =>
    match rs with
    | [] => s
    | r :: _ =>
      if rs.any fun q => !sameLine r.push q.push then ends stField
      else
        let trees := if r.push.kind == 0x28 then [] else s.deriveTrees dies (rootOf r.push dies) 3 s.liveLinks
        if trees.isEmpty && r.push.kind != 0x28 then ends stLink
        else
          let c : Coll :=
            { lid := r.push.lid % 65536, lord := (s.launch r.push.lid).lord, k := r.k, box := b, kind := r.push.kind, dies
              pushes := rs.map (·.push), trees, need := rowsNeeded r.push.kind trees.length, granted := 0, started := false
              live := [], fin := 0, next := 0, runs := [], counts := dies.map fun _ => 0, zeroed := false, moving := false
              rows := [], held := [], nrow := 0, undo := [], tau := none }
          { s with colls := s.colls ++ [c] }

/-- A match made, where every member's command is posted and the collective is not there yet. -/
def tryMatch (r : Run) (s : State) : State :=
  let b := s.boxOf r.push
  if s.colls.any fun c => c.pushes.contains r.push then s
  else
    match (boxDies b).mapM (s.partner r.push.lid r.k b) with
    | some rs => matched rs b s
    | none => s

/-- COLLECTIVE_MATCH (R347): the entry at a place of a die's queue is posted, or past the entries a posted command looked at;
the last of G matching commands makes the match. -/
def collectiveMatch (die i : Nat) (s : State) : State :=
  let t := sluiceQueue die
  let q := s.engq t
  match q.entries[i]? with
  | some p =>
    if s.mayPost die i p then
      let s := post die p (s.setEngq t { q with entries := removeAt q.entries i })
      match (s.engq t).running.find? fun r => r.push == p with
      | some r => tryMatch r s
      | none => s
    else s
  | none =>
    match q.running[i - q.entries.length]? with
    | some r => tryMatch r s
    | none => s

/-! Collectives in progress. -/

/-- The elements of a chunk. -/
def Coll.chunkElems (c : Coll) : Nat := 65536 / lineEs c.line
/-- The elements of the chunk space. -/
def Coll.space (c : Coll) : Nat := (spaces c.kind (lineCount c.line) c.dies.length).2.2
/-- The chunks. -/
def Coll.chunks (c : Coll) : Nat := (c.space + c.chunkElems - 1) / c.chunkElems
/-- The elements of chunk `n`: from, to. -/
def Coll.chunkRange (c : Coll) (n : Nat) : Nat × Nat := (n * c.chunkElems, min c.space ((n + 1) * c.chunkElems))
/-- The root. -/
def Coll.root (c : Coll) : Nat := match c.pushes.head? with
  | some p => rootOf p c.dies
  | none => 0
/-- The collective identifier (R348). -/
def Coll.cid (c : Coll) : Nat := c.lord.getD 1 0 * 2 ^ 40 + c.lid * 2 ^ 24 + c.k % 2 ^ 24
/-- A member's command. -/
def Coll.push (c : Coll) (f : Nat) : Option Push := ((c.dies.zip c.pushes).find? fun e => e.1 == f).map (·.2)
/-- The line of a member. -/
def Coll.lineOf (c : Coll) (f : Nat) : Row := ((c.push f).map (·.line)).getD 0
/-- Whether some member has no bitmap (R368). -/
def Coll.unmarked (c : Coll) : Bool := c.pushes.any fun p => lineMarks p.line == 0

/-- The elements of a chunk that a member receives: from, to (R351). -/
def Coll.receives (c : Coll) (f n : Nat) : Nat × Nat :=
  let (lo, hi) := c.chunkRange n
  if c.kind == 0x21 then
    let m := lineCount c.line
    let i := (c.dies.idxOf f)
    (max lo (i * m), max (max lo (i * m)) (min hi ((i + 1) * m)))
  else (lo, hi)

/-- Whether a member receives no byte of a chunk. -/
def Coll.idleIn (c : Coll) (f n : Nat) : Bool := let r := c.receives f n; r.2 ≤ r.1

/-- The virtual address at a member of a received element. -/
def Coll.dstVa (c : Coll) (f e : Nat) : Nat :=
  let off := if c.kind == 0x21 then c.dies.idxOf f * lineCount c.line else 0
  lineDst (c.lineOf f) + (e - off) * lineEs c.line

/-- Where a received element comes from: the member's die, and the element of its SRC (R351). -/
def Coll.sourceOf (c : Coll) (f e : Nat) : Nat × Nat :=
  let n := lineCount c.line
  match c.kind with
  | 0x23 => (c.root, e)
  | 0x22 => (c.dies.getD (e / n) 0, e % n)
  | _ => (c.dies.getD (e / n) 0, c.dies.idxOf f * n + e % n)

/-- The collective at a place, replaced. -/
def State.setColl (s : State) (i : Nat) (c : Coll) : State := { s with colls := replaceAt s.colls i c }

/-- Whether a packet is one of a collective's. DEDUCED, log 32. -/
def Packet.isOf (p : Packet) (c : Coll) : Bool := p.cid == c.cid

/-- The rows of the pool that staged rows of a collective hold given back. -/
def Coll.freeHeld (c : Coll) (s : State) : State :=
  (c.held.filter (·.extra)).foldl (fun s h =>
    let f := c.dies.getD h.member 0
    s.setDie f { s.die f with pool := (s.die f).pool + 1 }) s

/-- The links live now that were live when a collective started and have not gone DOWN since (R370). -/
def Coll.liveNow (c : Coll) (s : State) : List (Nat × Nat) := s.liveLinks.filter c.live.contains

/-- A collective ends at every member with one status (R353); its rows, packets and record go. -/
def endColl (i st : Nat) (s : State) : State :=
  match s.colls[i]? with
  | none => s
  | some c =>
    let s := s.releaseRows c
    let s := c.freeHeld s
    let s := { s with colls := removeAt s.colls i, packets := s.packets.filter fun p => !p.isOf c }
    (c.dies.zip (c.pushes.zip c.counts)).foldl (fun s e => endPosted e.1 e.2.1 st e.2.2 c.zeroed s) s

/-! Packets (R356, R357). -/

/-- The port towards a neighbour: 0 X+, 1 X−, 2 Y+, 3 Y−, 4 Z+, 5 Z− (R356). -/
def State.portCode (s : State) (f g : Nat) : Nat :=
  ((List.range 6).find? fun c => s.neighbour f (c / 2) (c % 2 == 0) == g).getD 7

/-- The hop entries of a path that begins at its first router, ending with an operation for the last router's engine. -/
def hopEntries (s : State) (op : Nat) : List Nat → List Nat
  | [] => []
  | [_] => [6 + 8 * op]
  | f :: g :: rest => s.portCode f g :: hopEntries s op (g :: rest)

/-- ROUTE of hop entries. -/
def routeOf (hs : List Nat) : BitVec 72 := BitVec.ofNat 72 (hs.foldr (fun h v => v * 64 + h) 0)

/-- A packet from one member to another on a tree, its operation ADD or DLV. DEDUCED, log 32. -/
def buildPacket (s : State) (c : Coll) (r : ChunkRun) (op f g : Nat) (p : Part) (afl : BitVec 5) : Packet :=
  let path := treePath (c.trees.getD r.tree []) f g
  let hs := hopEntries s op path
  { frm := f, peer := path.headD g, src := f, data := p.data
    hdr := packHeader (routeOf hs) hs.length r.tree p.wire (lineAudit c.line) afl r.chunk p.eoff p.scales c.cid }

/-- A payload of bytes. DEDUCED, log 32. -/
def payload (bs : List Byte) : BitVec 2048 := BitVec.ofNat 2048 (natOfBytes bs)

/-! Reduction (R359 to R362). -/

/-- The elements of a packet in a wire format (R357). -/
def packetElems (wire : Nat) : Nat := match wire with
  | 0 => 64 | 1 => 128 | _ => 224

/-- A block of 32 elements in its wire format: whether it travels as FP32, its scale, its codes. -/
structure WireBlock where
  esc   : Bool
  scale : Nat
  codes : List Nat

/-- A block of FP32 values converted to a wire format, with the flags raised (R359, R361, R362). -/
def wireBlock (wire : Nat) (accs : List Nat) : WireBlock × BitVec 5 :=
  let vs := accs.map fp32.value
  if vs.any fun v => v.isNan || v.isInf then (⟨true, 0, accs⟩, 0)
  else if wire == 0 then (⟨false, 0, accs⟩, 0)
  else if wire == 1 then
    let rs := vs.map fun v => roundWith v (.flt bf16) .rne true 0
    (⟨false, 0, rs.map (·.1)⟩, rs.foldl (fun f r => f ||| r.2) 0)
  else
    let ((c, es), r) := mxQuantise e4m3 true vs ⟨0, 0⟩
    (⟨false, c, es⟩, r.flags)

/-- The code bits of an element in a wire format. -/
def wireBits (wire : Nat) : Nat := match wire with
  | 0 => 32 | 1 => 16 | _ => 8

/-- The payloads of a packet's blocks, the elements that a test keeps: the blocks that travel as FP32 first, then the rest. -/
def wireParts (wire eoff src : Nat) (keep : Nat → Bool) (bs : List WireBlock) : List Part :=
  let mask := fun (b : Nat) (codes : List Nat) => (numbered (32 * b) codes).map fun e => if keep e.1 then e.2 else 0
  let escs := (numbered 0 bs).filterMap fun b =>
    if b.2.esc && (List.range 32).any (fun i => keep (32 * b.1 + i)) then
      some { src, eoff := eoff + b.1, wire := 3, scales := 0, data := BitVec.ofNat 2048 (pack 32 (mask b.1 b.2.codes)) }
    else none
  let codes := (numbered 0 bs).flatMap fun b => if b.2.esc then List.replicate 32 0 else mask b.1 b.2.codes
  escs ++ [{ src, eoff, wire, data := BitVec.ofNat 2048 (pack (wireBits wire) codes)
             scales := BitVec.ofNat 56 (pack 8 (bs.map fun b => if wire == 2 then b.scale else 0)) }]

/-- The value of element `k` of a packet's span, from its FP32 escape or from the packet. -/
def partValue (ps : List Part) (eoff wire k : Nat) : Option XVal :=
  match ps.find? fun p => p.wire == 3 && p.eoff == eoff + k / 32 with
  | some p => some (fp32.value (elem 32 p.data.toNat (k % 32)))
  | none =>
    (ps.find? fun p => p.wire == wire && p.eoff == eoff).map fun p =>
      match wire with
      | 0 => fp32.value (elem 32 p.data.toNat k)
      | 1 => bf16.value (elem 16 p.data.toNat k)
      | _ => mxValue e4m3 (elem 8 p.scales.toNat (k / 32)) (elem 8 p.data.toNat k)

/-- Whether a packet's span has come whole: its own packet comes after its escapes. -/
def partHere (ps : List Part) (eoff wire : Nat) : Bool := ps.any fun p => p.wire == wire && p.eoff == eoff

/-- The member parent of a member (R354). -/
def memberParent (tree : List (Nat × Nat)) (members : List Nat) (f : Nat) : Option Nat :=
  ((treeUp tree tree.length f).drop 1).find? members.contains

/-- The member children of a member, ascending. -/
def Coll.children (c : Coll) (tree f : Nat) : List Nat :=
  (sortNat c.dies).filter fun g => g != f && memberParent (c.trees.getD tree []) c.dies g == some f

/-- An FP32 addition of R359 with its flags. -/
def foldAdd (a : Nat × BitVec 5) (v : XVal) : Nat × BitVec 5 :=
  let (x, f) := xadd .rne (fp32.value a.1) v
  let (b, g) := roundWith x (.flt fp32) .rne false 0
  (b, a.2 ||| f ||| g)

/-- The exact source element widened to FP32; zero past the end. -/
def sourceAcc (ty : Nat) (src : List Byte) (k : Nat) : Nat :=
  if ty == 0x08 then natOfBytes ((src.drop (4 * k)).take 4)
  else encodeExact fp32 (bf16.value (natOfBytes ((src.drop (2 * k)).take 2)))

/-- The final conversion of an element to DTYPE (R359). -/
def finalCode (ty : Nat) (v : XVal) : Nat × BitVec 5 :=
  roundWith v (.flt (if ty == 0x08 then fp32 else bf16)) .rne false 0

/-- A member's reduction of one packet's span of a chunk: the blocks in wire form, and the flags raised. -/
def reduceSpan (c : Coll) (r : ChunkRun) (m : MemberChunk) (j : Nat) : List WireBlock × BitVec 5 :=
  let w := lineWire c.line
  let ty := lineType c.line
  let u := packetElems w
  let kids := c.children r.tree m.die
  let accs := (List.range u).map fun k =>
    kids.foldl (fun (a : Nat × BitVec 5) g =>
      match partValue (m.got.filter fun p => p.src == g) (j * u / 32) w k with
      | some v => foldAdd a v
      | none => a) (sourceAcc ty m.src (j * u + k), 0)
  let bs := (List.range (u / 32)).map fun b => wireBlock w (((accs.drop (32 * b)).take 32).map (·.1))
  (bs.map (·.1), (accs.foldl (fun f a => f ||| a.2) 0) ||| bs.foldl (fun f b => f ||| b.2) 0)

/-- The values of a block in wire form. -/
def WireBlock.values (wire : Nat) (b : WireBlock) : List XVal :=
  b.codes.map fun k =>
    if b.esc || wire == 0 then fp32.value k else if wire == 1 then bf16.value k else mxValue e4m3 b.scale k

/-- What a member's reduction of a span sends: to its member parent, or from the root to every member that receives any of
it; and what the root keeps for itself. -/
def spanOut (s : State) (c : Coll) (r : ChunkRun) (f j : Nat) (bs : List WireBlock) (afl : BitVec 5) : List Packet × List Part :=
  let w := lineWire c.line
  let u := packetElems w
  let eoff := j * u / 32
  let lo := (c.chunkRange r.chunk).1 + j * u
  if f == c.root then
    let partsOf := fun (g : Nat) =>
      let (a, b) := c.receives g r.chunk
      if b ≤ max a lo || lo + u ≤ a then [] else wireParts w eoff f (fun k => a ≤ lo + k && lo + k < b) bs
    (c.dies.flatMap (fun g => if g == f then [] else (partsOf g).map fun p => buildPacket s c r 2 f g p afl), partsOf f)
  else
    match memberParent (c.trees.getD r.tree []) c.dies f with
    | some g => ((wireParts w eoff f (fun _ => true) bs).map fun p => buildPacket s c r 1 f g p afl, [])
    | none => ([], [])

/-- The packet spans of a chunk. -/
def Coll.spans (c : Coll) (n : Nat) : Nat :=
  let (lo, hi) := c.chunkRange n
  let u := packetElems (lineWire c.line)
  (hi - lo + u - 1) / u

/-- A member reduces every span whose child contributions have come (R360); `fuel` bounds the spans. -/
def reduceMore (s : State) (c : Coll) (r : ChunkRun) : Nat → MemberChunk → List Packet → BitVec 5 →
    MemberChunk × List Packet × BitVec 5
  | 0, m, out, fl => (m, out, fl)
  | fuel + 1, m, out, fl =>
    let w := lineWire c.line
    let eoff := m.sent * packetElems w / 32
    if c.spans r.chunk ≤ m.sent || !((c.children r.tree m.die).all fun g =>
        partHere (m.got.filter fun p => p.src == g) eoff w) then (m, out, fl)
    else
      let (bs, f) := reduceSpan c r m m.sent
      let g := if m.die == c.root then
          bs.foldl (fun f b => (b.values w).foldl (fun f v => f ||| (finalCode (lineType c.line) v).2) f) 0 else 0
      let (ps, mine) := spanOut s c r m.die m.sent bs (fl ||| f)
      reduceMore s c r fuel { m with sent := m.sent + 1, res := m.res ++ mine } (out ++ ps) (fl ||| f ||| g)

/-- A member's reduction gone on with, in its chunk. -/
def reduceStep (i : Nat) (r : ChunkRun) (die : Nat) (s : State) : State :=
  match s.colls[i]? with
  | none => s
  | some c =>
    match r.at'.find? fun m => m.die == die with
    | none => s
    | some m =>
      let (m, ps, fl) := reduceMore s c r (c.spans r.chunk + 1) m [] 0
      let r := { r with afl := r.afl ||| fl, at' := r.at'.map fun x => if x.die == die then m else x }
      let s := s.setColl i { c with runs := c.runs.map fun x => if x.chunk == r.chunk then r else x }
      { s with packets := s.packets ++ ps }

/-! Exact moves (R352). -/

/-- The elements of a 256-byte window. -/
def Coll.window (c : Coll) : Nat := 256 / lineEs c.line

/-- The windows of a chunk. DEDUCED, log 32. -/
def Coll.windows (c : Coll) (n : Nat) : Nat :=
  let (lo, hi) := c.chunkRange n
  (hi - lo + c.window - 1) / c.window

/-- The elements of a window. -/
def Coll.windowElems (c : Coll) (n j : Nat) : List Nat :=
  let (lo, hi) := c.chunkRange n
  ((List.range c.window).map fun k => lo + j * c.window + k).filter (· < hi)

/-- The members that a window of a member's chunk comes from. -/
def Coll.windowSources (c : Coll) (f n j : Nat) : List Nat := nubNat ((c.windowElems n j).map fun e => (c.sourceOf f e).1)

/-- The bytes that a member sends another for one window, zeros for elements of others, with whether data were replaced. -/
def windowBytes (x : EngCtx) (c : Coll) (f g n j : Nat) (s : State) : List Byte × Bool × State :=
  (c.windowElems n j).foldl (fun a e =>
    let (src, k) := c.sourceOf g e
    if src == f then
      let (bs, z, s) := x.read (lineSrc (c.lineOf f) + k * lineEs c.line) (lineEs c.line) a.2.2
      (a.1 ++ bs, a.2.1 || z, s)
    else (a.1 ++ List.replicate (lineEs c.line) 0, a.2.1, a.2.2)) ([], false, s)

/-- The pages of SRC that a member reads for a chunk. -/
def Coll.sourcePages (c : Coll) (f n : Nat) : List (Bool × Nat) :=
  let (lo, hi) := c.chunkRange n
  let es := lineEs c.line
  let base := lineSrc (c.lineOf f)
  if reduces c.kind then (pageVas (base + lo * es) ((hi - lo) * es)).map fun v => (false, v)
  else
    (nubNat (c.dies.flatMap fun g => (((List.range (hi - lo)).map fun k => c.sourceOf g (lo + k)).filter
      fun e => e.1 == f).map fun e => (base + e.2 * es) / 65536 * 65536)).map fun v => (false, max v base)

/-! Chunks (R358, R368). -/

/-- The context of a member. -/
def Coll.ctx (c : Coll) (s : State) (f : Nat) : EngCtx := bermCtx s f c.lid

/-- The accesses of every member to some pages made. -/
def doneAll (c : Coll) (pages : Nat → List (Bool × Nat)) (s : State) : State :=
  c.dies.foldl (fun s f => (c.ctx s f).done ((pages f).map (·.2)) s) s

/-- Pages made ready at every member, in turn. -/
def prepareAll (c : Coll) (pages : Nat → List (Bool × Nat)) : List Nat → State → Ready
  | [], s => .ready s
  | f :: fs, s =>
    match (c.ctx s f).prepare (pages f) s with
    | .ready s => prepareAll c pages fs s
    | r => r

/-- The word of a bitmap that holds a chunk's bit. -/
def markVa (r : Row) (n : Nat) : Nat := lineMarks r + n / 64 * 8

/-- A chunk's bit set in a member's bitmap (R368). -/
def setMark (c : Coll) (f n : Nat) (s : State) : State :=
  let r := c.lineOf f
  if lineMarks r == 0 then s
  else
    let x := c.ctx s f
    let (bs, _, s) := x.read (markVa r n) 8 s
    x.write (markVa r n) (bytesOf 8 (BitVec.ofNat 64 (natOfBytes bs ||| 2 ^ (n % 64)))) s

/-- The pages of a chunk's mark at a member. -/
def markPages (r : Row) (n : Nat) : List (Bool × Nat) :=
  if lineMarks r == 0 then [] else [(false, markVa r n), (true, markVa r n)]

/-- Whether every link of a tree in force is live. -/
def Coll.treeLive (c : Coll) (live : List (Nat × Nat)) (k : Nat) : Bool :=
  (c.trees.getD k []).all fun e => live.contains (linkName e.1 e.2)

/-- Whether every link of every tree in force is live. -/
def Coll.treesLive (c : Coll) (live : List (Nat × Nat)) : Bool := (List.range c.trees.length).all (c.treeLive live)

/-- Whether every link of a chunk's tree is live: its packets and rows may go on (R370). -/
def Coll.chunkLive (c : Coll) (live : List (Nat × Nat)) (n : Nat) : Bool :=
  c.runs.any fun r => r.chunk == n && c.treeLive live r.tree

/-- What the rows of an ALLTOALL carry: element `j·space + e` is element `e` of the DST of member `j` (R351, R373). -/
def Coll.blockMoves (c : Coll) : Moves where
  es := lineEs c.line
  dest k := k / c.space
  va k := c.dstVa (c.dies.getD (k / c.space) 0) (k % c.space)

/-- The rows in which a member of an ALLTOALL sends its elements of a chunk (R373). -/
def blockRows (c : Coll) (n f : Nat) (s : State) : List ReRow × Bool × State :=
  let (lo, hi) := c.chunkRange n
  let es := lineEs c.line
  let (xs, z, s) := (numbered 0 c.dies).foldl (fun (a : List (Nat × List Byte) × Bool × State) g =>
    (List.range (hi - lo)).foldl (fun (a : List (Nat × List Byte) × Bool × State) k =>
      let (src, e) := c.sourceOf g.2 (lo + k)
      if src == f then
        let (bs, z, s) := (c.ctx a.2.2 f).read (lineSrc (c.lineOf f) + e * es) es a.2.2
        (a.1 ++ [(g.1 * c.space + lo + k, bs)], a.2.1 || z, s)
      else a) a) ([], false, s)
  (rowsFrom c.box c.blockMoves n (c.dies.idxOf f) none xs, z, s)

/-- A chunk started at every member: sources read, what can be sent at once sent (R358). -/
def startChunk (i n : Nat) (c : Coll) (s : State) : State :=
  let tree := n % c.trees.length
  let (lo, hi) := c.chunkRange n
  let es := lineEs c.line
  let red := reduces c.kind
  let (ms, z, s) := c.dies.foldl (fun (a : List MemberChunk × Bool × State) f =>
    let (bs, z, s) := if red then (c.ctx a.2.2 f).read (lineSrc (c.lineOf f) + lo * es) ((hi - lo) * es) a.2.2
      else ([], false, a.2.2)
    (a.1 ++ [{ die := f, src := bs, got := [], res := [], sent := 0, done := c.idleIn f n && !lineAudit c.line }],
      a.2.1 || z, s)) ([], false, s)
  let r : ChunkRun := { chunk := n, tree, afl := 0, at' := ms }
  if c.kind == 0x24 then
    let (rows, z, s) := c.dies.foldl (fun (a : List ReRow × Bool × State) f =>
      let (rs, z, s) := blockRows c n f a.2.2
      (a.1 ++ rs, a.2.1 || z, s)) ([], false, s)
    s.setColl i { c with runs := c.runs ++ [r], rows := c.rows ++ rows, zeroed := c.zeroed || z }
  else if red then
    let s := s.setColl i { c with runs := c.runs ++ [r], zeroed := c.zeroed || z }
    c.dies.foldl (fun s f =>
      match (s.colls[i]?).bind fun c => c.runs.find? fun x => x.chunk == n with
      | some r => reduceStep i r f s
      | none => s) s
  else
    let (r, ps, z, s) := c.dies.foldl (fun (a : ChunkRun × List Packet × Bool × State) f =>
      c.dies.foldl (fun a g => (List.range (c.windows n)).foldl (fun (a : ChunkRun × List Packet × Bool × State) j =>
        let (r, ps, z, s) := a
        if (c.windowSources g n j).contains f then
          let (bs, z', s) := windowBytes (c.ctx s f) c f g n j s
          let p : Part := { src := f, eoff := j * c.window / 32, wire := 0, scales := 0, data := payload bs }
          if f == g then
            ({ r with at' := r.at'.map fun m => if m.die == f then { m with res := m.res ++ [p] } else m }, ps, z || z', s)
          else (r, ps ++ [buildPacket s c r 2 f g p 0], z || z', s)
        else a) a) a) (r, [], false, s)
    { s.setColl i { c with runs := c.runs ++ [r], zeroed := c.zeroed || z } with packets := s.packets ++ ps }

/-- The next chunks started as far as their trees have room, or the collective's end where none is left; `fuel` bounds the
chunks looked at (R358, R368). -/
def startChunks (i : Nat) : Nat → State → State
  | 0, s => s
  | fuel + 1, s =>
    match s.colls[i]? with
    | none => s
    | some c =>
      if !c.treesLive (c.liveNow s) then s
      else if c.chunks ≤ c.next then (if c.runs.isEmpty then endColl i stDone s else s)
      else if c.fin.testBit c.next then startChunks i fuel (s.setColl i { c with next := c.next + 1 })
      else if 2 ≤ (c.runs.filter fun r => r.tree == c.next % c.trees.length).length then s
      else
        match prepareAll c (fun f => c.sourcePages f c.next) c.dies s with
        | .waits s => s
        | .fails s st => endColl i st (doneAll c (fun f => c.sourcePages f c.next) s)
        | .ready s =>
          startChunks i fuel
            (doneAll c (fun f => c.sourcePages f c.next) (startChunk i c.next { c with next := c.next + 1 } s))

/-- The chunks finished by the bitmaps of every member, each of which is read (R368). -/
def finishedBits (c : Coll) (s : State) : Nat × State :=
  if c.unmarked then (0, s)
  else
    c.dies.foldl (fun v f =>
      let (bs, _, s) := (c.ctx v.2 f).read (lineMarks (c.lineOf f)) ((c.chunks + 7) / 8) v.2
      (v.1 &&& natOfBytes bs, s)) (2 ^ c.chunks - 1, s)

/-- The pages of a member's whole bitmap. -/
def Coll.bitmapPages (c : Coll) (f : Nat) : List (Bool × Nat) :=
  let r := c.lineOf f
  if lineMarks r == 0 then [] else (pageVas (lineMarks r) ((c.chunks + 63) / 64 * 8)).map fun v => (false, v)

/-- The bits of the chunks of which members receive no byte, set at the start (R368); with AUDIT once the audit byte is written.
DESIGN CHOICE, log 61. -/
def markIdle (c : Coll) (fin : Nat) (s : State) : State :=
  if lineAudit c.line then s
  else
    c.dies.foldl (fun s f => (List.range c.chunks).foldl (fun s n =>
      if c.idleIn f n && !fin.testBit n then setMark c f n s else s) s) s

/-- The pages of the marks that a member sets at the start. DESIGN CHOICE, log 61. -/
def Coll.idlePages (c : Coll) (f : Nat) : List (Bool × Nat) :=
  if lineAudit c.line then []
  else ((List.range c.chunks).filter (c.idleIn f)).flatMap fun n => markPages (c.lineOf f) n

/-- The chunks begun on the trees in force: bitmaps read, finished chunks skipped (R368). -/
def beginChunks (i : Nat) (s : State) : State :=
  match s.colls[i]? with
  | none => s
  | some c =>
    let pages := fun f => c.bitmapPages f ++ c.idlePages f
    match prepareAll c pages c.dies s with
    | .waits s => s
    | .fails s st => endColl i st (doneAll c pages s)
    | .ready s =>
      let (fin, s) := finishedBits c s
      let s := doneAll c pages (markIdle c fin s)
      startChunks i (c.chunks + 1) (s.setColl i { c with fin, next := 0, runs := [], moving := true })

/-! Staging (R363, R364). -/

/-- Whether one order key comes before another, field by field (R348). -/
def keyLess : List Nat → List Nat → Bool
  | x :: xs, y :: ys => x < y || (x == y && keyLess xs ys)
  | [], _ :: _ => true
  | _, _ => false

/-- The member that a collective asks for its rows next. -/
def Coll.asks (c : Coll) : Option Nat := if c.started then none else (sortNat c.dies)[c.granted]?

/-- The key by which requests are granted. -/
def Coll.key (c : Coll) : List Nat := c.lord ++ [c.k]

/-- A collective starts (R358, R367): its trees are derived again; a RESHARD's word reads RUNNING. DEDUCED, log 34. -/
def startColl (i : Nat) (s : State) : State :=
  match s.colls[i]? with
  | none => s
  | some c =>
    if c.kind == 0x28 then
      let fd := lineFd c.line
      let s := s.setColl i { c with started := true, live := s.liveLinks }
      (nubNat (c.pushes.flatMap fun p => s.parts p.lid)).foldl (fun s l =>
        let x := s.launch l
        s.setLaunch l { x with rstate := x.rstate.write fd 1, rretry := x.rretry.write fd 0 }) s
    else
      let trees := (s.deriveTrees c.dies c.root 3 s.liveLinks).take c.trees.length
      if trees.isEmpty then endColl i stLink s
      else beginChunks i (s.setColl i { c with started := true, trees, live := s.liveLinks })

/-- Whether a running collective has a collective's identifier: it waits with its start, for a CID is unique among those that run
at once (R348). DEDUCED, log 32. -/
def State.cidRuns (s : State) (c : Coll) : Bool := s.colls.any fun x => x.started && x.cid == c.cid

/-- STAGING_GRANT (R364): the member that a collective asks grants its rows, where they fit and no request at that die that
fits comes before; the last grant starts the collective. -/
def stagingGrant (i : Nat) (s : State) : State :=
  match s.colls[i]? with
  | none => s
  | some c =>
    match c.asks with
    | none => s
    | some f =>
      let d := s.die f
      let ahead := s.colls.any fun x => x.asks == some f && x.need ≤ d.pool && keyLess x.key c.key
      if d.pool < c.need || ahead || (c.granted + 1 == c.dies.length && s.cidRuns c) then s
      else
        let s := s.setDie f { d with pool := d.pool - c.need }
        let s := s.setColl i { c with granted := c.granted + 1 }
        if c.granted + 1 == c.dies.length then startColl i s else s

/-! Routers (R357). -/

/-- SLUSTAT.BADHOP. -/
def State.badHop (s : State) (f : Nat) : State := s.setDie f { s.die f with badhop := sat16 (s.die f).badhop }

/-- A payload handed to a die's engine: a child contribution, or bytes for DST. DEDUCED, log 32. -/
def handPart (add : Bool) (p : Packet) (s : State) : State :=
  match (numbered 0 s.colls).find? fun e => e.2.started && p.isOf e.2 with
  | none => s
  | some (i, c) =>
    match c.runs.find? fun r => r.chunk == p.chunk && r.tree == p.tree with
    | none => s
    | some r =>
      let part : Part := { src := p.src, eoff := p.eoff, wire := p.wire, scales := p.scales, data := p.data }
      let r := { r with
        afl := r.afl ||| (if p.aud then p.afl else 0)
        at' := r.at'.map fun m =>
          if m.die != p.peer then m else if add then { m with got := m.got ++ [part] } else { m with res := m.res ++ [part] } }
      let s := s.setColl i { c with runs := c.runs.map fun x => if x.chunk == r.chunk then r else x }
      if add then reduceStep i r p.peer s else s

/-- A packet handed to a die's engine as control (R357). DEDUCED, log 32. -/
def handControl (p : Packet) (s : State) : State :=
  s.setDie p.peer { s.die p.peer with control := (s.die p.peer).control ++ [(p.hdr, p.data)] }

/-- What a router does with a packet that has reached it (R357). -/
def routePacket (p : Packet) (s : State) : State :=
  let port := (p.route.extractLsb' 0 3).toNat
  let op := (p.route.extractLsb' 3 3).toNat
  let p' := { p with hdr := shiftHeader p.hdr }
  let onward := fun (s : State) =>
    if port < 6 then
      { s with packets := s.packets ++ [{ p' with frm := p.peer, peer := s.neighbour p.peer (port / 2) (port % 2 == 0) }] }
    else s.badHop p.peer
  if p.nhop == 0 then s.badHop p.peer
  else
    match op with
    | 0 => onward s
    | 1 => handPart true p' s
    | 2 => handPart false p' s
    | 3 => onward (handPart false p' s)
    | 4 => handControl p' s
    | _ => s.badHop p.peer

/-- The packet at a place crossing its link: at once within a package; over an external link it is cut into flits, and crosses
once the far port has delivered them (R445). -/
def crossLink (i : Nat) (p : Packet) (s : State) : State × Option Packet :=
  match s.external p.frm p.peer, p.cut with
  | none, _ => ({ s with packets := removeAt s.packets i }, some p)
  | some a, none =>
    match sendPacket p.frm (3 + a) p.hdr p.data s with
    | some (q, s) => ({ s with packets := replaceAt s.packets i { p with cut := some q } }, none)
    | none => (s, none)
  | some a, some q =>
    match takePacket p.peer (3 + a) q s with
    | some (hdr, data, s) => ({ s with packets := removeAt s.packets i }, some { p with hdr, data, cut := none })
    | none => (s, none)

/-- SLUICE_PACKET (R357): a packet whose link is live, none of its chunk before it on that link, crosses it and reaches its
router. DEDUCED, log 32. DESIGN CHOICE, log 54. -/
def sluicePacket (i : Nat) (s : State) : State :=
  match s.packets[i]? with
  | none => s
  | some p =>
    let same := fun (q : Packet) => q.frm == p.frm && q.peer == p.peer && q.cid == p.cid && q.chunk == p.chunk && q.tree == p.tree
    if !s.joined p.frm p.peer || (s.packets.take i).any same then s
    else
      match crossLink i p s with
      | (s, some p) => routePacket p s
      | (s, none) => s

/-! The end of a chunk at a member (R353, R359, R362, R368). -/

/-- Whether everything that a member writes of a chunk has come. -/
def chunkHere (c : Coll) (r : ChunkRun) (m : MemberChunk) : Bool :=
  if reduces c.kind then
    let w := lineWire c.line
    let u := packetElems w
    let lo := (c.chunkRange r.chunk).1
    let (a, b) := c.receives m.die r.chunk
    (List.range (c.spans r.chunk)).all (fun j =>
        b ≤ max a (lo + j * u) || lo + j * u + u ≤ a || partHere m.res (j * u / 32) w)
      && r.at'.all fun x => x.die != c.root || c.spans r.chunk ≤ x.sent
  else if c.kind == 0x24 then (c.chunkRange r.chunk).2 - (c.chunkRange r.chunk).1 ≤ m.sent
  else
    (List.range (c.windows r.chunk)).all fun j =>
      (c.windowSources m.die r.chunk j).length ≤ (m.res.filter fun p => p.eoff == j * c.window / 32).length

/-- The bytes that a member writes of a chunk. -/
def chunkBytes (c : Coll) (r : ChunkRun) (m : MemberChunk) : List Byte :=
  if reduces c.kind then
    let w := lineWire c.line
    let u := packetElems w
    let lo := (c.chunkRange r.chunk).1
    let (a, b) := c.receives m.die r.chunk
    (List.range (b - a)).flatMap fun k =>
      let e := a + k - lo
      let v := (partValue m.res (e / u * u / 32) w (e % u)).getD (.zero false)
      bytesOf (lineEs c.line) (BitVec.ofNat 64 (finalCode (lineType c.line) v).1)
  else
    ((List.range (c.windows r.chunk)).flatMap fun j =>
      let v := (m.res.filter fun p => p.eoff == j * c.window / 32).foldl (fun (v : BitVec 2048) p => v ||| p.data) 0
      (bytesOf 256 v).take ((c.windowElems r.chunk j).length * lineEs c.line))

/-- What a member writes of a chunk before its mark: DST, the audit byte. -/
def Coll.chunkWrites (c : Coll) (r : ChunkRun) (m : MemberChunk) : List (Nat × List Byte) :=
  let line := c.lineOf m.die
  (if c.idleIn m.die r.chunk || c.kind == 0x24 then [] else [(c.dstVa m.die (c.receives m.die r.chunk).1, chunkBytes c r m)])
    ++ (if lineAudit line then [(lineAudv line + r.chunk, [r.afl.zeroExtend 8])] else [])

/-- A member's chunk written: DST, the audit byte, the mark. -/
def writeChunk (c : Coll) (r : ChunkRun) (m : MemberChunk) (s : State) : State :=
  setMark c m.die r.chunk ((c.chunkWrites r m).foldl (fun s w => (c.ctx s m.die).write w.1 w.2 s) s)

/-- The pages that a member's chunk writes. -/
def Coll.chunkPages (c : Coll) (r : ChunkRun) (f : Nat) : List (Bool × Nat) :=
  let line := c.lineOf f
  let (a, b) := c.receives f r.chunk
  (if c.idleIn f r.chunk || c.kind == 0x24 then [] else (pageVas (c.dstVa f a) ((b - a) * lineEs c.line)).map fun v => (true, v))
    ++ (if lineAudit line then [(true, lineAudv line + r.chunk)] else []) ++ markPages line r.chunk

/-- CHUNK_FINISH (R368): a member writes a chunk that has come whole and marks it; a chunk finished at every member leaves room
for the next. What a page that fails leaves of it stands (R270). DESIGN CHOICE, log 61. -/
def chunkFinish (i die n : Nat) (s : State) : State :=
  match s.colls[i]? with
  | none => s
  | some c =>
    match c.runs.find? fun r => r.chunk == n with
    | none => s
    | some r =>
      match r.at'.find? fun m => m.die == die with
      | none => s
      | some m =>
        if m.done || !chunkHere c r m then s
        else
          let x := c.ctx s die
          let pages := c.chunkPages r die
          match x.prepare pages s with
          | .waits s => s
          | .fails s st => endColl i st (x.done (pages.map (·.2)) (x.writePart (c.chunkWrites r m) s))
          | .ready s =>
            let s := x.done (pages.map (·.2)) (writeChunk c r m s)
            let fin := fun (x : MemberChunk) => if x.die == die then { x with done := true } else x
            let r : ChunkRun := { r with at' := r.at'.map fin }
            let counts := (c.dies.zip c.counts).map fun e =>
              if e.1 == die && !c.idleIn die n then e.2 + 1 else e.2
            if r.at'.all (·.done) then
              startChunks i (c.chunks + 1) (s.setColl i { c with
                counts, runs := c.runs.filter fun x => x.chunk != n, fin := c.fin ||| 2 ^ n })
            else s.setColl i { c with counts, runs := c.runs.map fun x => if x.chunk == n then r else x }

/-! Recovery (R370). -/

/-- Whether a chunk in flight is abandoned: its tree has lost a link, and something of it has still to come. -/
def abandoned (c : Coll) (live : List (Nat × Nat)) (r : ChunkRun) : Bool :=
  !c.treeLive live r.tree && r.at'.any fun m => !m.done && !chunkHere c r m

/-- Some chunks in flight abandoned at every member: their packets, rows and staging go, and what members had written of them
counts no more, for they are done again (R353, R370). -/
def Coll.leaveChunks (c : Coll) (gone : List Nat) : Coll :=
  let rows := c.rows.filter fun r => !gone.contains r.chunk
  let onWay := c.onWay.filter fun w => !gone.contains w.row.chunk
  { c with
    runs := c.runs.filter fun r => !gone.contains r.chunk
    counts := (c.dies.zip c.counts).map fun e =>
      e.2 - (c.runs.filter fun r => gone.contains r.chunk && !c.idleIn e.1 r.chunk
        && r.at'.any fun m => m.die == e.1 && m.done).length
    rows, onWay
    held := c.held.filter fun h => rows.any (fun r => r.origin == some h.no)
      || onWay.any fun w => w.row.origin == some h.no || w.no == some h.no }

/-- The state with some chunks of a collective abandoned. DEDUCED, log 32. -/
def abandonChunks (i : Nat) (gone : List Nat) (s : State) : State :=
  match s.colls[i]? with
  | none => s
  | some c =>
    let c' := c.leaveChunks gone
    let s := ({ c with held := c.held.filter fun h => !c'.held.contains h } : Coll).freeHeld s
    { s.setColl i c' with packets := s.packets.filter fun p => !(p.isOf c && gone.contains p.chunk) }

/-- TREE_RECOVERY (R370): chunks that need the lost link are abandoned; once those on intact trees have completed, trees are
derived again and every chunk that is not finished is done again. A collective whose bitmaps or sources could not be reached yet
goes on by this step too. DEDUCED, log 32. -/
def treeRecovery (i : Nat) (s : State) : State :=
  match s.colls[i]? with
  | none => s
  | some c =>
    let live := c.liveNow s
    if !c.started || c.kind == 0x28 then s
    else if c.treesLive live then (if c.moving then startChunks i (c.chunks + 1) s else beginChunks i s)
    else if c.unmarked then endColl i stLink s
    else
      let s := abandonChunks i ((c.runs.filter (abandoned c live)).map (·.chunk)) s
      match s.colls[i]? with
      | none => s
      | some c =>
        if !c.runs.isEmpty then s
        else
          let trees := (s.deriveTrees c.dies c.root 3 live).take c.trees.length
          let s := c.dies.foldl (fun s f =>
            let s := s.setDie f { s.die f with recovs := sat16 (s.die f).recovs }
            let l := partKey c.lid f
            let x := s.launch l
            s.setLaunch l { x with recov := x.recov.write f (sat16 (x.recov.read f)) }) s
          if trees.isEmpty then endColl i stLink s else beginChunks i (s.setColl i { c with trees, moving := false })

/-! The meanings. -/

/-- COLLECTIVE_MATCH (R347). -/
def execCollectiveMatch (die idx : Nat) (s : State) : Host.Outcome State Fault Refusal := .next (collectiveMatch die idx s)
/-- STAGING_GRANT (R364). -/
def execStagingGrant (idx : Nat) (s : State) : Host.Outcome State Fault Refusal := .next (stagingGrant idx s)
/-- SLUICE_PACKET (R357). -/
def execSluicePacket (idx : Nat) (s : State) : Host.Outcome State Fault Refusal := .next (sluicePacket idx s)
/-- CHUNK_FINISH (R368). -/
def execChunkFinish (idx die chunk : Nat) (s : State) : Host.Outcome State Fault Refusal := .next (chunkFinish idx die chunk s)
/-- TREE_RECOVERY (R370). -/
def execTreeRecovery (idx : Nat) (s : State) : Host.Outcome State Fault Refusal := .next (treeRecovery idx s)

end Sys2Proof.Machine
end

