-- ==== Sys2Proof/Machine/Reshard.lean ====
section
/-! DEFINITION. RESHARD (R371 to R377): a field re-laid between ST3 and HEAD, row by row. -/

namespace Sys2Proof.Machine

/-! Elements and their places. -/

/-- The coordinates of an element of a field's interior. -/
def FieldDesc.coordOf (d : FieldDesc) (e : Nat) : Nat × Nat × Nat × Nat :=
  (e / d.c / d.w / d.h, e / d.c / d.w % d.h, e / d.c % d.w, e % d.c)

/-- The group index of the die that owns an element (R326, R328). -/
def FieldDesc.ownerOf (d : FieldDesc) (e : Nat) : Nat :=
  let (t, h, w, c) := d.coordOf e
  if d.layout == 2 then c / (d.c / d.nh) / (d.nh / d.group)
  else w / d.wp + d.gw * (h / d.hp + d.gh * (t / d.tp))

/-- The address of an element. -/
def FieldDesc.elemVa (d : FieldDesc) (e : Nat) : Nat := let (t, h, w, c) := d.coordOf e; d.addr t h w c 0

/-- The descriptor of a RESHARD before it, from the part of its launch on a member's package. -/
def Coll.oldField (c : Coll) (s : State) : FieldDesc :=
  descOf (s.launch (partKey c.lid (c.dies.headD 0))).fds (lineFd c.line)

/-- The descriptor of a RESHARD after it. -/
def Coll.newField (c : Coll) (s : State) : FieldDesc :=
  Machine.newField (s.launch (partKey c.lid (c.dies.headD 0))).fds (lineFd c.line) c.line

/-! The schedule's routes (R373). -/

/-- The links of every route of a RESHARD's schedule, as the die each leaves, the axis, the way. -/
def Coll.routes (c : Coll) (s : State) : List (Nat × Nat × Bool) :=
  (List.range c.dies.length).flatMap fun g => (peersOf c.box g).flatMap fun h =>
    s.routeLinks (c.dies.getD g 0) (c.dies.getD h 0)

/-- The external links on the longest path between members (R375). -/
def Coll.farthest (c : Coll) (s : State) : Nat :=
  (c.dies.flatMap fun f => c.dies.map fun g =>
    ((s.routeLinks f g).filter fun h => s.viaExternal h.1 h.2.1 h.2.2).length).foldl max 0

/-! Ends (R375). -/

/-- The parts of a RESHARD's launch. -/
def Coll.parts (c : Coll) (s : State) : List Nat := nubNat (c.pushes.flatMap fun p => s.parts p.lid)

/-- A RESHARD word's STATE set and its SEQ advanced, on every part (R378). -/
def Coll.setWord (c : Coll) (state : Nat) (s : State) : State :=
  let fd := lineFd c.line
  (c.parts s).foldl (fun s l =>
    let x := s.launch l
    s.setLaunch l { x with
      rstate := x.rstate.write fd (BitVec.ofNat 2 state), rseq := x.rseq.write fd (x.rseq.read fd + 1) }) s

/-- A leaf returned to its earlier frame with COW = 1. DEDUCED, log 34. -/
def undoLeaf (s : State) (u : Undo) : State := s.writeLeaf u.pkg u.root u.va u.leaf u.leaf

/-- The frame that a leaf had taken, freed. -/
def freeFrame (s : State) (u : Undo) : State :=
  let k := s.pkg u.owner
  s.setPkg u.owner { k with frames := k.frames ++ [u.frame] }

/-- The new range of a RESHARD: from, to (R372). -/
def Coll.newRange (c : Coll) (s : State) : Nat × Nat :=
  let d := c.newField s
  (d.base, d.base + d.group * d.pstride)

/-- The address spaces of a RESHARD's parts. -/
def Coll.spaces (c : Coll) (s : State) : List Nat := nubNat ((c.parts s).map fun l => (s.launch l).queue)

/-- A RESHARD aborted at every member: sending stops, the leaves it resolved are returned, and the invalidation of the new range begins
(R252, R375). DEDUCED, log 34. -/
def abortReshard (i st : Nat) (s : State) : State :=
  match s.colls[i]? with
  | none => s
  | some c =>
    if c.ending.isSome then s
    else
      let (lo, hi) := c.newRange s
      let xs := (c.spaces s).flatMap fun p => s.held p lo hi
      let s := c.undo.reverse.foldl undoLeaf (s.flushPages xs)
      let s := (c.spaces s).foldl (fun s p => s.invalidate p lo hi) s
      s.setColl i { c with rows := [], onWay := [], ending := some (st, xs) }

/-- An aborted RESHARD ends at every member once the invalidation of its range is complete: the frames it took are freed (R375).
DEDUCED, log 34. -/
def endAbort (i : Nat) (s : State) : State :=
  match s.colls[i]? with
  | none => s
  | some c =>
    match c.ending with
    | none => s
    | some (st, xs) =>
      if !s.quiet xs then s
      else
        let s := c.undo.reverse.foldl freeFrame s
        let s := (c.spaces s).foldl State.rewalk s
        let s := c.dies.foldl (fun s f => s.setDie f { s.die f with aborts := sat16 (s.die f).aborts }) s
        endColl i st (c.setWord 3 s)

/-- The commit tick of a RESHARD fixed once every member has reported: no row is left (R375). -/
def reportAll (i : Nat) (s : State) : State :=
  match s.colls[i]? with
  | none => s
  | some c =>
    if c.kind == 0x28 && c.moving && c.rows.isEmpty && c.onWay.isEmpty && c.tau.isNone && c.ending.isNone then
      s.setColl i { c with tau := some (s.now + 960 + 480 * c.farthest s) }
    else s

/-! The start of a RESHARD's moves (R372, R377). -/

/-- What the rows of a RESHARD or an ALLTOALL carry. -/
def Coll.moves (c : Coll) (s : State) : Moves :=
  if c.kind == 0x28 then
    let new := c.newField s
    { es := new.es, dest := new.ownerOf, va := new.elemVa }
  else c.blockMoves

/-- Whether every command that came before a RESHARD's on some member's die has ended. -/
def Coll.clear (c : Coll) (s : State) : Bool :=
  (c.dies.zip c.pushes).all fun e =>
    match (s.engq (sluiceQueue e.1)).running.find? fun r => r.push == e.2 with
    | none => true
    | some r => (r.before.filter fun b => c.dies.any fun f =>
          b.1 == bermQueue f || (10000000 ≤ b.1 && b.1 < 20000000 && clusterDie (b.1 - 10000000) == f)).all fun b =>
        let q := s.engq b.1
        !(q.entries.any fun p => p.no == b.2) && !(q.running.any fun p => p.push.no == b.2)

/-- The status that a page of the new range gives: unmapped, or with W = 0. -/
def rangeStatus (c : Coll) (new : FieldDesc) (s : State) : Option Nat :=
  (numbered 0 c.dies).findSome? fun e =>
    let x := c.ctx s e.2
    (pagesOf (new.base + e.1 * new.pstride) new.pstride).findSome? fun p =>
      match s.walk x.pkg x.space x.root (p * 65536) with
      | none => some stPage
      | some t => if leafW t.leaf then none else some stPerm

/-- The elements that a member holds under the old descriptor. -/
def heldElems (old : FieldDesc) (g : Nat) : List Nat :=
  (List.range (old.t * old.h * old.w * old.c)).filter fun e => old.ownerOf e == g

/-- The rows of every member read from the old layout. -/
def firstRows (c : Coll) (old : FieldDesc) (s : State) : List ReRow × Bool × State :=
  (numbered 0 c.dies).foldl (fun (a : List ReRow × Bool × State) e =>
    let (es, z, s) := (heldElems old e.1).foldl (fun (a : List (Nat × List Byte) × Bool × State) k =>
      let (bs, z, s) := (c.ctx a.2.2 e.2).read (old.elemVa k) old.es a.2.2
      (a.1 ++ [(k, bs)], a.2.1 || z, s)) ([], false, a.2.2)
    (a.1 ++ rowsFrom c.box (c.moves s) 0 e.1 none es, a.2.1 || z, s)) ([], false, s)

/-- A started RESHARD begins to move data (R375, R377). DEDUCED, log 34. -/
def beginMoves (i : Nat) (s : State) : State :=
  match s.colls[i]? with
  | none => s
  | some c =>
    let old := c.oldField s
    let new := c.newField s
    if !(c.routes s).all fun h => s.linkLive h.1 h.2.1 h.2.2 then abortReshard i stLink s
    else if !c.clear s then s
    else
      match rangeStatus c new s with
      | some st => abortReshard i st s
      | none =>
        let pages := fun f => (heldElems old (c.dies.idxOf f)).map fun e => (false, old.elemVa e)
        match prepareAll c pages c.dies s with
        | .waits s => s
        | .fails s st => abortReshard i st (doneAll c pages s)
        | .ready s =>
          let (rows, z, s) := firstRows c old s
          let s := doneAll c pages s
          reportAll i (s.setColl i { c with rows, moving := true, zeroed := c.zeroed || z })

/-! Rows (R374, R376). -/

/-- What a copy-on-write resolution between two states has changed in the leaf of a page (R372, R375). -/
def resolved (x : EngCtx) (va : Nat) (before after : State) : List Undo :=
  match before.walk x.pkg x.space x.root va, after.walk x.pkg x.space x.root va with
  | some a, some b =>
    if leafCow a.leaf && !leafCow b.leaf then
      [{ pkg := x.pkg, space := x.space, root := x.root, va, leaf := a.leaf, owner := paPkg (leafFrame b.leaf)
         frame := ⟨leafFrame b.leaf % 2 ^ 42, frameSize a.leaf⟩ }]
    else []
  | _, _ => []

/-- Pages made ready for writes; what copy-on-write resolves is noted (R372, R375). -/
def readyNoted (x : EngCtx) : List Nat → State → List Undo × Ready
  | [], s => ([], .ready s)
  | va :: vs, s =>
    match x.settle (x.look s va) true va s with
    | .fails t st => (resolved x va s t, .fails t st)
    | .waits t => (resolved x va s t, .waits t)
    | .ok e t => readyNoted x vs (x.keep e t)

/-- The staging rows that a member has for a row: the collective's reserved ones, and the pool's. -/
def Coll.room (c : Coll) (s : State) (g : Nat) : Nat × Nat :=
  (c.need - (c.held.filter fun h => h.member == g && !h.extra).length, (s.die (c.dies.getD g 0)).pool)

/-- Whether a row asks for a staging row: it goes to another member. -/
def ReRow.staged (r : ReRow) : Bool := r.src != r.dst

/-- Whether another row that a member sends now asks before a row for the last staging row at its destination: one of the same
collective, or where the pool's last row is asked for one of another that has none of its own left (R376).
DEDUCED, log 34. -/
def rivalled (c : Coll) (r : ReRow) (s : State) : Bool :=
  let f := c.dies.getD r.dst 0
  let ahead := fun (x : Coll) => (nextRows x.rows).any fun q => q.staged && x.dies.getD q.dst 0 == f && q.before r
  ahead c || ((c.room s r.dst).1 == 0 && s.colls.any fun x =>
    x != c && (x.room s (x.dies.idxOf f)).1 == 0 && ahead x)

/-- A row refused: a RESHARD counts it; it is sent again after its sender's next round (R376). DEDUCED, log 34. -/
def refuseRow (i k : Nat) (r : ReRow) (c : Coll) (s : State) : State :=
  let fd := lineFd c.line
  let s := if c.kind == 0x28 then
      (c.parts s).foldl (fun s l =>
        let x := s.launch l
        s.setLaunch l { x with rretry := x.rretry.write fd (sat16 (x.rretry.read fd)) }) s
    else s
  s.setColl i { c with rows := putAgain c.box r (removeAt c.rows k) }

/-- A staged row freed. -/
def freeStage (i n : Nat) (s : State) : State :=
  match s.colls[i]? with
  | none => s
  | some c =>
    let gone := c.held.filter fun h => h.no == n
    ({ c with held := gone } : Coll).freeHeld (s.setColl i { c with held := c.held.filter fun h => h.no != n })

/-- A split row has been accepted: its staged row is freed with its last (R374). -/
def unstage (i : Nat) (o : Option Nat) (s : State) : State :=
  match o, s.colls[i]? with
  | some n, some c =>
    if c.held.any fun h => h.no == n && decide (1 < h.out) then
      s.setColl i { c with held := c.held.map fun x => if x.no == n then { x with out := x.out - 1 } else x }
    else freeStage i n s
  | _, _ => s

/-- What a member has had of a collective, with a row's elements for it: of a RESHARD the rows written, of an ALLTOALL the
elements of the chunk that have come. -/
def Coll.took (c : Coll) (r : ReRow) (n : Nat) : Coll :=
  if c.kind == 0x28 then
    { c with counts := (numbered 0 c.counts).map fun e => if e.1 == r.dst && n != 0 then e.2 + 1 else e.2 }
  else
    let f := c.dies.getD r.dst 0
    { c with runs := c.runs.map fun x =>
        if x.chunk == r.chunk then
          { x with at' := x.at'.map fun m => if m.die == f then { m with sent := m.sent + n } else m }
        else x }

/-- A row that has come accepted: its elements for the member are written, the others are sent on, and its staging row is held until
they are accepted (R374). -/
def acceptRow (i j : Nat) (w : WayRow) (c : Coll) (s : State) : State :=
  let r := w.row
  let f := c.dies.getD r.dst 0
  let mv := c.moves s
  let mine := r.elems.filter fun e => mv.dest e.1 == r.dst
  let s := mine.foldl (fun s e => (c.ctx s f).write (mv.va e.1) e.2 s) s
  let s := (c.ctx s f).done (mine.map fun e => mv.va e.1) s
  let on := rowsFrom c.box mv r.chunk r.dst w.no (r.elems.filter fun e => mv.dest e.1 != r.dst)
  let c := c.took r mine.length
  let held := c.held.map fun h => if w.no == some h.no then { h with out := on.length } else h
  let s := s.setColl i { c with rows := sendOn c.box on c.rows, held, onWay := removeAt c.onWay j }
  let s := match w.no with
    | some n => if on.isEmpty then freeStage i n s else s
    | none => s
  reportAll i (unstage i r.origin s)

/-- A page that a row needs has failed: what its earlier pages take of it stands (R270); a RESHARD is aborted, an ALLTOALL ends (R353,
R372). -/
def failRow (i st : Nat) (w : WayRow) (c : Coll) (s : State) : State :=
  let f := c.dies.getD w.row.dst 0
  let mv := c.moves s
  let mine := w.row.elems.filter fun e => mv.dest e.1 == w.row.dst
  let s := (c.ctx s f).writePart (mine.map fun e => (mv.va e.1, e.2)) s
  let s := (c.ctx s f).done (mine.map fun e => mv.va e.1) s
  if c.kind == 0x28 then abortReshard i st (s.setColl i c) else endColl i st s

/-- The dies of a row's way (R358, R373): of a RESHARD the routes of its schedule; of an ALLTOALL its chunk's tree. DEDUCED, log 34. -/
def Coll.rowPath (c : Coll) (r : ReRow) (s : State) : List Nat :=
  let f := c.dies.getD r.src 0
  let g := c.dies.getD r.dst 0
  if c.kind == 0x28 then (s.routeLinks f g).map fun h => s.neighbour h.1 h.2.1 h.2.2
  else
    let k := ((c.runs.find? fun x => x.chunk == r.chunk).map (·.tree)).getD 0
    treePath (c.trees.getD k []) f g

/-- The header of a row's packets on the dies of its way that are still to come (R356, R357). DESIGN CHOICE, log 54. -/
def Coll.rowHeader (c : Coll) (r : ReRow) (s : State) (_ : Nat) (path : List Nat) : BitVec 256 :=
  packHeader (routeOf (hopEntries s 2 path)) path.length 0 0 false 0 r.chunk 0 0 c.cid

/-- A row's elements with the bytes that have come. -/
def ReRow.filled (r : ReRow) (es : Nat) (bs : List Byte) : ReRow :=
  { r with elems := (numbered 0 r.elems).map fun e => (e.2.1, (bs.drop (e.1 * es)).take es) }

/-- A row on its way goes on as far as it can; one that has come is accepted once its pages are ready (R374, R445). -/
def rowWay (i j : Nat) (s : State) : State :=
  match s.colls[i]? with
  | none => s
  | some c =>
    match c.onWay[j]? with
    | none => s
    | some w =>
      let (s, k) := w.carry.run (c.rowHeader w.row s) (w.carry.path.length + 1) s
      let mv := c.moves s
      let w := { w with carry := k, row := if k.path.isEmpty then w.row.filled mv.es k.data else w.row }
      let c := { c with onWay := replaceAt c.onWay j w }
      if !k.path.isEmpty then s.setColl i c
      else
        let f := c.dies.getD w.row.dst 0
        match readyNoted (c.ctx s f) ((w.row.elems.filter fun e => mv.dest e.1 == w.row.dst).map fun e => mv.va e.1) s with
        | (us, .waits s) => s.setColl i { c with undo := c.undo ++ us }
        | (us, .fails s st) => failRow i st w { c with undo := c.undo ++ us } s
        | (us, .ready s) => acceptRow i j w { c with undo := c.undo ++ us } s

/-- The row that a member sends next draws a staging row at its destination and sets out, or is refused (R376).
DEDUCED, log 34. -/
def sendRow (i k : Nat) (r : ReRow) (c : Coll) (s : State) : State :=
  if !isNextRow c.rows k r then s
  else
    let f := c.dies.getD r.dst 0
    let (own, pool) := c.room s r.dst
    if r.staged && (own + pool == 0 || (own + pool == 1 && rivalled c r s)) then refuseRow i k r c s
    else
      let extra := r.staged && own == 0
      let s := if extra then s.setDie f { s.die f with pool := (s.die f).pool - 1 } else s
      let carry : Carry := { at' := c.dies.getD r.src 0, path := c.rowPath r s, data := r.elems.flatMap (·.2) }
      let w : WayRow := { row := r, no := if r.staged then some c.nrow else none, carry }
      let held := if r.staged then c.held ++ [⟨c.nrow, r.dst, extra, 0⟩] else c.held
      rowWay i c.onWay.length
        (s.setColl i { c with rows := removeAt c.rows k, onWay := c.onWay ++ [w], held, nrow := c.nrow + 1 })

/-- A row of a collective, sent or on its way, gone on with; of an ALLTOALL only while its chunk's tree is intact (R370). -/
def rowStep (i k : Nat) (c : Coll) (s : State) : State :=
  let goes := fun (r : ReRow) => c.kind == 0x28 || c.chunkLive (c.liveNow s) r.chunk
  match c.rows[k]? with
  | some r => if goes r then sendRow i k r c s else s
  | none =>
    match c.onWay[k - c.rows.length]? with
    | some w => if goes w.row then rowWay i (k - c.rows.length) s else s
    | none => s

/-- RESHARD_ROW (R376): the moves of a RESHARD begin, or a row of it or of an ALLTOALL goes on; or one that is aborted ends (R375). -/
def reshardRow (i k : Nat) (s : State) : State :=
  match s.colls[i]? with
  | none => s
  | some c =>
    if !c.started || c.tau.isSome then s
    else if c.ending.isSome then endAbort i s
    else if c.kind == 0x28 then (if c.moving then rowStep i k c s else beginMoves i s)
    else if c.kind == 0x24 && c.moving then rowStep i k c s
    else s

/-- RESHARD_COMMIT (R375): from its tick on every copy of the descriptor reads the new words (`State.fds`); they are taken, and
the command ends. DEDUCED, log 34. -/
def reshardCommit (i : Nat) (s : State) : State :=
  match s.colls[i]? with
  | none => s
  | some c =>
    match c.tau with
    | none => s
    | some t =>
      if s.now < t then s
      else
        let fd := lineFd c.line
        let s := (c.parts s).foldl (fun s l =>
          let x := s.launch l
          s.setLaunch l { x with fds := x.fds.writeRun (4 * fd) (newWords x.fds fd c.line) }) s
        endColl i stDone (c.setWord 2 s)

/-- The RESHARDs that a lost link aborts (R375): those with a link of their schedule not live, before their last report. -/
def reshardLinks (s : State) : State :=
  (numbered 0 s.colls).reverse.foldl (fun s e =>
    if e.2.started && e.2.kind == 0x28 && e.2.tau.isNone
        && e.2.ending.isNone && !(e.2.routes s).all fun h => s.linkLive h.1 h.2.1 h.2.2 then abortReshard e.1 stLink s else s) s

/-! The meanings. -/

/-- RESHARD_ROW (R376). -/
def execReshardRow (idx row : Nat) (s : State) : Host.Outcome State Fault Refusal := .next (reshardRow idx row s)
/-- RESHARD_COMMIT (R375). -/
def execReshardCommit (idx : Nat) (s : State) : Host.Outcome State Fault Refusal := .next (reshardCommit idx s)

end Sys2Proof.Machine
end

