-- ==== Sys2Proof/Machine/Ple.lean ====
section
/-! DEFINITION. The posting-list engine (R380 to R397): blocks decoded and checked, merge, scores, fusion, ranking, records. -/

namespace Sys2Proof.Machine

/-! Lines (R392, R394). -/

/-- The input queue of a memory die's posting-list engine. -/
def pleQueue (m : Nat) : Nat := 40000000 + m

/-- SLOT. -/
def lineSlot (r : Row) : Nat := lineNum r 16 1
/-- NT. -/
def lineNt (r : Row) : Nat := lineNum r 17 1
/-- FUSION. -/
def lineFusion (r : Row) : Nat := lineNum r 20 1
/-- SKIP. -/
def lineSkip (r : Row) : Bool := (lineNum r 21 1).testBit 0
/-- K. -/
def lineK (r : Row) : Nat := lineNum r 22 2
/-- TERMS. -/
def lineTerms (r : Row) : Nat := lineNum r 24 8
/-- RESVA. -/
def lineRes (r : Row) : Nat := lineNum r 32 8
/-- RECVA. -/
def lineRec (r : Row) : Nat := lineNum r 40 8
/-- CANDSP. -/
def lineCand (r : Row) : Nat := lineNum r 48 4
/-- NV. -/
def lineNv (r : Row) : Nat := lineNum r 52 2
/-- An FP32 field of a line. -/
def lineF32 (r : Row) (lo : Nat) : XVal := fp32.value (lineNum r lo 4)

/-- Whether a value is finite. -/
def XVal.finite (v : XVal) : Bool := !v.isNan && !v.isInf
/-- Whether a value is above zero. -/
def XVal.positive (v : XVal) : Bool := xlt (.zero false) v

/-- Whether an address is a multiple that R392 asks for; one that no translation covers fails where it is used (R241). -/
def vaOk (v align : Nat) : Bool := v % align == 0

/-- The limits of a QUERY line (R392); fields of another mode are ignored. -/
def queryOk (r : Row) : Bool :=
  let bm := lineNum r 19 1 == 1
  1 ≤ lineNt r && lineNt r ≤ 16 && lineNum r 18 1 ≤ 1 && lineNum r 19 1 ≤ 1 && lineFusion r ≤ 2 && lineNum r 21 1 ≤ 1
    && 1 ≤ lineK r && lineK r ≤ 1024 && vaOk (lineTerms r) 32 && vaOk (lineRes r) 8 && vaOk (lineRec r) 32
    && (lineFusion r == 0 || (lineCand r < 2 ^ 24 && lineCand r % 128 == 0 && lineNv r ≤ 4096))
    && lineNum r 54 2 == 0
    && (lineFusion r != 1 || ((lineF32 r 56).finite && (lineF32 r 60).finite))
    && (lineFusion r != 2 || ((lineF32 r 64).finite && (lineF32 r 64).positive))
    && (!bm || ((lineF32 r 68).finite && !xlt (lineF32 r 68) (.zero false)
      && !(lineF32 r 72).isNan && !xlt (lineF32 r 72) (.zero false) && !xlt (.fin false 1 0) (lineF32 r 72)
      && (lineF32 r 76).finite && (lineF32 r 76).positive))
    && vaOk (lineNum r 80 8) 4 && (lineNum r 80 8 != 0) == bm && lineNum r 88 40 == 0
    && !(lineSkip r && lineFusion r != 0)

/-- The limits of a CHECK line (R394). -/
def checkOk (r : Row) : Bool := 1 ≤ lineNt r && lineNt r ≤ 16 && vaOk (lineTerms r) 32 && vaOk (lineRec r) 32

/-! Records (R393). -/

/-- What a command has counted. -/
structure Tally where
  cands   : Nat := 0
  nres    : Nat := 0
  skipped : Nat := 0
  dropped : Nat := 0
  decoded : Nat := 0
  nans    : Nat := 0
  kth     : Nat := 0x7FC00000

/-- The four words of a completion record. -/
def recordWords (p : Push) (status : Nat) (t : Tally) : List W64 :=
  [BitVec.ofNat 64 (t.cands * 2 ^ 32 + t.nres), BitVec.ofNat 64 (t.skipped * 2 ^ 32 + t.dropped),
    BitVec.ofNat 64 (t.decoded * 2 ^ 32 + min 0xFFFF t.nans * 2 ^ 16 + p.kind % 256 * 256 + status),
    BitVec.ofNat 64 (lineTag p.line * 2 ^ 32 + t.kth)]

/-- The context of a posting-list command: the engine TLB of the paired compute die (R249). -/
def pleCtx (s : State) (m : Nat) (p : Push) : EngCtx :=
  { who := .engine m, pkg := m / 8, space := (s.launch p.lid).queue, root := (s.launch p.lid).root, lid := p.lid }

/-- The slots that a launch has on an engine. -/
def State.slotsOf (s : State) (m l : Nat) : Nat := (s.launch l).desc.plslot.getD (m % 8) 0

/-- A command of a posting-list engine ends, its record at RECVA written: its record in its slot, the increment, the element,
PLSTAT (R393, R395, R397). -/
def pleClose (m : Nat) (p : Push) (st : Nat) (t : Tally) (s : State) : State :=
  let l := s.launch p.lid
  let s := if (p.kind == 0x30 || p.kind == 0x31) && lineSlot p.line < s.slotsOf m p.lid then
      s.setLaunch p.lid { l with prec := l.prec.writeRun (recNo m (lineSlot p.line) 0) (recordWords p st t) }
    else s
  let d := s.mdie m
  let s := s.setMdie m { d with
    plcmds := d.plcmds + 1, pldrops := BitVec.ofNat 16 (min 0xFFFF (d.pldrops.toNat + t.dropped)) }
  strictEnd p.lid st (putElem p st t.nres (signalOf (coreDie p.core) p s))

/-- The end of a command that runs at a place: it writes its record to RECVA, or waits until that page can be written.
DEDUCED, log 35. -/
def pleEnd (m n : Nat) (p : Push) (status : Nat) (zeroed : Bool) (t : Tally) (s : State) : State :=
  let x := pleCtx s m p
  let st := endStatus status zeroed
  let recva := lineRec p.line
  let leave := fun (s : State) => let s := x.release s; s.setEngq (pleQueue m) { s.engq (pleQueue m) with running := removeAt (s.engq (pleQueue m)).running n }
  if (p.kind == 0x30 || p.kind == 0x31) && recva != 0 && vaOk recva 32 then
    match x.prepare [(true, recva)] s with
    | .ready s => pleClose m p st t (leave (x.write recva (wordBytes (recordWords p st t)) s))
    | .fails s e => pleClose m p e t (leave s)
    | .waits s => s
  else pleClose m p st t (leave s)

/-! Lists (R382 to R384). -/

/-- A term of the term table. -/
structure Term where
  list : Nat
  nblk : Nat
  w    : XVal

/-- A block header. -/
structure Block where
  term  : Nat
  idx   : Nat
  first : Nat
  poff  : Nat
  count : Nat
  dbw   : Nat
  maxtf : Nat
  bound : XVal
  prev  : Option Nat
  next  : Option Nat
  list  : Nat

/-- A posting: document, term, term frequency. -/
structure Posting where
  doc  : Nat
  term : Nat
  tf   : Nat

/-- What stops a command's reads: a page that fails them, or one whose walk has been asked for, with the die that walks. -/
inductive PleStop where
  | fails (status : Nat) | walks (d : Die)

/-- Bytes that a command reads. -/
def pleRead (x : EngCtx) (va n : Nat) (s : State) : Except PleStop (List Byte × Bool × State) :=
  if n == 0 then .ok ([], false, s)
  else
    match x.prepare ((pageVas va n).map fun v => (false, v)) s with
    | .ready s => .ok (x.read va n s)
    | .fails _ st => .error (.fails st)
    | .waits s => .error (.walks (s.die x.die))

/-- The term table; a term outside its limits fails with BAD_FIELD. -/
def termsOf (bs : List Byte) (n : Nat) : Option (List Term) :=
  (List.range n).mapM fun j =>
    let e := (bs.drop (32 * j)).take 32
    let t : Term := { list := byteNum e 0 8, nblk := byteNum e 8 4, w := fp32.value (byteNum e 12 4) }
    if byteZero e 16 16 && vaOk t.list 16 && t.nblk ≤ 2 ^ 24 then some t else none

/-- The blocks of a term, read from its directory. -/
def blocksOf (j : Nat) (t : Term) (bs : List Byte) : List Block :=
  let first := fun (b : Nat) => byteNum bs (16 * b) 4
  (List.range t.nblk).map fun b =>
    { term := j, idx := b, first := first b, poff := byteNum bs (16 * b + 4) 4, count := byteNum bs (16 * b + 8) 1
      dbw := byteNum bs (16 * b + 9) 1, maxtf := byteNum bs (16 * b + 10) 2, bound := fp16.value (byteNum bs (16 * b + 12) 2)
      prev := if b == 0 then none else some (first (b - 1)), next := if b + 1 < t.nblk then some (first (b + 1)) else none
      list := t.list }

/-- Whether a block's header passes its checks (R384). -/
def Block.headOk (b : Block) : Bool :=
  1 ≤ b.count && b.count ≤ 128 && b.dbw ≤ 32 && b.maxtf != 0 && (match b.prev with
    | some f => f < b.first
    | none => true)

/-- TBW: the bit length of MAXTF − 1 (R383). -/
def Block.tbw (b : Block) : Nat := if b.maxtf ≤ 1 then 0 else (b.maxtf - 1).log2 + 1
/-- The payload's bytes. -/
def Block.bytes (b : Block) : Nat := ((b.count - 1) * b.dbw + b.count * b.tbw + 7) / 8

/-- The documents of a block: none where a delta is 0. -/
def docsFrom (dbw v : Nat) : Nat → Nat → Nat → Option (List Nat)
  | 0, _, _ => some []
  | n + 1, k, doc =>
    let d := v >>> (dbw * k) % 2 ^ dbw
    if d == 0 then none else (docsFrom dbw v n (k + 1) (doc + d)).map fun r => (doc + d) :: r

/-- A block's postings, where its payload passes its checks (R383, R384). -/
def Block.decode (b : Block) (v : Nat) : Option (List Posting) :=
  match docsFrom b.dbw v (b.count - 1) 0 b.first with
  | none => none
  | some ds =>
    let docs := b.first :: ds
    let last := docs.getLastD b.first
    if 0xFFFFFFFE < last || (match b.next with
      | some f => f ≤ last
      | none => false) then none
    else
      let at' := (b.count - 1) * b.dbw
      some ((numbered 0 docs).map fun d => ⟨d.2, b.term, v >>> (at' + b.tbw * d.1) % 2 ^ b.tbw + 1⟩)

/-- One element put before those of an ordered list that do not come before it. -/
def insertBy {α : Type} (lt : α → α → Bool) (x : α) : List α → List α
  | [] => [x]
  | y :: ys => if lt y x then y :: insertBy lt x ys else x :: y :: ys

/-- A list in order; equal elements keep theirs. -/
def sortBy {α : Type} (lt : α → α → Bool) (l : List α) : List α := l.foldr (insertBy lt) []

/-- Every block of a query's terms, in ascending FIRST, then by term (R385). -/
def dealt (bs : List Block) : List Block := sortBy (fun a b => a.first < b.first || (a.first == b.first && a.term < b.term)) bs

/-- The directories of the terms, read in turn. -/
def readLists (x : EngCtx) : List (Nat × Term) → State → Except PleStop (List Block × Bool × State)
  | [], s => .ok ([], false, s)
  | (j, t) :: ts, s => do
    let (bs, z, s) ← pleRead x t.list (16 * t.nblk) s
    let (rest, z', s) ← readLists x ts s
    return (blocksOf j t bs ++ rest, z || z', s)

/-! Scores (R385, R386). -/

/-- A document's posting of each term that has one, terms ascending. Where kept blocks of one term hold the document twice, which
of the postings counts is free. DESIGN CHOICE, log 35. -/
def docTerms (ps : List Posting) (d : Nat) : List Posting :=
  let mine := ps.filter fun p => p.doc == d
  (sortBy (· < ·) (nubNat (mine.map (·.term)))).filterMap fun j =>
    let js := mine.filter fun p => p.term == j
    if js.length = 1 then js.head? else js[Config.twicePosted d j % js.length]?

/-- The documents that match, ascending (R385). -/
def matching (r : Row) (ps : List Posting) : List Nat :=
  let ds := sortBy (· < ·) (nubNat (ps.map (·.doc)))
  if lineNum r 18 1 == 1 then ds.filter fun d => (List.range (lineNt r)).all fun j => ps.any fun p => p.doc == d && p.term == j
  else ds

/-- A term's score for a document of length `dl` (R386). -/
def termScore (r : Row) (w : XVal) (tf dl : Nat) : XVal :=
  let tf := XVal.ofInt tf
  if lineNum r 19 1 == 0 then rnMul w tf
  else
    let one : XVal := .fin false 1 0
    let b := lineF32 r 72
    let k1 := lineF32 r 68
    let nl := rnDiv (XVal.ofInt dl) (lineF32 r 76)
    let q := rnAdd (rnAdd one b.neg) (rnMul b nl)
    let den := rnAdd tf (rnMul k1 q)
    rnMul w (rnDiv (rnMul tf (rnAdd k1 one)) den)

/-- The lexical score of a matching document: a left fold over its terms. -/
def lexScore (r : Row) (ts : List Term) (ps : List Posting) (d dl : Nat) : XVal :=
  (docTerms ps d).foldl (fun s p => rnAdd s (termScore r ((ts[p.term]?.map (·.w)).getD (.zero false)) p.tf dl)) (.zero false)

/-- The lengths of documents, read where SCORE is BM25. -/
def readLengths (x : EngCtx) (r : Row) : List Nat → State → Except PleStop (List (Nat × Nat) × Bool × State)
  | [], s => .ok ([], false, s)
  | d :: ds, s => do
    let (bs, z, s) ← if lineNum r 19 1 == 0 then .ok ([], false, s) else pleRead x (lineNum r 80 8 + 4 * d) 4 s
    let (rest, z', s) ← readLengths x r ds s
    return ((d, natOfBytes bs) :: rest, z || z', s)

/-- Documents ranked: descending score, equal ones by lower number, a NaN never (R389). -/
def ranked (l : List (Nat × XVal)) : List (Nat × XVal) :=
  sortBy (fun a b => xlt b.2 a.2 || (xeq a.2 b.2 && a.1 < b.1)) (l.filter fun e => !e.2.isNan)

/-- Scores of matching documents. -/
def lexAll (x : EngCtx) (r : Row) (ts : List Term) (ps : List Posting) (ds : List Nat) (s : State) : Except PleStop (List (Nat × XVal) × Bool × State) :=
  do
    let (ls, z, s) ← readLengths x r ds s
    return (ls.map fun e => (e.1, lexScore r ts ps e.1 e.2), z, s)

/-! Blocks in turn (R385, R390). -/

/-- The document after the last one of a block's range (R390). -/
def Block.stop (b : Block) : Nat := b.next.getD 0xFFFFFFFF

/-- Whether the ranges of two blocks meet; an empty one meets none (R390). -/
def Block.meets (b c : Block) : Bool := max b.first c.first < min b.stop c.stop

/-- U for a block: the fold of the largest bounds of the blocks that meet its range (R390). -/
def upperBound (n : Nat) (all : List Block) (b : Block) : XVal :=
  (List.range n).foldl (fun u j =>
    let us := (all.filter fun c => c.term == j && b.meets c).map fun c => xmax c.bound (.zero false)
    rnAdd u (us.foldl xmax (.zero false))) (.zero false)

/-- What the blocks of a query come to: the postings, the counts, or a status with the counts reached. -/
structure Decoded where
  posts : List Posting
  tally : Tally
  z     : Bool
  s     : State

/-- Whether a block is skipped (R390): K documents below its FIRST are ranked, and U is below the score of the K-th. -/
def skips (x : EngCtx) (r : Row) (ts : List Term) (all : List Block) (b : Block) (a : Decoded) : Except PleStop (Bool × Bool × State) := do
  let ps := a.posts.filter fun p => p.doc < b.first
  let (ls, z, s) ← lexAll x r ts ps (matching r ps) a.s
  match (ranked ls)[lineK r - 1]? with
  | some e => return (xlt (upperBound (lineNt r) all b) e.2, z, s)
  | none => return (false, z, s)

/-- The blocks of a command taken in the order of R385. -/
def takeBlocks (x : EngCtx) (r : Row) (skip : Bool) (ts : List Term) (all : List Block) :
    List Block → Decoded → Except (PleStop × Decoded) Decoded
  | [], a => .ok a
  | b :: bs, a =>
    match if skip then skips x r ts all b a else .ok (false, false, a.s) with
    | .error st => .error (st, a)
    | .ok (true, z, s) =>
      takeBlocks x r skip ts all bs { a with tally := { a.tally with skipped := a.tally.skipped + 1 }, z := a.z || z, s }
    | .ok (false, z, s) =>
      let a := { a with z := a.z || z, s }
      let drop := { a.tally with dropped := a.tally.dropped + 1 }
      if !b.headOk then takeBlocks x r skip ts all bs { a with tally := drop }
      else
        match pleRead x (b.list + 16 * b.poff) b.bytes a.s with
        | .error st => .error (st, a)
        | .ok (bytes, z, s) =>
          let a := { a with z := a.z || z, s }
          match b.decode (natOfBytes bytes) with
          | none => takeBlocks x r skip ts all bs { a with tally := drop }
          | some ps =>
            takeBlocks x r skip ts all bs
              { a with posts := a.posts ++ ps, tally := { a.tally with decoded := a.tally.decoded + 1 } }

/-! Fusion and ranking (R387 to R389). -/

/-- The lines of the vector candidates. -/
def candLines (r : Row) : List Nat := (List.range ((lineNv r + 15) / 16)).map fun i => lineCand r + 128 * i

/-- The vector candidates: of each document the pair of lowest index, in pair order. -/
def candidates (r : Row) (q : Cluster) : List (Nat × XVal) :=
  let pair := fun (p : Nat) =>
    let a := lineCand r + 128 * (p / 16) + 8 * (p % 16)
    let n := natOfBytes ((List.range 8).map fun i => q.spByte (a + i))
    (n % 2 ^ 32, fp32.value (n / 2 ^ 32))
  (((List.range (lineNv r)).map pair).filter fun e => e.1 != 0xFFFFFFFF).foldl
    (fun acc e => if acc.any fun f => f.1 == e.1 then acc else acc ++ [e]) []

/-- The part that a rank in a list adds to an RRF score. -/
def rankPart (r : Row) (rank : List (Nat × XVal)) (d : Nat) (s : XVal) : XVal :=
  match rank.findIdx? fun e => e.1 == d with
  | some i => rnAdd s (rnDiv (.fin false 1 0) (rnAdd (lineF32 r 64) (XVal.ofInt (i + 1))))
  | none => s

/-- The final score of a candidate (R388). -/
def finalScore (r : Row) (lex cand lrank vrank : List (Nat × XVal)) (d : Nat) : XVal :=
  let get := fun (l : List (Nat × XVal)) => ((l.find? fun e => e.1 == d).map (·.2)).getD (.zero false)
  match lineFusion r with
  | 0 => get lex
  | 1 => rnAdd (rnMul (lineF32 r 56) (get lex)) (rnMul (lineF32 r 60) (get cand))
  | _ => rankPart r vrank d (rankPart r lrank d (.zero false))

/-- The candidate set with its final scores. -/
def finals (r : Row) (lex cand : List (Nat × XVal)) : List (Nat × XVal) :=
  let docs := lex.map (·.1) ++ (if lineFusion r == 0 then [] else (cand.map (·.1)).filter fun d => !lex.any fun e => e.1 == d)
  let lrank := ranked lex
  let vrank := ranked cand
  docs.map fun d => (d, finalScore r lex cand lrank vrank d)

/-- The bytes of the K result entries (R389). -/
def entryBytes (k : Nat) (top : List (Nat × XVal)) : List Byte :=
  (List.range k).flatMap fun i =>
    match top[i]? with
    | some e => bytesOf 4 (BitVec.ofNat 32 e.1) ++ bytesOf 4 (BitVec.ofNat 32 (encodeExact fp32 e.2))
    | none => bytesOf 4 (BitVec.ofNat 32 0xFFFFFFFF) ++ bytesOf 4 (BitVec.ofNat 32 0x7FC00000)

/-! Commands. -/

/-- What a command comes to: it waits, or it ends. -/
inductive PleEnd where
  | waits (s : State) | ends (s : State) (status : Nat) (zeroed : Bool) (t : Tally)

/-- What a stop of a command's reads comes to: a status with the counts reached, or a wait for the walk, after which the
command reads afresh. -/
def PleStop.comes (x : EngCtx) (before s : State) (zeroed : Bool) (t : Tally) : PleStop → PleEnd
  | .fails st => .ends s st zeroed t
  | .walks d => .waits (before.setDie x.die d)

/-- A query run on its slot (R385 to R392). DEDUCED, log 35. -/
def runQuery (m : Nat) (p : Push) (s : State) : PleEnd :=
  let r := p.line
  let x := pleCtx s m p
  let cl := coreCluster p.core
  let outs := (pageVas (lineRes r) (8 * lineK r)).map (fun v => (true, v))
    ++ (if lineRec r == 0 then [] else [(true, lineRec r)])
  match x.prepare outs s with
  | .waits s => .waits s
  | .fails s st => .ends s st false {}
  | .ready s₀ =>
    let s := s₀
    let lines := if lineFusion r == 0 then [] else candLines r
    if lines.any fun a => !spOk a 128 128 then .ends s stRange false {}
    else if lineWaitf r && lines.any fun a => (s.cluster cl).full.read (lineKey a) == 0 then .waits s
    else
      let (zc, s) := x.meetLines cl (lines.map lineKey) s
      let cand := if lineFusion r == 0 then [] else candidates r (s.cluster cl)
      match pleRead x (lineTerms r) (32 * lineNt r) s with
      | .error st => st.comes x s₀ s zc {}
      | .ok (bs, zt, s) =>
        let z := zc || zt
        match termsOf bs (lineNt r) with
        | none => .ends s stField z {}
        | some ts =>
          match readLists x (numbered 0 ts) s with
          | .error st => st.comes x s₀ s z {}
          | .ok (all, z', s) =>
            match takeBlocks x r (lineSkip r) ts all (dealt all) ⟨[], {}, z || z', s⟩ with
            | .error (st, a) => st.comes x s₀ a.s a.z a.tally
            | .ok a =>
              match lexAll x r ts a.posts (matching r a.posts) a.s with
              | .error st => st.comes x s₀ a.s a.z a.tally
              | .ok (lex, z, s) =>
                let fs := finals r lex cand
                let top := (ranked fs).take (lineK r)
                let t := { a.tally with
                  cands := fs.length, nres := top.length, nans := (fs.filter fun e => e.2.isNan).length
                  kth := (top.getLast?.map fun e => encodeExact fp32 e.2).getD 0x7FC00000 }
                .ends (x.write (lineRes r) (entryBytes (lineK r) top) s) stDone (a.z || z) t

/-- A CHECK run on its slot (R394). DEDUCED, log 35. -/
def runCheck (m : Nat) (p : Push) (s : State) : PleEnd :=
  let r := p.line
  let x := pleCtx s m p
  match x.prepare (if lineRec r == 0 then [] else [(true, lineRec r)]) s with
  | .waits s => .waits s
  | .fails s st => .ends s st false {}
  | .ready s₀ =>
    let s := s₀
    match pleRead x (lineTerms r) (32 * lineNt r) s with
    | .error st => st.comes x s₀ s false {}
    | .ok (bs, z, s) =>
      match termsOf bs (lineNt r) with
      | none => .ends s stField z {}
      | some ts =>
        match readLists x (numbered 0 ts) s with
        | .error st => st.comes x s₀ s z {}
        | .ok (all, z', s) =>
          match takeBlocks x r false ts all (dealt all) ⟨[], {}, z || z', s⟩ with
          | .error (st, a) => st.comes x s₀ a.s a.z a.tally
          | .ok a => .ends a.s stDone a.z a.tally

/-- A started command of a posting-list engine: what it comes to. Of several rules broken, the kind's comes first.
DESIGN CHOICE, log 59. -/
def pleRun (m : Nat) (p : Push) (s : State) : PleEnd :=
  let r := p.line
  let f := coreDie p.core
  if p.kind != 0x30 && p.kind != 0x31 then .ends s stKind false {}
  else if 8 ≤ lineFl r || (lineSig r && !sclOk s (partKey p.lid f) f r) || s.slotsOf m p.lid ≤ lineSlot r then
    .ends s stField false {}
  else if p.kind == 0x31 then (if checkOk r then runCheck m p s else .ends s stField false {})
  else if queryOk r then runQuery m p s else .ends s stField false {}

/-- Whether two commands are for one slot of one launch. -/
def sameSlot (p q : Push) : Bool := p.lid == q.lid && lineSlot p.line == lineSlot q.line

/-- Whether an entry may start (R317, R380, R381). DEDUCED, log 35. -/
def pleMayStart (s : State) (m i : Nat) (p : Push) : Bool :=
  let q := s.engq (pleQueue m)
  q.running.length < 16 && !(q.running.any fun r => sameSlot r.push p) && !((q.entries.take i).any (sameSlot p))
    && !(lineOrd p.line && (i != 0 || q.running.any fun r => r.push.no < p.no))

/-- A command, running at a place, gone on with; one that waits stays there. -/
def pleGo (m n : Nat) (r : Run) (s : State) : State :=
  match pleRun m r.push s with
  | .waits s => s
  | .ends s st z tally => pleEnd m n r.push st z tally s

/-- A running command of some kinds gone on with; past the running ones, an entry of those kinds started (R380, R381). -/
def pleStep (kinds : Nat → Bool) (m i : Nat) (s : State) : State :=
  let t := pleQueue m
  let q := s.engq t
  match q.running[i]? with
  | some r => if kinds r.push.kind then pleGo m i r s else s
  | none =>
    let j := i - q.running.length
    match q.entries[j]? with
    | none => s
    | some p =>
      if kinds p.kind && pleMayStart s m j p then
        let s := s.setEngq t { q with entries := removeAt q.entries j, running := q.running ++ [{ push := p }] }
        pleGo m q.running.length { push := p } s
      else s

/-! The meanings. -/

/-- QUERY (R392), and a command of a kind that the engine does not accept. -/
def execQuery (die idx : Nat) (s : State) : Host.Outcome State Fault Refusal := .next (pleStep (· != 0x31) die idx s)
/-- CHECK (R394). -/
def execCheck (die idx : Nat) (s : State) : Host.Outcome State Fault Refusal := .next (pleStep (· == 0x31) die idx s)

end Sys2Proof.Machine
end

