-- ==== Sys2Proof/Machine/Phys.lean ====
section
/-! DEFINITION. Links and their ports (R22, R23, R445 to R447), change windows (R423), time (R444), start-up (R448), scrubbing
(R451), power (R452, R453). -/

namespace Sys2Proof.Machine

/-! Ports. -/

/-- The way in which a port's link leads along its axis; none for the external port of a closed axis (R19). -/
def State.portWay (s : State) (f i : Nat) : Option Bool :=
  let a := i % 3
  let open' := axisOpen (s.pkg (diePkg f)).topo a
  if 3 ≤ i then (if open' then some (localCoord f a == 1) else none)
  else some (if open' then localCoord f a == 0 else true)

/-- The die at the far end of a port's link. -/
def State.farEnd (s : State) (f i : Nat) : Option Nat := (s.portWay f i).map fun w => s.neighbour f (i % 3) w

/-- A port's LINKS field (R22). -/
def LinkPort.field (p : LinkPort) : Nat := p.state + 4 * p.width

/-- A port replaced; where its LINKS field changes session 0 is told (R441). -/
def State.changePort (s : State) (f i : Nat) (p : LinkPort) : State :=
  let t := s.setPort f i p
  if p.field == (s.port f i).field then t else t.notify (diePkg f) ⟨4, f % 8, i, p.field⟩

/-- One end of a link that has dropped: an UP port reads DOWN and is counted (R22, R23). DESIGN CHOICE, log 53. -/
def dropEnd (s : State) (f i : Nat) : State :=
  let p := s.port f i
  if p.state == 1 then
    let d := s.die f
    let s := s.setDie f { d with downs := if d.downs == 255 then 255 else d.downs + 1 }
    s.changePort f i { p.fresh with state := 0 }
  else s

/-- A link that started collectives use no more: a link that comes UP again is left to later ones (R370). Faces that were crossing it
are whole at the die they were leaving, and go on from there (R341). -/
def State.loseLink (s : State) (f g : Nat) : State :=
  let hit := fun (k : Carry) => k.across && k.path.head?.any fun e => linkName k.at' e == linkName f g
  { s with
    colls := s.colls.map fun c => { c with live := c.live.filter fun e => e != linkName f g }
    berms := s.berms.map fun m => if hit m.carry then { m with carry := m.carry.rest } else m }

/-- LINK_DOWN (R23, R369, R375): both ends of a link read DOWN; the generation advances; a RESHARD whose routes used the link is
aborted, and other collectives lose it. DESIGN CHOICE, log 7. DEDUCED, log 36. Both ends change in one step. DESIGN CHOICE,
log 53. -/
def linkDown (f i : Nat) (s : State) : State :=
  match s.farEnd f i with
  | none => s
  | some g =>
    if (s.port f i).state == 1 || (s.port g i).state == 1 then
      let s := (dropEnd (dropEnd s f i) g i).loseLink f g
      reshardLinks { s with lgen := s.lgen + 1 }
    else s

/-- A port as it comes UP: an external one of which either end is in an emergency at two lanes, and the width held where it is its own
die's (R453). -/
def upPort (s : State) (i : Nat) (narrow : Bool) (f : Nat) : LinkPort :=
  let p := { (s.port f i).fresh with state := 1 }
  if 3 ≤ i && narrow then
    { p with width := 2, held := if (s.die f).emerg then p.held <|> some p.width else p.held }
  else p

/-- Both ends of a link come UP, their retry protocol fresh, and the generation advances (R369). DEDUCED, log 36. -/
def linkUp (f g i : Nat) (s : State) : State :=
  let narrow := (s.die f).emerg || (s.die g).emerg
  let pf := upPort s i narrow f
  let pg := upPort s i narrow g
  let s := s.changePort f i pf
  let s := if g == f then s else s.changePort g i pg
  { s with lgen := s.lgen + 1 }

/-- Whether the far package reports the HOMEG and the coordinates that a port's training needs (R447). -/
def State.agrees (s : State) (f g : Nat) : Bool :=
  let p := s.pkg (diePkg f)
  let q := s.pkg (diePkg g)
  p.homeg == q.homeg && (List.range 3).all (fun a => (q.topo.extractLsb' (3 + 3 * a) 3).toNat == diePkg g / 8 ^ a % 8)

/-- The ticks that a port trains before it reads DOWN: 20 ms (R447). -/
def trainTicks : Nat := 32000000

/-- The port that a training names: external ones 0 to 2 by axis, interposer ones 3 to 5. -/
def trainPort (a : Nat) : Nat := if a < 3 then 3 + a else a % 3

/-- Whether an external port is left DOWN: the start of its package has skipped step 4 (R448). -/
def State.leftDown (s : State) (f i : Nat) : Bool := 3 ≤ i && (s.pkg (diePkg f)).bmode.getD 4 0 == 2

/-- LINK_TRAINING (R447): on a closed axis an external port reads IDLE. A port in training comes UP where the far one trains and
both ends agree; it reads DOWN once it has trained for 20 ms. A port that is DOWN begins to train. `up` says that a training
succeeds, or begins. DESIGN CHOICE, log 7. DEDUCED, log 36. DESIGN CHOICE, log 3. -/
def linkTraining (f a : Nat) (up : Bool) (s : State) : State :=
  let i := trainPort a
  let p := s.port f i
  if s.leftDown f i then s
  else match s.farEnd f i with
  | none => s.changePort f i { p with state := 3 }
  | some g =>
    if p.state == 2 && p.since + trainTicks ≤ s.ticks (diePkg f) then s.changePort f i { p with state := 0 }
    else if !up then s
    else if p.state == 0 then s.changePort f i { p with state := 2, since := s.ticks (diePkg f) }
    else if p.state == 2 && (s.port g i).state == 2 && s.agrees f g && s.agrees g f then linkUp f g i s
    else s

/-! Widths, clocks, windows (R423, R452, R453). -/

/-- A request added. -/
def State.ask (s : State) (f : Nat) (r : ChangeReq) : State :=
  s.setDie f { s.die f with reqs := (s.die f).reqs ++ [r] }

/-- The width that a port has once the requests for it are applied. -/
def State.widthAsked (s : State) (f i : Nat) : Nat :=
  (((s.die f).reqs.filter fun r => r.port == some i).map (·.value)).foldl max (s.port f i).width

/-- An external port that has failed halves its width, as a request; at two lanes it goes DOWN (R446). Each failure halves what
the one before it left. DEDUCED, log 36. -/
def halvePort (f i : Nat) (s : State) : State :=
  if (s.port f i).state != 1 then s
  else if 2 ≤ s.widthAsked f i then linkDown f i s
  else s.ask f ⟨some i, s.widthAsked f i + 1, s.window f⟩

/-- LANE_FAILURE (R446). DESIGN CHOICE, log 7. -/
def laneFailure (f a : Nat) (s : State) : State := halvePort f (3 + a % 3) s

/-- A request cancelled: its die's session 0 is told (R423, R441). -/
def cancelReq (f : Nat) (s : State) (r : ChangeReq) : State :=
  s.notify (diePkg f) ⟨5, f % 8, r.port.getD 0, if r.port.isSome then 1 else 2⟩

/-- Requests of a die that a test picks, cancelled. DEDUCED, log 36. -/
def cancelReqs (f : Nat) (pick : ChangeReq → Bool) (s : State) : State :=
  let rs := (s.die f).reqs
  (rs.filter pick).foldl (cancelReq f) (s.setDie f { s.die f with reqs := rs.filter fun r => !pick r })

/-- A width set at both ends of an external link. -/
def setWidth (f i w : Nat) (s : State) : State :=
  match s.farEnd f i with
  | none => s
  | some g =>
    let s := s.changePort f i { s.port f i with width := w }
    if g == f then s else s.changePort g i { s.port g i with width := w }

/-- The requests of a die that belong to one of its links: its clock, and the width of the link's port. -/
def linkReq (i now : Nat) (r : ChangeReq) : Bool := r.window < now && (r.port.isNone || r.port == some i)

/-- The clock requests of a die that a link's controller applies. -/
def applyClocks (i : Nat) (s : State) (f : Nat) : State :=
  let d := s.die f
  let now := s.window f
  match ((d.reqs.filter fun r => linkReq i now r && r.port.isNone).map (·.value)).getLast? with
  | none => s
  | some v =>
    s.setDie f { d with
      code := BitVec.ofNat 4 v, reqs := d.reqs.filter fun r => !(linkReq i now r && r.port.isNone) }

/-- The width requests of one end of a link that its controller applies. -/
def applyWidths (i : Nat) (s : State) (f : Nat) : State :=
  let d := s.die f
  let now := s.window f
  match ((d.reqs.filter fun r => linkReq i now r && r.port.isSome).map (·.value)).getLast? with
  | none => s
  | some w => setWidth f i w (s.setDie f { d with reqs := d.reqs.filter fun r => !(linkReq i now r && r.port.isSome) })

/-- CHANGE_WINDOW (R423): the die with the lower F on the link of a port, interposer ones 0 to 2 by axis and external ones 3 to 5,
applies the requests of the windows that have ended: clocks first, then widths; an emergency at either end cancels them.
DEDUCED, log 36. -/
def changeWindow (f a : Nat) (s : State) : State :=
  let i := a % 6
  match s.farEnd f i with
  | none => s
  | some g =>
    let lo := min f g
    let ends := nubNat [lo, max f g]
    if lo != f then s
    else if ends.any fun e => (s.die e).emerg then ends.foldl (fun s e => cancelReqs e (linkReq i (s.window e)) s) s
    else ends.foldl (applyWidths i) (ends.foldl (applyClocks i) s)

/-- A die at 105 °C: its clock forced, its external ports at two lanes at once, requests that meet the emergency cancelled.
DEDUCED, log 36. -/
def enterEmergency (f : Nat) (s : State) : State :=
  let ws := [3, 4, 5].map (s.widthAsked f)
  let s := cancelReqs f (fun _ => true) s
  let s := (List.range 6).foldl (fun s i =>
    match s.farEnd f i with
    | some g => if g == f then s else cancelReqs g (fun r => r.port.isNone || r.port == some i) s
    | none => s) s
  let s := [3, 4, 5].foldl (fun s i =>
    let p := s.port f i
    let w := ws.getD (i - 3) 0
    if p.state == 1 then setWidth f i 2 (s.setPort f i { p with held := some w }) else s) s
  (s.setDie f { s.die f with emerg := true, cool := none, code := 0 }).notify (diePkg f) ⟨6, f % 8, 1, 0⟩

/-- THERMAL_EMERGENCY (R452, R453): a junction temperature, in tenths of a degree; at 105 °C an emergency.
DESIGN CHOICE, log 7. -/
def thermalEmergency (f : Nat) (temp : BitVec 12) (s : State) : State :=
  let d := s.die f
  let s := s.setDie f { d with
    temp, cool := if d.emerg && temp.toNat < 950 then d.cool <|> some (s.ticks (diePkg f)) else none }
  if 1050 ≤ temp.toNat && !d.emerg then enterEmergency f s else s

/-- EMERGENCY_EXIT (R453): after 10 ms below 95 °C the clock and the widths held before are asked for. DEDUCED, log 36.
DESIGN CHOICE, log 3. -/
def emergencyExit (f : Nat) (s : State) : State :=
  let d := s.die f
  match d.cool with
  | some t =>
    if d.emerg && t + 16000000 ≤ s.ticks (diePkg f) then
      let w := s.window f
      let s := s.setDie f { d with emerg := false, cool := none }
      let s := s.ask f ⟨none, d.asked.toNat, w⟩
      let s := [3, 4, 5].foldl (fun s i =>
        let p := s.port f i
        let s := s.setPort f i { p with held := none }
        match p.held with
        | some v => if v != p.width then s.ask f ⟨some i, v, w⟩ else s
        | none => s) s
      s.notify (diePkg f) ⟨6, f % 8, 0, 0⟩
    else s
  | none => s

/-! Flits (R445, R446). -/

/-- A flit taken off the way at the far end of a port's link, if it comes from there. -/
def takeWire (f i : Nat) (x : Flit) (s : State) : State :=
  match s.farEnd f i with
  | some g =>
    match (s.port g i).wire with
    | y :: ys => if y == x then s.setPort g i { s.port g i with wire := ys } else s
    | [] => s
  | none => s

/-- The far end of a port's link sends its replay buffer again (R23, R446). DESIGN CHOICE, log 54. -/
def replayFrom (f i : Nat) (s : State) : State :=
  match s.farEnd f i with
  | some g => s.setPort g i { s.port g i with wire := (s.port g i).out }
  | none => s

/-- A port's replay buffer without the flits that an acknowledgement covers. -/
def LinkPort.acknowledge (p : LinkPort) (ack : BitVec 12) : LinkPort :=
  { p with acked := ack, out := p.out.filter fun x => 2048 ≤ (ack - x.seq).toNat }

/-- A flit that comes in order: delivered, with its acknowledgement; a data flit is acknowledged by an idle one (R446).
DESIGN CHOICE, log 54. -/
def flitDeliver (die i : Nat) (f : Flit) (s : State) : State :=
  let p := (s.port die i).acknowledge f.ack
  let s := s.setPort die i { p with
    next := p.next + 1, drop := false, fails := 0
    rx := if f.kind == 1 then p.rx ++ [(f.seq, f.vc, f.body)] else p.rx }
  if f.kind == 1 && p.out.length < replayRoom then sendFlit die i 0 0 s else s

/-- A flit dropped, and every later one until the replay, which the first drop calls for; the sixteenth failure in a row of one SEQ
halves the port (R446). A flit delivered before calls for none. -/
def flitDrop (die i : Nat) (f : Flit) (s : State) : State :=
  let p := s.port die i
  if flitOk f then
    if 2048 ≤ (f.seq - p.next).toNat || p.drop then s else replayFrom die i (s.setPort die i { p with drop := true })
  else
    let n := if f.seq == p.next then p.fails + 1 else p.fails
    let s := replayFrom die i (s.setPort die i { p with drop := true, fails := if n == 16 then 0 else n })
    if n == 16 then halvePort die i s else s

/-- FLIT_RECEIVE (R446): a flit in order is delivered; a bad one and every later one are dropped until the replay.
DESIGN CHOICE, log 7. -/
def flitReceive (die a : Nat) (f : Flit) (s : State) : State :=
  let i := 3 + a % 3
  if (s.port die i).state != 1 then s
  else
    let s := takeWire die i f s
    if flitOk f && f.seq == (s.port die i).next then flitDeliver die i f s else flitDrop die i f s

/-! Time (R111, R444). -/

/-- PTP_MESSAGE (R444): TSTAT takes the offset and the port; the servo skips or doubles one increment of TBASE, at most one in
1,024 ticks. DESIGN CHOICE, log 7. DEDUCED, log 37. -/
def ptpMessage (p port : Nat) (offset : BitVec 32) (adjust : Bool) (s : State) : State :=
  let k := { s.pkg p with offset, mport := port % 2 == 1, locked := offset.toInt.natAbs ≤ 80 }
  if adjust && offset != 0 && k.lastAdj + 1024 ≤ s.now + 1 then
    { s.setPkg p { k with
        lastAdj := s.now + 1, toff := if offset.toInt < 0 then k.toff + 1 else k.toff - 1 } with now := s.now + 1 }
  else s.setPkg p k

/-- PTP_MASTER_LOSS (R444). DESIGN CHOICE, log 7. -/
def ptpMasterLoss (p : Nat) (s : State) : State := s.setPkg p { s.pkg p with locked := false }

/-! Start-up (R448). -/

/-- The failed runs of a step at the end of the boot record, latest first. -/
def failedRuns : List Nat → Nat
  | 2 :: 0 :: rest => 1 + failedRuns rest
  | 0 :: rest => 1 + failedRuns rest
  | _ => 0

/-- How a step runs: 0 normal, 1 alternate, 2 skipped. DEDUCED, log 37. -/
def stepForm (flash : List BootEntry) (n : Nat) : Nat :=
  let fails := failedRuns (((flash.filter fun e => e.step == n).map (·.event)).reverse)
  if n == 4 || n == 5 then (if fails == 0 then 0 else 2) else fails % 2

/-- MEAS with a digest taken in. DESIGN CHOICE, log 28. -/
def measure (m d : BitVec 256) : BitVec 256 := Config.sm3 (m.toNat + 2 ^ 256 * d.toNat) 64

/-- The interposer links of a package come UP. -/
def trainInner (p : Nat) (s : State) : State :=
  (List.range 8).foldl (fun s d => (List.range 3).foldl (fun s i =>
    let f := p * 8 + d
    match s.farEnd f i with
    | some g => if f < g && (s.port f i).state != 1 then linkUp f g i s else s
    | none => s) s) s

/-- The external ports of a package begin to train, or read IDLE on a closed axis (R447). DESIGN CHOICE, log 26. -/
def trainOuter (p : Nat) (s : State) : State :=
  (List.range 8).foldl (fun s d => [3, 4, 5].foldl (fun s i =>
    let f := p * 8 + d
    let q := s.port f i
    s.changePort f i (if (s.farEnd f i).isNone then { q with state := 3 } else if q.state == 1 then q
      else { q with state := 2, width := 0, since := s.ticks p })) s) s

/-- TOPO as a start sets it (R19 to R21): an axis of extent 1 is closed, the coordinates are the package's own, and a closed
brick reads zero. DEDUCED, log 37. -/
def bootTopo (p : Nat) (t : BitVec 21) : BitVec 21 :=
  let ext := fun (a : Nat) => (t.extractLsb' (12 + 3 * a) 3).toNat
  let open' := ((List.range 3).filter fun a => t.getLsbD a && ext a != 0).foldl (fun v a => v + 2 ^ a) 0
  if open' == 0 then 0
  else BitVec.ofNat 21 (open' + p % 512 * 2 ^ 3 + ((List.range 3).foldl (fun v a => v + ext a * 2 ^ (12 + 3 * a)) 0))

/-- What a step does: the ROM sets the brick mode (R19); memory training writes HBM_SPLIT (R26), after which the frames are free; PTP
lock sets TBASE forward to the master's time, and TSTAT shows what it leaves (R444).
DEDUCED, log 37. DESIGN CHOICE, log 8. DESIGN CHOICE, log 52. -/
def stepWork (p n : Nat) (digest : BitVec 256) (v : BootVals) (s : State) : State :=
  let k := s.pkg p
  match n with
  | 0 => s.setPkg p { k with topo := bootTopo p v.topo }
  | 1 => s.setPkg p { k with meas := measure k.meas digest }
  | 2 =>
    let s := hbmSplitWrite p v.split s
    s.setPkg p { s.pkg p with frames := v.frames.map fun f => ⟨f.1, f.2⟩ }
  | 3 => trainInner p (s.setPkg p { k with skew := (List.range 8).foldl (fun t d => t.write d (Config.skew p d)) k.skew })
  | 4 => trainOuter p s
  | 5 =>
    let ahead := s.ticks p - v.time.toNat
    s.setPkg p { k with
      toff := if s.ticks p < v.time.toNat then v.time - BitVec.ofNat 64 s.now else k.toff
      offset := BitVec.ofNat 32 (min (2 ^ 31 - 1) ahead), locked := ahead ≤ 80, mport := v.port }
  | 6 => s.setPkg p { k with up := true }
  | _ => s

/-- A package as a start finds it: its flash stays, and until the start sets it its place in the fabric; TBASE begins at 0.
DEDUCED, log 37. -/
def freshPkg (k : Pkg) (now : Nat) : Pkg := { topo := k.topo, flash := k.flash, toff := 0 - BitVec.ofNat 64 now }

/-- The links of a package's dies gone DOWN at both ends, and the collectives of which it holds a member ended (R23, R370). -/
def cutOff (p : Nat) (s : State) : State :=
  let s := (List.range 8).foldl (fun s d => (List.range 6).foldl (fun s i => linkDown (p * 8 + d) i s) s) s
  (numbered 0 s.colls).reverse.foldl (fun s e =>
    if e.2.dies.any fun f => diePkg f == p then endColl e.1 stLink s else s) s

/-- Whether an engine queue is one of a package. -/
def queueOn (p t : Nat) : Bool :=
  if t < 20000000 then t % 10000000 / 48 == p else t % 10000000 / 8 == p

/-- A package as the next start finds it: everything of it but its memory, its flash and its place in the fabric is as at reset; what
it held of the fabric's traffic is lost (R448). DEDUCED, log 37. -/
def restart (p : Nat) (s : State) : State :=
  let s := cutOff p s
  let off := fun (n : Nat) => diePkg n != p
  let s := { s with
    cores := s.cores.filter fun c => c.1 / 384 != p
    clusters := s.clusters.filter fun q => q.1 / 48 != p
    dies := s.dies.filter fun d => off d.1
    mdies := s.mdies.filter fun d => off d.1
    queues := s.queues.filter fun q => queuePkg q.1 != p
    launches := s.launches.filter fun l => launchPkg l.1 != p
    engqs := s.engqs.filter fun q => !queueOn p q.1
    berms := s.berms.filter fun m => off m.src && off m.dst && off m.carry.at'
    packets := s.packets.filter fun m => off m.frm && off m.peer }
  s.setPkg p (freshPkg (s.pkg p) s.now)

/-- BOOT (R448): the next step of a start runs, in the form that the boot record calls for, or is skipped; a failed step ends
the start, and the next one begins at step 0. A start that breaks off within a step leaves that step's START alone; a new start may
begin at any time. DESIGN CHOICE, log 7. DEDUCED, log 37. -/
def boot (p : Nat) (digest : BitVec 256) (ok : Bool) (v : BootVals) (s : State) : State :=
  let k := s.pkg p
  if v.again then restart p s
  else if k.up then s
  else
    let n := k.bstep
    let form := stepForm k.flash n
    if form == 2 then s.setPkg p { k with bmode := k.bmode ++ [2], bstep := n + 1 }
    else
      let start : BootEntry := ⟨n, 0, digest⟩
      let done : BootEntry := ⟨n, if ok then 1 else 2, digest⟩
      if v.lost then restart p (s.setPkg p { k with flash := k.flash ++ [start] })
      else
        let k := { k with flash := k.flash ++ [start, done] }
        if ok then stepWork p n digest v (s.setPkg p { k with bmode := k.bmode ++ [form], bstep := n + 1 })
        else restart p (s.setPkg p k)

/-! Scrubbing (R451). -/

/-- SCRUB (R451): the granule at a physical address of a memory die is looked at. DESIGN CHOICE, log 7. DESIGN CHOICE, log 42. -/
def scrub (m pa : Nat) (s : State) : State := if s.homeDie (pa / 256 * 256) == m then meetGranule s (pa / 256) else s

/-! The meanings. -/

/-- FLIT_RECEIVE (R446). -/
def execFlitReceive (die axis : Nat) (f : Flit) (s : State) : Host.Outcome State Fault Refusal := .next (flitReceive die axis f s)
/-- LINK_TRAINING (R447). -/
def execLinkTraining (die axis : Nat) (up : Bool) (s : State) : Host.Outcome State Fault Refusal :=
  .next (linkTraining die axis up s)
/-- LINK_DOWN (R23). -/
def execLinkDown (die port : Nat) (s : State) : Host.Outcome State Fault Refusal := .next (linkDown die port s)
/-- CHANGE_WINDOW (R423). -/
def execChangeWindow (die axis : Nat) (s : State) : Host.Outcome State Fault Refusal := .next (changeWindow die axis s)
/-- PTP_MESSAGE (R444). -/
def execPtpMessage (pkg port : Nat) (offset : BitVec 32) (adjust : Bool) (s : State) : Host.Outcome State Fault Refusal :=
  .next (ptpMessage pkg port offset adjust s)
/-- PTP_MASTER_LOSS (R444). -/
def execPtpMasterLoss (pkg : Nat) (s : State) : Host.Outcome State Fault Refusal := .next (ptpMasterLoss pkg s)
/-- THERMAL_EMERGENCY (R453). -/
def execThermalEmergency (die : Nat) (temp : BitVec 12) (s : State) : Host.Outcome State Fault Refusal :=
  .next (thermalEmergency die temp s)
/-- EMERGENCY_EXIT (R453). -/
def execEmergencyExit (die : Nat) (s : State) : Host.Outcome State Fault Refusal := .next (emergencyExit die s)
/-- BOOT (R448). -/
def execBoot (pkg : Nat) (digest : BitVec 256) (ok : Bool) (v : BootVals) (s : State) : Host.Outcome State Fault Refusal :=
  .next (boot pkg digest ok v s)
/-- SCRUB (R451). -/
def execScrub (die pa : Nat) (s : State) : Host.Outcome State Fault Refusal := .next (scrub die pa s)
/-- LANE_FAILURE (R446). -/
def execLaneFailure (die axis : Nat) (s : State) : Host.Outcome State Fault Refusal := .next (laneFailure die axis s)

end Sys2Proof.Machine
end

