-- ==== Sys2Proof/Machine/Next.lean ====
section
/-! DEFINITION. Which steps may come next: for every agent that has been touched, the steps it could take now. The machine
takes one of them at a time, in turn; a step whose conditions do not hold changes nothing. -/

namespace Sys2Proof.Machine

/-- The words of an instruction scratchpad from a PC on: as many as a bundle can have (R28). -/
def Core.wordsAt (k : Core) : List W64 := k.ispm.readRun k.pc.toNat 8

/-- What a placed core issues next: the operation of a plain bundle of one word, or a bundle. -/
def coreIssue (s : State) (c : Nat) : Instr :=
  let k := s.core c
  if k.regs.held.isEmpty then (decodeBundle c k.wordsAt).getD (.bundleIssue c) else .bundleIssue c

/-- A step for each position of a list. -/
def forEach {α : Type} (l : List α) (f : Nat → α → Instr) : List Instr := (numbered 0 l).map fun e => f e.1 e.2

/-- The step at which a result lands. -/
def landInstr (c i : Nat) (l : Landing) : Instr :=
  match l.kind with
  | .scalar _ => .scalarResultLand c i
  | .row _ => .rowResultLand c i
  | .load => .scratchpadLoadLand c i
  | .atomic _ => .atomicReturn c i
  | .sample => .sampleLand c i

/-- The step at which a committed effect reaches its place. -/
def outInstr (c i : Nat) (o : OutEnt) : Instr :=
  match o.eff with
  | .sp _ _ | .spclr _ _ => .storeReachesBank c i
  | _ => .storeReachesPointOfCoherence c i

/-- The steps of a core beside its issue. -/
def coreSteps (c : Nat) (k : Core) : List Instr :=
  forEach k.land (landInstr c) ++ forEach k.loads (fun i _ => .globalLoadReturn c i) ++ forEach k.outq (outInstr c)
    ++ forEach k.mout (fun i _ => .mOutputLand c i) ++ forEach k.sends (fun i _ => .sendArrival c i)
    ++ (if k.mma.isSome then [.mmaRetire c] else []) ++ (if k.ovls.isEmpty then [] else [.ovlEnd c])
    ++ (if k.sat.isEmpty then [] else [.satSignalApply c]) ++ (if k.waking.isEmpty then [] else [.bankWake c])
    ++ ((k.regs.ports.filter fun p => !p.2.wait.isEmpty).map fun p => .portResultReady c p.1)
    ++ (if k.run == .ended then [.coreHalt c] else [])
    ++ (if k.run == .trapped && k.trap.code == Trap.cowWrite.code then [.cowResolve c] else [])
    ++ (if k.run == .trapped && (k.trap.code == Trap.handleRevoked.code || k.trap.ans == 1) then [.trapResume c]
      else if k.run == .trapped && k.trap.ans == 2 then [.trapSkip c] else [])

/-- The step of a queue: that of its word in progress, or of the one it would begin. -/
def queueInstr (s : State) (q : Nat) : Instr :=
  let k := (beginWord q s).queue q
  if k.ctlDone && !k.word.isEmpty then .dieSlot q
  else
    match k.ctrl.opc with
    | 0x01 => .launch q | 0x02 => .waitsem q | 0x03 => .sigsem q | 0x04 => .sigcl q | 0x05 => .waittime q
    | 0x06 => .preempt q | 0x07 => .snap q | 0x08 => .inval q | 0x09 => .kill q | 0x0A => .fence q | 0x0B => .stamp q
    | _ => .pumphouseNop q

/-- The steps of a launch. -/
def launchSteps (l : Nat) : List Instr :=
  [.barrierRelease true l, .launchEnd l, .launchDrain ⟨l, false⟩, .drainTimeout l, .launchResume l, .watchdog l]

/-- The steps of a copy engine: its running commands, queue head and time buffer. -/
def clusterSteps (s : State) (q : Nat) : List Instr :=
  .cpytTimedStart q :: (List.range ((s.engq (copyQueue q)).running.length + 1)).flatMap fun i =>
    [.cpyCommand q i, .cpyfCommand q i, .cpyhCommand q i]

/-- The steps of a compute die's engines: its berm engine's running commands and queue head, the posting of its sluice
engine's commands. -/
def dieSteps (s : State) (d : Nat) : List Instr :=
  ((List.range ((s.engq (bermQueue d)).running.length + 1)).map fun i => .bxchCommand d i)
    ++ ((List.range ((s.engq (sluiceQueue d)).entries.length + (s.engq (sluiceQueue d)).running.length)).map fun i =>
      .collectiveMatch d i)

/-- The steps of a memory die: its posting-list engine's commands, running and waiting. -/
def pleSteps (s : State) (m : Nat) : List Instr :=
  (List.range ((s.engq (pleQueue m)).entries.length + (s.engq (pleQueue m)).running.length)).flatMap fun i =>
    [.query m i, .check m i]

/-- The engine steps of the machine: an engine's steps are listed once something has entered its queue. -/
def engineSteps (s : State) : List Instr :=
  s.engqs.flatMap fun e =>
    if e.1 < 10000000 then []
    else if e.1 < 20000000 then clusterSteps s (e.1 - 10000000)
    else if e.1 < 40000000 then dieSteps s (e.1 % 10000000)
    else pleSteps s (e.1 - 40000000)

/-- The steps of a collective in progress. -/
def collSteps (i : Nat) (c : Coll) : List Instr :=
  [.stagingGrant i, .treeRecovery i, .reshardRow i 0, .reshardCommit i]
    ++ ((List.range (c.rows.length + c.onWay.length)).map fun k => .reshardRow i k)
    ++ c.runs.flatMap fun r => r.at'.map fun m => .chunkFinish i m.die r.chunk

/-- The link controllers that a die's requests wait for (R423): of each of its links, by its dies. -/
def changeSteps (s : State) (d : Nat) : List Instr :=
  (List.range 6).flatMap fun i => (nubNat [d, (s.farEnd d i).getD d]).map fun f => .changeWindow f i

/-- The steps of a die's ports: the flits on their way from its external ones, and the trainings under way. -/
def portSteps (s : State) (d : Nat) (x : Die) : List Instr :=
  (List.range 6).flatMap fun i =>
    let p := x.ports.get {} i
    (match p.wire, s.farEnd d i with
      | f :: _, some g => [.flitReceive g (i - 3) f]
      | _, _ => [])
    ++ (if p.state == 2 then [.linkTraining d ((i + 3) % 6) false] else [])

/-- The steps of a compute die's power controller (R423, R453). -/
def powerSteps (s : State) (d : Nat) (x : Die) : List Instr :=
  (if x.reqs.isEmpty then [] else changeSteps s d) ++ (if x.emerg then [.emergencyExit d] else [])

/-- Every step that may come next but for the issues of cores. -/
def otherSteps (s : State) : List Instr :=
  (s.cores.flatMap fun c => coreSteps c.1 c.2)
    ++ (s.clusters.flatMap fun q => [.barrierRelease false q.1, .cpytTimedStart q.1])
    ++ (s.dies.flatMap fun d => (forEach d.2.walks fun i _ => .walkEnd d.1 i) ++ portSteps s d.1 d.2 ++ powerSteps s d.1 d.2)
    ++ (s.pkgs.flatMap fun p => [.queueMapping p.1, .launchPlacement p.1]
      ++ p.2.vwait.map fun r => .memwr p.1 r)
    ++ ((s.queues.filter fun q => q.2.mapped).map fun q => queueInstr s q.1)
    ++ (s.launches.flatMap fun l => launchSteps l.1)
    ++ engineSteps s
    ++ (forEach s.berms fun i _ => .bermFaceArrival i)
    ++ (numbered 0 s.colls).flatMap (fun e => collSteps e.1 e.2)
    ++ (forEach s.packets fun i _ => .sluicePacket i)

/-- Every step that may come next, with the core it is a step of where it is a slot operation. DESIGN CHOICE, log 2. -/
def nextSteps (s : State) : List (Nat × Instr) :=
  ((s.cores.filter fun c => c.2.run == .placed).map fun c => (c.1, coreIssue s c.1))
    ++ (otherSteps s).map fun i => (s.cur, i)

/-- The step that comes next: the one whose turn it is. DESIGN CHOICE, log 2. -/
def pick (s : State) : Option (Nat × Instr) := (nextSteps s)[s.turn % (nextSteps s).length]?

/-- The words of a number as an instruction of core 0 (R28): core 0 placed, if it is not, with every tile bank on, the words
in its scratchpad at its PC, nothing to wait for, no die slot that the tick asks for, and its issue the next step.
DESIGN CHOICE, log 6. -/
def placeWords (s : State) (ws : List W64) : State :=
  let k := s.core 0
  let k := if k.run == .placed then k else { k with run := .placed, tiles := 128, tbank := 0 }
  { s.setCore 0 { k with
      ispm := k.ispm.writeRun k.pc.toNat ws, ready := 0, hold := none, satTrap := [], granted := none
      regs := { k.regs with held := [] } } with
    agenda := [], turn := 0, pkgs := s.pkgs.mapVal fun _ p => { p with syncs := [] } }

end Sys2Proof.Machine
end

