-- ==== Sys2Proof/Machine/Slots.lean ====
section
/-! DEFINITION. The meaning of each slot instruction as a step of the current core: it issues as the one plain word of its
bundle, through the issue of R28 to R62; its own effect is the `eff…` definition named after it. -/

namespace Sys2Proof.Machine

/-- NOP (R58). -/
def execNop (slot : Slot) (s : State) : Host.Outcome State Fault Refusal := .next (issueOne slot (.nop slot) s)

/-- ADD (R121). -/
def execAdd (o : SReg) (s : State) : Host.Outcome State Fault Refusal := .next (issueOne .s (.add o) s)

/-- SUB (R121). -/
def execSub (o : SReg) (s : State) : Host.Outcome State Fault Refusal := .next (issueOne .s (.sub o) s)

/-- MUL (R121). -/
def execMul (o : SReg) (s : State) : Host.Outcome State Fault Refusal := .next (issueOne .s (.mul o) s)

/-- MULH (R121). -/
def execMulh (o : SReg) (s : State) : Host.Outcome State Fault Refusal := .next (issueOne .s (.mulh o) s)

/-- DIV (R122). -/
def execDiv (o : SReg) (s : State) : Host.Outcome State Fault Refusal := .next (issueOne .s (.div o) s)

/-- REM (R122). -/
def execRem (o : SReg) (s : State) : Host.Outcome State Fault Refusal := .next (issueOne .s (.rem o) s)

/-- ADDI (R123). -/
def execAddi (o : SImm) (s : State) : Host.Outcome State Fault Refusal := .next (issueOne .s (.addi o) s)

/-- AND (R121). -/
def execAnd (o : SReg) (s : State) : Host.Outcome State Fault Refusal := .next (issueOne .s (.and o) s)

/-- OR (R121). -/
def execOr (o : SReg) (s : State) : Host.Outcome State Fault Refusal := .next (issueOne .s (.or o) s)

/-- XOR (R121). -/
def execXor (o : SReg) (s : State) : Host.Outcome State Fault Refusal := .next (issueOne .s (.xor o) s)

/-- SHL (R121). -/
def execShl (o : SReg) (s : State) : Host.Outcome State Fault Refusal := .next (issueOne .s (.shl o) s)

/-- SHR (R121). -/
def execShr (o : SReg) (s : State) : Host.Outcome State Fault Refusal := .next (issueOne .s (.shr o) s)

/-- SAR (R121). -/
def execSar (o : SReg) (s : State) : Host.Outcome State Fault Refusal := .next (issueOne .s (.sar o) s)

/-- ANDI (R123). -/
def execAndi (o : SImm) (s : State) : Host.Outcome State Fault Refusal := .next (issueOne .s (.andi o) s)

/-- ORI (R123). -/
def execOri (o : SImm) (s : State) : Host.Outcome State Fault Refusal := .next (issueOne .s (.ori o) s)

/-- XORI (R123). -/
def execXori (o : SImm) (s : State) : Host.Outcome State Fault Refusal := .next (issueOne .s (.xori o) s)

/-- SHLI (R123). -/
def execShli (o : SImm) (s : State) : Host.Outcome State Fault Refusal := .next (issueOne .s (.shli o) s)

/-- SHRI (R123). -/
def execShri (o : SImm) (s : State) : Host.Outcome State Fault Refusal := .next (issueOne .s (.shri o) s)

/-- SARI (R123). -/
def execSari (o : SImm) (s : State) : Host.Outcome State Fault Refusal := .next (issueOne .s (.sari o) s)

/-- MIN (R121). -/
def execMin (o : SReg) (s : State) : Host.Outcome State Fault Refusal := .next (issueOne .s (.min o) s)

/-- MAX (R121). -/
def execMax (o : SReg) (s : State) : Host.Outcome State Fault Refusal := .next (issueOne .s (.max o) s)

/-- CLZ (R121). -/
def execClz (o : SReg) (s : State) : Host.Outcome State Fault Refusal := .next (issueOne .s (.clz o) s)

/-- POPC (R121). -/
def execPopc (o : SReg) (s : State) : Host.Outcome State Fault Refusal := .next (issueOne .s (.popc o) s)

/-- MOVI (R124). -/
def execMovi (o : SWide) (s : State) : Host.Outcome State Fault Refusal := .next (issueOne .s (.movi o) s)

/-- MOVHI (R124). -/
def execMovhi (o : SWide) (s : State) : Host.Outcome State Fault Refusal := .next (issueOne .s (.movhi o) s)

/-- SEL (R126). -/
def execSel (o : SReg) (s : State) : Host.Outcome State Fault Refusal := .next (issueOne .s (.sel o) s)

/-- CMP (R125). -/
def execCmp (o : SReg) (s : State) : Host.Outcome State Fault Refusal := .next (issueOne .s (.cmp o) s)

/-- CMPI (R125). -/
def execCmpi (o : SImm) (s : State) : Host.Outcome State Fault Refusal := .next (issueOne .s (.cmpi o) s)

/-- PLOG (R127). -/
def execPlog (o : SPred) (s : State) : Host.Outcome State Fault Refusal := .next (issueOne .s (.plog o) s)

/-- PGET (R128). -/
def execPget (o : SReg) (s : State) : Host.Outcome State Fault Refusal := .next (issueOne .s (.pget o) s)

/-- PSET (R128). -/
def execPset (o : SReg) (s : State) : Host.Outcome State Fault Refusal := .next (issueOne .s (.pset o) s)

/-- FADD (R129). -/
def execFadd (o : SFloat) (s : State) : Host.Outcome State Fault Refusal := .next (issueOne .s (.fadd o) s)

/-- FSUB (R129). -/
def execFsub (o : SFloat) (s : State) : Host.Outcome State Fault Refusal := .next (issueOne .s (.fsub o) s)

/-- FMUL (R129). -/
def execFmul (o : SFloat) (s : State) : Host.Outcome State Fault Refusal := .next (issueOne .s (.fmul o) s)

/-- FFMA (R129). -/
def execFfma (o : SFloat) (s : State) : Host.Outcome State Fault Refusal := .next (issueOne .s (.ffma o) s)

/-- FDIV (R129). -/
def execFdiv (o : SFloat) (s : State) : Host.Outcome State Fault Refusal := .next (issueOne .s (.fdiv o) s)

/-- FSQRT (R129). -/
def execFsqrt (o : SFloat) (s : State) : Host.Outcome State Fault Refusal := .next (issueOne .s (.fsqrt o) s)

/-- FMIN (R129). -/
def execFmin (o : SFloat) (s : State) : Host.Outcome State Fault Refusal := .next (issueOne .s (.fmin o) s)

/-- FMAX (R129). -/
def execFmax (o : SFloat) (s : State) : Host.Outcome State Fault Refusal := .next (issueOne .s (.fmax o) s)

/-- FCMP (R130). -/
def execFcmp (o : SFloat) (s : State) : Host.Outcome State Fault Refusal := .next (issueOne .s (.fcmp o) s)

/-- FCVT (R131). -/
def execFcvt (o : SFloat) (s : State) : Host.Outcome State Fault Refusal := .next (issueOne .s (.fcvt o) s)

/-- FCVTI (R131). -/
def execFcvti (o : SFloat) (s : State) : Host.Outcome State Fault Refusal := .next (issueOne .s (.fcvti o) s)

/-- ICVTF (R131). -/
def execIcvtf (o : SFloat) (s : State) : Host.Outcome State Fault Refusal := .next (issueOne .s (.icvtf o) s)

/-- BR (R132). -/
def execBr (o : SBranch) (s : State) : Host.Outcome State Fault Refusal := .next (issueOne .s (.br o) s)

/-- BRL (R132). -/
def execBrl (o : SBranch) (s : State) : Host.Outcome State Fault Refusal := .next (issueOne .s (.brl o) s)

/-- BRR (R133). -/
def execBrr (o : SReg) (s : State) : Host.Outcome State Fault Refusal := .next (issueOne .s (.brr o) s)

/-- LOOP (R101). -/
def execLoop (o : SImm) (s : State) : Host.Outcome State Fault Refusal := .next (issueOne .s (.loop o) s)

/-- LOOPB (R105). -/
def execLoopb (o : SBranch) (s : State) : Host.Outcome State Fault Refusal := .next (issueOne .s (.loopb o) s)

/-- BRSWAP (R136). -/
def execBrswap (o : SBranch) (s : State) : Host.Outcome State Fault Refusal := .next (issueOne .s (.brswap o) s)

/-- IFENCE (R135). -/
def execIfence (s : State) : Host.Outcome State Fault Refusal := .next (issueOne .s .ifence s)

/-- XLAT (R138). -/
def execXlat (o : SReg) (s : State) : Host.Outcome State Fault Refusal := .next (issueOne .s (.xlat o) s)

/-- HREL (R138). -/
def execHrel (o : SReg) (s : State) : Host.Outcome State Fault Refusal := .next (issueOne .s (.hrel o) s)

/-- FENCE_C (R304). -/
def execFenceC (o : SFence) (s : State) : Host.Outcome State Fault Refusal := .next (issueOne .s (.fenceC o) s)

/-- FENCE_SC (R305). -/
def execFenceSc (o : SFence) (s : State) : Host.Outcome State Fault Refusal := .next (issueOne .s (.fenceSc o) s)

/-- SPFENCE (R307). -/
def execSpfence (s : State) : Host.Outcome State Fault Refusal := .next (issueOne .s .spfence s)

/-- FENCE_SMP (R306). -/
def execFenceSmp (s : State) : Host.Outcome State Fault Refusal := .next (issueOne .s .fenceSmp s)

/-- MFCR (R140). -/
def execMfcr (o : SCtl) (s : State) : Host.Outcome State Fault Refusal := .next (issueOne .s (.mfcr o) s)

/-- MTCR (R140). -/
def execMtcr (o : SCtl) (s : State) : Host.Outcome State Fault Refusal := .next (issueOne .s (.mtcr o) s)

/-- TRAP (R137). -/
def execTrap (o : SWide) (s : State) : Host.Outcome State Fault Refusal := .next (issueOne .s (.trap o) s)

/-- VADD (R158). -/
def execVadd (o : VThree) (s : State) : Host.Outcome State Fault Refusal := .next (issueOne .v0 (.vadd o) s)

/-- VSUB (R158). -/
def execVsub (o : VThree) (s : State) : Host.Outcome State Fault Refusal := .next (issueOne .v0 (.vsub o) s)

/-- VMUL (R158). -/
def execVmul (o : VThree) (s : State) : Host.Outcome State Fault Refusal := .next (issueOne .v0 (.vmul o) s)

/-- VFMA (R158). -/
def execVfma (o : VThree) (s : State) : Host.Outcome State Fault Refusal := .next (issueOne .v0 (.vfma o) s)

/-- VMIN (R158). -/
def execVmin (o : VThree) (s : State) : Host.Outcome State Fault Refusal := .next (issueOne .v0 (.vmin o) s)

/-- VMAX (R158). -/
def execVmax (o : VThree) (s : State) : Host.Outcome State Fault Refusal := .next (issueOne .v0 (.vmax o) s)

/-- VABS (R158). -/
def execVabs (o : VThree) (s : State) : Host.Outcome State Fault Refusal := .next (issueOne .v0 (.vabs o) s)

/-- VNEG (R158). -/
def execVneg (o : VThree) (s : State) : Host.Outcome State Fault Refusal := .next (issueOne .v0 (.vneg o) s)

/-- VCLAMP (R159). -/
def execVclamp (o : VThree) (s : State) : Host.Outcome State Fault Refusal := .next (issueOne .v0 (.vclamp o) s)

/-- VMULH (R158). -/
def execVmulh (o : VThree) (s : State) : Host.Outcome State Fault Refusal := .next (issueOne .v0 (.vmulh o) s)

/-- VADDS (R165). -/
def execVadds (o : VScalar) (s : State) : Host.Outcome State Fault Refusal := .next (issueOne .v0 (.vadds o) s)

/-- VSUBS (R165). -/
def execVsubs (o : VScalar) (s : State) : Host.Outcome State Fault Refusal := .next (issueOne .v0 (.vsubs o) s)

/-- VMULS (R165). -/
def execVmuls (o : VScalar) (s : State) : Host.Outcome State Fault Refusal := .next (issueOne .v0 (.vmuls o) s)

/-- VFMAS (R165). -/
def execVfmas (o : VScalar) (s : State) : Host.Outcome State Fault Refusal := .next (issueOne .v0 (.vfmas o) s)

/-- VMINS (R165). -/
def execVmins (o : VScalar) (s : State) : Host.Outcome State Fault Refusal := .next (issueOne .v0 (.vmins o) s)

/-- VMAXS (R165). -/
def execVmaxs (o : VScalar) (s : State) : Host.Outcome State Fault Refusal := .next (issueOne .v0 (.vmaxs o) s)

/-- VAND (R160). -/
def execVand (o : VThree) (s : State) : Host.Outcome State Fault Refusal := .next (issueOne .v0 (.vand o) s)

/-- VOR (R160). -/
def execVor (o : VThree) (s : State) : Host.Outcome State Fault Refusal := .next (issueOne .v0 (.vor o) s)

/-- VXOR (R160). -/
def execVxor (o : VThree) (s : State) : Host.Outcome State Fault Refusal := .next (issueOne .v0 (.vxor o) s)

/-- VNOT (R160). -/
def execVnot (o : VThree) (s : State) : Host.Outcome State Fault Refusal := .next (issueOne .v0 (.vnot o) s)

/-- VSHL (R160). -/
def execVshl (o : VThree) (s : State) : Host.Outcome State Fault Refusal := .next (issueOne .v0 (.vshl o) s)

/-- VSHR (R160). -/
def execVshr (o : VThree) (s : State) : Host.Outcome State Fault Refusal := .next (issueOne .v0 (.vshr o) s)

/-- VSAR (R160). -/
def execVsar (o : VThree) (s : State) : Host.Outcome State Fault Refusal := .next (issueOne .v0 (.vsar o) s)

/-- VPOPC (R160). -/
def execVpopc (o : VThree) (s : State) : Host.Outcome State Fault Refusal := .next (issueOne .v0 (.vpopc o) s)

/-- VCMP (R161). -/
def execVcmp (o : VThree) (s : State) : Host.Outcome State Fault Refusal := .next (issueOne .v0 (.vcmp o) s)

/-- VSEL (R162). -/
def execVsel (o : VThree) (s : State) : Host.Outcome State Fault Refusal := .next (issueOne .v0 (.vsel o) s)

/-- VMOV (R163). -/
def execVmov (o : VThree) (s : State) : Host.Outcome State Fault Refusal := .next (issueOne .v0 (.vmov o) s)

/-- VZERO (R163). -/
def execVzero (o : VThree) (s : State) : Host.Outcome State Fault Refusal := .next (issueOne .v0 (.vzero o) s)

/-- VIOTA (R163). -/
def execViota (o : VThree) (s : State) : Host.Outcome State Fault Refusal := .next (issueOne .v0 (.viota o) s)

/-- VBCAST (R165). -/
def execVbcast (o : VScalar) (s : State) : Host.Outcome State Fault Refusal := .next (issueOne .v0 (.vbcast o) s)

/-- VEXTR (R166). -/
def execVextr (o : VScalar) (s : State) : Host.Outcome State Fault Refusal := .next (issueOne .v0 (.vextr o) s)

/-- VINS (R166). -/
def execVins (o : VScalar) (s : State) : Host.Outcome State Fault Refusal := .next (issueOne .v0 (.vins o) s)

/-- VCVT (R168). -/
def execVcvt (o : VConv) (s : State) : Host.Outcome State Fault Refusal := .next (issueOne .v0 (.vcvt o) s)

/-- VPERM (R164). -/
def execVperm (o : VThree) (s : State) : Host.Outcome State Fault Refusal := .next (issueOne .v0 (.vperm o) s)

/-- VROT (R165). -/
def execVrot (o : VScalar) (s : State) : Host.Outcome State Fault Refusal := .next (issueOne .v0 (.vrot o) s)

/-- VSCALE (R167). -/
def execVscale (o : VScalar) (s : State) : Host.Outcome State Fault Refusal := .next (issueOne .v0 (.vscale o) s)

/-- VRSUM (R169). -/
def execVrsum (o : VThree) (s : State) : Host.Outcome State Fault Refusal := .next (issueOne .v0 (.vrsum o) s)

/-- VDOT (R169). -/
def execVdot (o : VThree) (s : State) : Host.Outcome State Fault Refusal := .next (issueOne .v0 (.vdot o) s)

/-- VRMAX (R169). -/
def execVrmax (o : VThree) (s : State) : Host.Outcome State Fault Refusal := .next (issueOne .v0 (.vrmax o) s)

/-- VRMIN (R169). -/
def execVrmin (o : VThree) (s : State) : Host.Outcome State Fault Refusal := .next (issueOne .v0 (.vrmin o) s)

/-- VEXP2 (R172). -/
def execVexp2 (o : VThree) (s : State) : Host.Outcome State Fault Refusal := .next (issueOne .v0 (.vexp2 o) s)

/-- VLOG2 (R173). -/
def execVlog2 (o : VThree) (s : State) : Host.Outcome State Fault Refusal := .next (issueOne .v0 (.vlog2 o) s)

/-- VRCP (R174). -/
def execVrcp (o : VThree) (s : State) : Host.Outcome State Fault Refusal := .next (issueOne .v0 (.vrcp o) s)

/-- VRSQ (R175). -/
def execVrsq (o : VThree) (s : State) : Host.Outcome State Fault Refusal := .next (issueOne .v0 (.vrsq o) s)

/-- VTANH (R176). -/
def execVtanh (o : VThree) (s : State) : Host.Outcome State Fault Refusal := .next (issueOne .v0 (.vtanh o) s)

/-- PMOV (R179). -/
def execPmov (o : VPort) (s : State) : Host.Outcome State Fault Refusal := .next (issueOne .v0 (.pmov o) s)

/-- PTAKE (R180). -/
def execPtake (o : VPort) (s : State) : Host.Outcome State Fault Refusal := .next (issueOne .v0 (.ptake o) s)

/-- MMA (R200). -/
def execMma (o : MMac) (s : State) : Host.Outcome State Fault Refusal := .next (issueOne .m (.mma o) s)

/-- MMAZ (R200). -/
def execMmaz (o : MMac) (s : State) : Host.Outcome State Fault Refusal := .next (issueOne .m (.mmaz o) s)

/-- MOUT (R202). -/
def execMout (o : MOut) (s : State) : Host.Outcome State Fault Refusal := .next (issueOne .m (.mout o) s)

/-- MOUTS (R203). -/
def execMouts (o : MOuts) (s : State) : Host.Outcome State Fault Refusal := .next (issueOne .m (.mouts o) s)

/-- MZERO (R204). -/
def execMzero (o : MOut) (s : State) : Host.Outcome State Fault Refusal := .next (issueOne .m (.mzero o) s)

/-- RSET (R205). -/
def execRset (o : MRing) (s : State) : Host.Outcome State Fault Refusal := .next (issueOne .m (.rset o) s)

/-- RPUSH (R206). -/
def execRpush (o : MRing) (s : State) : Host.Outcome State Fault Refusal := .next (issueOne .m (.rpush o) s)

/-- RPOP (R207). -/
def execRpop (o : MRing) (s : State) : Host.Outcome State Fault Refusal := .next (issueOne .m (.rpop o) s)

/-- RGET (R208). -/
def execRget (o : MRing) (s : State) : Host.Outcome State Fault Refusal := .next (issueOne .m (.rget o) s)

/-- LDSC (R210). -/
def execLdsc (o : PFmt) (s : State) : Host.Outcome State Fault Refusal := .next (issueOne .l (.ldsc o) s)

/-- LDS (R222). -/
def execLds (o : PFmt) (s : State) : Host.Outcome State Fault Refusal := .next (issueOne .l (.lds o) s)

/-- LDSR (R222). -/
def execLdsr (o : PFmt) (s : State) : Host.Outcome State Fault Refusal := .next (issueOne .l (.ldsr o) s)

/-- LDST (R222). -/
def execLdst (o : PFmt) (s : State) : Host.Outcome State Fault Refusal := .next (issueOne .l (.ldst o) s)

/-- STS (R222). -/
def execSts (o : PFmt) (s : State) : Host.Outcome State Fault Refusal := .next (issueOne .t (.sts o) s)

/-- STSR (R222). -/
def execStsr (o : PFmt) (s : State) : Host.Outcome State Fault Refusal := .next (issueOne .t (.stsr o) s)

/-- STST (R222). -/
def execStst (o : PFmt) (s : State) : Host.Outcome State Fault Refusal := .next (issueOne .t (.stst o) s)

/-- SPCLR (R224). -/
def execSpclr (o : PFmt) (s : State) : Host.Outcome State Fault Refusal := .next (issueOne .t (.spclr o) s)

/-- SPFILL (R224). -/
def execSpfill (o : PFmt) (s : State) : Host.Outcome State Fault Refusal := .next (issueOne .t (.spfill o) s)

/-- LDG (R277). -/
def execLdg (o : GFmt) (s : State) : Host.Outcome State Fault Refusal := .next (issueOne .l (.ldg o) s)

/-- LDG_ACQ (R277). -/
def execLdgAcq (o : GFmt) (s : State) : Host.Outcome State Fault Refusal := .next (issueOne .l (.ldgAcq o) s)

/-- LDGR (R277). -/
def execLdgr (o : GFmt) (s : State) : Host.Outcome State Fault Refusal := .next (issueOne .l (.ldgr o) s)

/-- LDGR_ACQ (R277). -/
def execLdgrAcq (o : GFmt) (s : State) : Host.Outcome State Fault Refusal := .next (issueOne .l (.ldgrAcq o) s)

/-- LDGT (R277). -/
def execLdgt (o : GFmt) (s : State) : Host.Outcome State Fault Refusal := .next (issueOne .l (.ldgt o) s)

/-- LDSCG (R277). -/
def execLdscg (o : GFmt) (s : State) : Host.Outcome State Fault Refusal := .next (issueOne .l (.ldscg o) s)

/-- STG (R277). -/
def execStg (o : GFmt) (s : State) : Host.Outcome State Fault Refusal := .next (issueOne .t (.stg o) s)

/-- STG_REL (R277). -/
def execStgRel (o : GFmt) (s : State) : Host.Outcome State Fault Refusal := .next (issueOne .t (.stgRel o) s)

/-- STGR (R277). -/
def execStgr (o : GFmt) (s : State) : Host.Outcome State Fault Refusal := .next (issueOne .t (.stgr o) s)

/-- STGR_REL (R277). -/
def execStgrRel (o : GFmt) (s : State) : Host.Outcome State Fault Refusal := .next (issueOne .t (.stgrRel o) s)

/-- STGT (R277). -/
def execStgt (o : GFmt) (s : State) : Host.Outcome State Fault Refusal := .next (issueOne .t (.stgt o) s)

/-- AADD (R281). -/
def execAadd (o : AFmt) (s : State) : Host.Outcome State Fault Refusal := .next (issueOne .t (.aadd o) s)

/-- AMIN (R281). -/
def execAmin (o : AFmt) (s : State) : Host.Outcome State Fault Refusal := .next (issueOne .t (.amin o) s)

/-- AMAX (R281). -/
def execAmax (o : AFmt) (s : State) : Host.Outcome State Fault Refusal := .next (issueOne .t (.amax o) s)

/-- AAND (R281). -/
def execAand (o : AFmt) (s : State) : Host.Outcome State Fault Refusal := .next (issueOne .t (.aand o) s)

/-- AOR (R281). -/
def execAor (o : AFmt) (s : State) : Host.Outcome State Fault Refusal := .next (issueOne .t (.aor o) s)

/-- AXOR (R281). -/
def execAxor (o : AFmt) (s : State) : Host.Outcome State Fault Refusal := .next (issueOne .t (.axor o) s)

/-- AXCHG (R281). -/
def execAxchg (o : AFmt) (s : State) : Host.Outcome State Fault Refusal := .next (issueOne .t (.axchg o) s)

/-- ACAS (R281). -/
def execAcas (o : AFmt) (s : State) : Host.Outcome State Fault Refusal := .next (issueOne .t (.acas o) s)

/-- AFADD (R281). -/
def execAfadd (o : AFmt) (s : State) : Host.Outcome State Fault Refusal := .next (issueOne .t (.afadd o) s)

/-- LDSMP (R285). -/
def execLdsmp (o : QFmt) (s : State) : Host.Outcome State Fault Refusal := .next (issueOne .l (.ldsmp o) s)

/-- EPUSH (R314). -/
def execEpush (o : XCmd) (s : State) : Host.Outcome State Fault Refusal := .next (issueOne .x (.epush o) s)

/-- EPOP (R322). -/
def execEpop (o : XPop) (s : State) : Host.Outcome State Fault Refusal := .next (issueOne .x (.epop o) s)

/-- EQSTAT (R323). -/
def execEqstat (o : XPop) (s : State) : Host.Outcome State Fault Refusal := .next (issueOne .x (.eqstat o) s)

/-- FDRD (R324). -/
def execFdrd (o : XPop) (s : State) : Host.Outcome State Fault Refusal := .next (issueOne .x (.fdrd o) s)

/-- SEND (R237). -/
def execSend (o : XP2p) (s : State) : Host.Outcome State Fault Refusal := .next (issueOne .x (.send o) s)

/-- RECV (R238). -/
def execRecv (o : XP2p) (s : State) : Host.Outcome State Fault Refusal := .next (issueOne .x (.recv o) s)

/-- RECVADD (R238). -/
def execRecvadd (o : XP2p) (s : State) : Host.Outcome State Fault Refusal := .next (issueOne .x (.recvadd o) s)

/-- SEMADD (R229). -/
def execSemadd (o : XSem) (s : State) : Host.Outcome State Fault Refusal := .next (issueOne .x (.semadd o) s)

/-- SEMSET (R229). -/
def execSemset (o : XSem) (s : State) : Host.Outcome State Fault Refusal := .next (issueOne .x (.semset o) s)

/-- SEMRD (R229). -/
def execSemrd (o : XSem) (s : State) : Host.Outcome State Fault Refusal := .next (issueOne .x (.semrd o) s)

/-- SEMWAIT (R229). -/
def execSemwait (o : XSem) (s : State) : Host.Outcome State Fault Refusal := .next (issueOne .x (.semwait o) s)

/-- BARC (R231). -/
def execBarc (o : XSem) (s : State) : Host.Outcome State Fault Refusal := .next (issueOne .x (.barc o) s)

/-- BARG (R231). -/
def execBarg (o : XSem) (s : State) : Host.Outcome State Fault Refusal := .next (issueOne .x (.barg o) s)

/-- OVL (R418). -/
def execOvl (o : XOvl) (s : State) : Host.Outcome State Fault Refusal := .next (issueOne .x (.ovl o) s)

/-- CPY (R321). -/
def execCpy (o : XCmd) (s : State) : Host.Outcome State Fault Refusal := .next (issueOne .x (.cpy o) s)

/-- CPYT (R321). -/
def execCpyt (o : XCmd) (s : State) : Host.Outcome State Fault Refusal := .next (issueOne .x (.cpyt o) s)

/-- CPYF (R321). -/
def execCpyf (o : XCmd) (s : State) : Host.Outcome State Fault Refusal := .next (issueOne .x (.cpyf o) s)

/-- CPYH (R321). -/
def execCpyh (o : XCmd) (s : State) : Host.Outcome State Fault Refusal := .next (issueOne .x (.cpyh o) s)

/-- BXCH (R321). -/
def execBxch (o : XCmd) (s : State) : Host.Outcome State Fault Refusal := .next (issueOne .x (.bxch o) s)

/-- ALLRED (R349). -/
def execAllred (o : XCmd) (s : State) : Host.Outcome State Fault Refusal := .next (issueOne .x (.allred o) s)

/-- RSCAT (R349). -/
def execRscat (o : XCmd) (s : State) : Host.Outcome State Fault Refusal := .next (issueOne .x (.rscat o) s)

/-- AGATH (R349). -/
def execAgath (o : XCmd) (s : State) : Host.Outcome State Fault Refusal := .next (issueOne .x (.agath o) s)

/-- BCAST (R349). -/
def execBcast (o : XCmd) (s : State) : Host.Outcome State Fault Refusal := .next (issueOne .x (.bcast o) s)

/-- ALLTOALL (R349). -/
def execAlltoall (o : XCmd) (s : State) : Host.Outcome State Fault Refusal := .next (issueOne .x (.alltoall o) s)

/-- RESHARD (R349). -/
def execReshard (o : XCmd) (s : State) : Host.Outcome State Fault Refusal := .next (issueOne .x (.reshard o) s)

/-- CSTAT_RESHARD (R378). -/
def execCstatReshard (o : XPop) (s : State) : Host.Outcome State Fault Refusal := .next (issueOne .x (.cstatReshard o) s)

/-- CSTAT_LINKS (R378). -/
def execCstatLinks (o : XPop) (s : State) : Host.Outcome State Fault Refusal := .next (issueOne .x (.cstatLinks o) s)

/-- PLQ (R391). -/
def execPlq (o : XCmd) (s : State) : Host.Outcome State Fault Refusal := .next (issueOne .x (.plq o) s)

/-- PLRES (R396). -/
def execPlres (o : XPop) (s : State) : Host.Outcome State Fault Refusal := .next (issueOne .x (.plres o) s)

end Sys2Proof.Machine
end

