-- ==== Sys2Proof/Machine/Dispatch.lean ====
section
/-! DEFINITION. One arm for each constructor of `Instr`: a direct call of its meaning. -/

namespace Sys2Proof.Machine

/-- One step of the machine by its instruction. -/
def exec (i : Instr) (s : State) : Host.Outcome State Fault Refusal :=
  match i with
  | .bundleIssue core => Sys2Proof.Machine.execBundleIssue core s
  | .satSignalApply core => Sys2Proof.Machine.execSatSignalApply core s
  | .scalarResultLand core idx => Sys2Proof.Machine.execScalarResultLand core idx s
  | .rowResultLand core idx => Sys2Proof.Machine.execRowResultLand core idx s
  | .nop slot => Sys2Proof.Machine.execNop slot s
  | .add o => Sys2Proof.Machine.execAdd o s
  | .sub o => Sys2Proof.Machine.execSub o s
  | .mul o => Sys2Proof.Machine.execMul o s
  | .mulh o => Sys2Proof.Machine.execMulh o s
  | .div o => Sys2Proof.Machine.execDiv o s
  | .rem o => Sys2Proof.Machine.execRem o s
  | .addi o => Sys2Proof.Machine.execAddi o s
  | .and o => Sys2Proof.Machine.execAnd o s
  | .or o => Sys2Proof.Machine.execOr o s
  | .xor o => Sys2Proof.Machine.execXor o s
  | .shl o => Sys2Proof.Machine.execShl o s
  | .shr o => Sys2Proof.Machine.execShr o s
  | .sar o => Sys2Proof.Machine.execSar o s
  | .andi o => Sys2Proof.Machine.execAndi o s
  | .ori o => Sys2Proof.Machine.execOri o s
  | .xori o => Sys2Proof.Machine.execXori o s
  | .shli o => Sys2Proof.Machine.execShli o s
  | .shri o => Sys2Proof.Machine.execShri o s
  | .sari o => Sys2Proof.Machine.execSari o s
  | .min o => Sys2Proof.Machine.execMin o s
  | .max o => Sys2Proof.Machine.execMax o s
  | .clz o => Sys2Proof.Machine.execClz o s
  | .popc o => Sys2Proof.Machine.execPopc o s
  | .movi o => Sys2Proof.Machine.execMovi o s
  | .movhi o => Sys2Proof.Machine.execMovhi o s
  | .sel o => Sys2Proof.Machine.execSel o s
  | .cmp o => Sys2Proof.Machine.execCmp o s
  | .cmpi o => Sys2Proof.Machine.execCmpi o s
  | .plog o => Sys2Proof.Machine.execPlog o s
  | .pget o => Sys2Proof.Machine.execPget o s
  | .pset o => Sys2Proof.Machine.execPset o s
  | .fadd o => Sys2Proof.Machine.execFadd o s
  | .fsub o => Sys2Proof.Machine.execFsub o s
  | .fmul o => Sys2Proof.Machine.execFmul o s
  | .ffma o => Sys2Proof.Machine.execFfma o s
  | .fdiv o => Sys2Proof.Machine.execFdiv o s
  | .fsqrt o => Sys2Proof.Machine.execFsqrt o s
  | .fmin o => Sys2Proof.Machine.execFmin o s
  | .fmax o => Sys2Proof.Machine.execFmax o s
  | .fcmp o => Sys2Proof.Machine.execFcmp o s
  | .fcvt o => Sys2Proof.Machine.execFcvt o s
  | .fcvti o => Sys2Proof.Machine.execFcvti o s
  | .icvtf o => Sys2Proof.Machine.execIcvtf o s
  | .br o => Sys2Proof.Machine.execBr o s
  | .brl o => Sys2Proof.Machine.execBrl o s
  | .brr o => Sys2Proof.Machine.execBrr o s
  | .loop o => Sys2Proof.Machine.execLoop o s
  | .loopb o => Sys2Proof.Machine.execLoopb o s
  | .brswap o => Sys2Proof.Machine.execBrswap o s
  | .ifence => Sys2Proof.Machine.execIfence s
  | .xlat o => Sys2Proof.Machine.execXlat o s
  | .hrel o => Sys2Proof.Machine.execHrel o s
  | .walkEnd die idx => Sys2Proof.Machine.execWalkEnd die idx s
  | .fenceC o => Sys2Proof.Machine.execFenceC o s
  | .fenceSc o => Sys2Proof.Machine.execFenceSc o s
  | .spfence => Sys2Proof.Machine.execSpfence s
  | .fenceSmp => Sys2Proof.Machine.execFenceSmp s
  | .mfcr o => Sys2Proof.Machine.execMfcr o s
  | .mtcr o => Sys2Proof.Machine.execMtcr o s
  | .bankWake core => Sys2Proof.Machine.execBankWake core s
  | .trap o => Sys2Proof.Machine.execTrap o s
  | .vadd o => Sys2Proof.Machine.execVadd o s
  | .vsub o => Sys2Proof.Machine.execVsub o s
  | .vmul o => Sys2Proof.Machine.execVmul o s
  | .vfma o => Sys2Proof.Machine.execVfma o s
  | .vmin o => Sys2Proof.Machine.execVmin o s
  | .vmax o => Sys2Proof.Machine.execVmax o s
  | .vabs o => Sys2Proof.Machine.execVabs o s
  | .vneg o => Sys2Proof.Machine.execVneg o s
  | .vclamp o => Sys2Proof.Machine.execVclamp o s
  | .vmulh o => Sys2Proof.Machine.execVmulh o s
  | .vadds o => Sys2Proof.Machine.execVadds o s
  | .vsubs o => Sys2Proof.Machine.execVsubs o s
  | .vmuls o => Sys2Proof.Machine.execVmuls o s
  | .vfmas o => Sys2Proof.Machine.execVfmas o s
  | .vmins o => Sys2Proof.Machine.execVmins o s
  | .vmaxs o => Sys2Proof.Machine.execVmaxs o s
  | .vand o => Sys2Proof.Machine.execVand o s
  | .vor o => Sys2Proof.Machine.execVor o s
  | .vxor o => Sys2Proof.Machine.execVxor o s
  | .vnot o => Sys2Proof.Machine.execVnot o s
  | .vshl o => Sys2Proof.Machine.execVshl o s
  | .vshr o => Sys2Proof.Machine.execVshr o s
  | .vsar o => Sys2Proof.Machine.execVsar o s
  | .vpopc o => Sys2Proof.Machine.execVpopc o s
  | .vcmp o => Sys2Proof.Machine.execVcmp o s
  | .vsel o => Sys2Proof.Machine.execVsel o s
  | .vmov o => Sys2Proof.Machine.execVmov o s
  | .vzero o => Sys2Proof.Machine.execVzero o s
  | .viota o => Sys2Proof.Machine.execViota o s
  | .vbcast o => Sys2Proof.Machine.execVbcast o s
  | .vextr o => Sys2Proof.Machine.execVextr o s
  | .vins o => Sys2Proof.Machine.execVins o s
  | .vcvt o => Sys2Proof.Machine.execVcvt o s
  | .vperm o => Sys2Proof.Machine.execVperm o s
  | .vrot o => Sys2Proof.Machine.execVrot o s
  | .vscale o => Sys2Proof.Machine.execVscale o s
  | .vrsum o => Sys2Proof.Machine.execVrsum o s
  | .vdot o => Sys2Proof.Machine.execVdot o s
  | .vrmax o => Sys2Proof.Machine.execVrmax o s
  | .vrmin o => Sys2Proof.Machine.execVrmin o s
  | .vexp2 o => Sys2Proof.Machine.execVexp2 o s
  | .vlog2 o => Sys2Proof.Machine.execVlog2 o s
  | .vrcp o => Sys2Proof.Machine.execVrcp o s
  | .vrsq o => Sys2Proof.Machine.execVrsq o s
  | .vtanh o => Sys2Proof.Machine.execVtanh o s
  | .pmov o => Sys2Proof.Machine.execPmov o s
  | .portResultReady core port => Sys2Proof.Machine.execPortResultReady core port s
  | .ptake o => Sys2Proof.Machine.execPtake o s
  | .mma o => Sys2Proof.Machine.execMma o s
  | .mmaz o => Sys2Proof.Machine.execMmaz o s
  | .mmaRetire core => Sys2Proof.Machine.execMmaRetire core s
  | .mout o => Sys2Proof.Machine.execMout o s
  | .mouts o => Sys2Proof.Machine.execMouts o s
  | .mOutputLand core idx => Sys2Proof.Machine.execMOutputLand core idx s
  | .mzero o => Sys2Proof.Machine.execMzero o s
  | .rset o => Sys2Proof.Machine.execRset o s
  | .rpush o => Sys2Proof.Machine.execRpush o s
  | .rpop o => Sys2Proof.Machine.execRpop o s
  | .rget o => Sys2Proof.Machine.execRget o s
  | .ldsc o => Sys2Proof.Machine.execLdsc o s
  | .ldscWriteLand core => Sys2Proof.Machine.execLdscWriteLand core s
  | .lds o => Sys2Proof.Machine.execLds o s
  | .ldsr o => Sys2Proof.Machine.execLdsr o s
  | .ldst o => Sys2Proof.Machine.execLdst o s
  | .scratchpadLoadLand core idx => Sys2Proof.Machine.execScratchpadLoadLand core idx s
  | .sts o => Sys2Proof.Machine.execSts o s
  | .stsr o => Sys2Proof.Machine.execStsr o s
  | .stst o => Sys2Proof.Machine.execStst o s
  | .storeReachesBank core idx => Sys2Proof.Machine.execStoreReachesBank core idx s
  | .spclr o => Sys2Proof.Machine.execSpclr o s
  | .spfill o => Sys2Proof.Machine.execSpfill o s
  | .ldg o => Sys2Proof.Machine.execLdg o s
  | .ldgAcq o => Sys2Proof.Machine.execLdgAcq o s
  | .ldgr o => Sys2Proof.Machine.execLdgr o s
  | .ldgrAcq o => Sys2Proof.Machine.execLdgrAcq o s
  | .ldgt o => Sys2Proof.Machine.execLdgt o s
  | .ldscg o => Sys2Proof.Machine.execLdscg o s
  | .globalLoadReturn core idx => Sys2Proof.Machine.execGlobalLoadReturn core idx s
  | .storeReachesPointOfCoherence core idx => Sys2Proof.Machine.execStoreReachesPointOfCoherence core idx s
  | .stg o => Sys2Proof.Machine.execStg o s
  | .stgRel o => Sys2Proof.Machine.execStgRel o s
  | .stgr o => Sys2Proof.Machine.execStgr o s
  | .stgrRel o => Sys2Proof.Machine.execStgrRel o s
  | .stgt o => Sys2Proof.Machine.execStgt o s
  | .aadd o => Sys2Proof.Machine.execAadd o s
  | .amin o => Sys2Proof.Machine.execAmin o s
  | .amax o => Sys2Proof.Machine.execAmax o s
  | .aand o => Sys2Proof.Machine.execAand o s
  | .aor o => Sys2Proof.Machine.execAor o s
  | .axor o => Sys2Proof.Machine.execAxor o s
  | .axchg o => Sys2Proof.Machine.execAxchg o s
  | .acas o => Sys2Proof.Machine.execAcas o s
  | .afadd o => Sys2Proof.Machine.execAfadd o s
  | .atomicReturn core idx => Sys2Proof.Machine.execAtomicReturn core idx s
  | .ldsmp o => Sys2Proof.Machine.execLdsmp o s
  | .sampleLand core idx => Sys2Proof.Machine.execSampleLand core idx s
  | .epush o => Sys2Proof.Machine.execEpush o s
  | .epop o => Sys2Proof.Machine.execEpop o s
  | .eqstat o => Sys2Proof.Machine.execEqstat o s
  | .fdrd o => Sys2Proof.Machine.execFdrd o s
  | .send o => Sys2Proof.Machine.execSend o s
  | .sendArrival core idx => Sys2Proof.Machine.execSendArrival core idx s
  | .recv o => Sys2Proof.Machine.execRecv o s
  | .recvadd o => Sys2Proof.Machine.execRecvadd o s
  | .semadd o => Sys2Proof.Machine.execSemadd o s
  | .semset o => Sys2Proof.Machine.execSemset o s
  | .semrd o => Sys2Proof.Machine.execSemrd o s
  | .semwait o => Sys2Proof.Machine.execSemwait o s
  | .barc o => Sys2Proof.Machine.execBarc o s
  | .barg o => Sys2Proof.Machine.execBarg o s
  | .barrierRelease global n => Sys2Proof.Machine.execBarrierRelease global n s
  | .ovl o => Sys2Proof.Machine.execOvl o s
  | .ovlEnd core => Sys2Proof.Machine.execOvlEnd core s
  | .cpy o => Sys2Proof.Machine.execCpy o s
  | .cpyt o => Sys2Proof.Machine.execCpyt o s
  | .cpyf o => Sys2Proof.Machine.execCpyf o s
  | .cpyh o => Sys2Proof.Machine.execCpyh o s
  | .bxch o => Sys2Proof.Machine.execBxch o s
  | .cpyCommand cluster idx => Sys2Proof.Machine.execCpyCommand cluster idx s
  | .cpytTimedStart cluster => Sys2Proof.Machine.execCpytTimedStart cluster s
  | .cpyfCommand cluster idx => Sys2Proof.Machine.execCpyfCommand cluster idx s
  | .cpyhCommand cluster idx => Sys2Proof.Machine.execCpyhCommand cluster idx s
  | .bxchCommand die idx => Sys2Proof.Machine.execBxchCommand die idx s
  | .bermFaceArrival idx => Sys2Proof.Machine.execBermFaceArrival idx s
  | .allred o => Sys2Proof.Machine.execAllred o s
  | .rscat o => Sys2Proof.Machine.execRscat o s
  | .agath o => Sys2Proof.Machine.execAgath o s
  | .bcast o => Sys2Proof.Machine.execBcast o s
  | .alltoall o => Sys2Proof.Machine.execAlltoall o s
  | .reshard o => Sys2Proof.Machine.execReshard o s
  | .collectiveMatch die idx => Sys2Proof.Machine.execCollectiveMatch die idx s
  | .stagingGrant idx => Sys2Proof.Machine.execStagingGrant idx s
  | .sluicePacket idx => Sys2Proof.Machine.execSluicePacket idx s
  | .chunkFinish idx die chunk => Sys2Proof.Machine.execChunkFinish idx die chunk s
  | .treeRecovery idx => Sys2Proof.Machine.execTreeRecovery idx s
  | .reshardRow idx row => Sys2Proof.Machine.execReshardRow idx row s
  | .reshardCommit idx => Sys2Proof.Machine.execReshardCommit idx s
  | .cstatReshard o => Sys2Proof.Machine.execCstatReshard o s
  | .cstatLinks o => Sys2Proof.Machine.execCstatLinks o s
  | .plq o => Sys2Proof.Machine.execPlq o s
  | .query die idx => Sys2Proof.Machine.execQuery die idx s
  | .check die idx => Sys2Proof.Machine.execCheck die idx s
  | .plres o => Sys2Proof.Machine.execPlres o s
  | .pumphouseNop q => Sys2Proof.Machine.execPumphouseNop q s
  | .launch q => Sys2Proof.Machine.execLaunch q s
  | .waitsem q => Sys2Proof.Machine.execWaitsem q s
  | .sigsem q => Sys2Proof.Machine.execSigsem q s
  | .sigcl q => Sys2Proof.Machine.execSigcl q s
  | .waittime q => Sys2Proof.Machine.execWaittime q s
  | .preempt q => Sys2Proof.Machine.execPreempt q s
  | .snap q => Sys2Proof.Machine.execSnap q s
  | .inval q => Sys2Proof.Machine.execInval q s
  | .kill q => Sys2Proof.Machine.execKill q s
  | .fence q => Sys2Proof.Machine.execFence q s
  | .stamp q => Sys2Proof.Machine.execStamp q s
  | .dieSlot q => Sys2Proof.Machine.execDieSlot q s
  | .syncSlotEntry pkg idx => Sys2Proof.Machine.execSyncSlotEntry pkg idx s
  | .queueMapping pkg => Sys2Proof.Machine.execQueueMapping pkg s
  | .launchPlacement pkg => Sys2Proof.Machine.execLaunchPlacement pkg s
  | .coreHalt core => Sys2Proof.Machine.execCoreHalt core s
  | .launchEnd l => Sys2Proof.Machine.execLaunchEnd l s
  | .drainTimeout l => Sys2Proof.Machine.execDrainTimeout l s
  | .launchDrain l => Sys2Proof.Machine.execLaunchDrain l s
  | .launchResume l => Sys2Proof.Machine.execLaunchResume l s
  | .watchdog l => Sys2Proof.Machine.execWatchdog l s
  | .cowResolve core => Sys2Proof.Machine.execCowResolve core s
  | .trapResume core => Sys2Proof.Machine.execTrapResume core s
  | .trapSkip core => Sys2Proof.Machine.execTrapSkip core s
  | .trapAnswerKill core => Sys2Proof.Machine.execTrapAnswerKill core s
  | .qringWrite q v => Sys2Proof.Machine.execQringWrite q v s
  | .qptrTailWrite q tail => Sys2Proof.Machine.execQptrTailWrite q tail s
  | .queueEnable q qpri => Sys2Proof.Machine.execQueueEnable q qpri s
  | .queueDisable q qpri => Sys2Proof.Machine.execQueueDisable q qpri s
  | .hbmSplitWrite pkg v => Sys2Proof.Machine.execHbmSplitWrite pkg v s
  | .clkCodeWrite die v => Sys2Proof.Machine.execClkCodeWrite die v s
  | .changeWindow die axis => Sys2Proof.Machine.execChangeWindow die axis s
  | .emergencyExit die => Sys2Proof.Machine.execEmergencyExit die s
  | .regrd pkg r => Sys2Proof.Machine.execRegrd pkg r s
  | .regwr pkg r => Sys2Proof.Machine.execRegwr pkg r s
  | .memrd pkg r => Sys2Proof.Machine.execMemrd pkg r s
  | .memwr pkg r => Sys2Proof.Machine.execMemwr pkg r s
  | .attestReport pkg r => Sys2Proof.Machine.execAttestReport pkg r s
  | .attestPublicKey pkg r => Sys2Proof.Machine.execAttestPublicKey pkg r s
  | .flitReceive die axis f => Sys2Proof.Machine.execFlitReceive die axis f s
  | .linkTraining die axis up => Sys2Proof.Machine.execLinkTraining die axis up s
  | .linkDown die port => Sys2Proof.Machine.execLinkDown die port s
  | .ptpMessage pkg port offset adjust => Sys2Proof.Machine.execPtpMessage pkg port offset adjust s
  | .thermalEmergency die temp => Sys2Proof.Machine.execThermalEmergency die temp s
  | .boot pkg digest ok v => Sys2Proof.Machine.execBoot pkg digest ok v s
  | .scrub die pa => Sys2Proof.Machine.execScrub die pa s
  | .ptpMasterLoss pkg => Sys2Proof.Machine.execPtpMasterLoss pkg s
  | .laneFailure die axis => Sys2Proof.Machine.execLaneFailure die axis s

end Sys2Proof.Machine
end

