-- ==== Sys2Proof/Machine/Step.lean ====
section
/-! DEFINITION. One step of the fabric: the first entry of the agenda, or the step whose turn it is. -/

namespace Sys2Proof.Machine

/-- One step: an entry of the agenda comes after its ticks; without one, the entries of die slots that the next tick asks for (R406),
else the step whose turn it is, come a tick later.
DESIGN CHOICE, log 2. DESIGN CHOICE, log 7. -/
def step (s : State) : Host.Outcome State Fault Refusal :=
  match s.agenda with
  | (d, i) :: rest => exec i { s with agenda := rest, now := s.now + d }
  | [] =>
    match dueSyncs { s with now := s.now + 1 } with
    | i :: is => exec i { s with now := s.now + 1, agenda := is.map fun i => (0, i) }
    | [] =>
      match pick s with
      | some (c, i) => exec i { s with now := s.now + 1, turn := s.turn + 1, cur := c }
      | none => .next { s with now := s.now + 1 }

/-- The state with an instruction's words where the next step fetches them. DESIGN CHOICE, log 6. -/
def State.withFetchWord (s : State) (nbits w : Nat) : State := placeWords s (wordsOf (w % 2 ^ nbits))

end Sys2Proof.Machine
end

