-- ==== Sys2Proof/Safety.lean ====
section
/-! DEFINITION. What counts as a safe run: physical memory in its canonical form, no core that awaits an answer to a trap,
no queue in FAULT, no launch that is being killed. And the terms that claims about one operation are stated in: when nothing
stands in the way of its issue, the context its effect reads, what its retirement leaves. -/

namespace Sys2Proof.Machine

/-- Physical memory is in its one canonical form: addresses strictly rising, no zero entry. -/
abbrev Memory.wf (s : State) : Bool := s.mem.wf

/-- No core has trapped. -/
def State.untrapped (s : State) : Bool := s.cores.all fun c => c.2.run != .trapped

/-- No queue is in FAULT and no launch is being killed. -/
def State.unharmed (s : State) : Bool := (s.queues.all fun q => !q.2.bad) && s.launches.all fun l => l.2.doom.isNone

/-- A state of a safe run. -/
def State.safe (s : State) : Bool := Memory.wf s && s.untrapped && s.unharmed

/-! One plain operation of the current core. -/

/-- The core whose operation the next slot instruction is. -/
def State.self (s : State) : Core := s.core s.cur

/-- The state as the bundle of the current core is tried: what it waited for at its last attempt is forgotten (R227). -/
def State.tried (s : State) : State := s.setCore s.cur { s.self with waiting := [] }

/-- The state that the bundle of the current core issues on: the scale writes whose bundles have passed have landed (R211). -/
def State.begun (s : State) : State := s.tried.landed s.cur

/-- The same at an operation that takes an implicit restart mark before its bundle (R62). -/
def State.marked (s : State) : State := (implicitMark s.cur s.tried).landed s.cur

/-- What the effect of a plain operation reads (R41): its core as it stands, the PC, the next PC in sequence. -/
def State.ctx (s : State) (sl : Slot) : Ctx :=
  { c := s.cur, s, k := s.self, slot := sl, pc := s.self.pc, next := s.self.pc + 2, dropX := false, dropT := false
    dropK := false }

/-- The bundle of a plain operation before its effect. -/
def State.acc (s : State) : Acc :=
  { s, k := s.self, rnd := ⟨s.self.regs.seed, 0⟩, next := s.self.pc + 2, bubble := 0, relHeld := false, mtcr := none
    mark := false }

/-- Whether a core can use the tile of a register name at once: a freed tile needs the detect mode, a main tile its bank
ON and not waking (R40, R113, R147). -/
def Core.tileOn (k : Core) (r : Reg) : Bool :=
  match r.tileOf with
  | none => true
  | some t => if t < 128 then bankCode k.tbank (t / 16) == 0 && !k.waking.any (fun w => w.1 == t / 16) else k.ecc

/-- Whether the plain bundle of an operation finds nothing to wait for and nothing to trap on but what its own operands
ask for (R28 to R60, R454): its core is placed and its last bundle has issued, no other word is held, no register holds bad
check bits, its fields are legal, its words and `room` more lie in the half, its tiles are on, its registers are not busy,
the gated buffer has room, no test of a semaphore has taken anything for it. -/
def State.issues (s : State) (sl : Slot) (i : Instr) (room : Nat) : Bool :=
  let k := s.begun.self
  let rs := regReads k.regs.rrb i ++ regWrites k.regs.rrb i
  k.run == .placed && k.ready ≤ s.now && k.satTrap.isEmpty && k.granted.isNone && k.regs.held.isEmpty && k.bad.isEmpty
    && i.slots.contains sl && SlotWord.wf ⟨.plain, i⟩ && k.pc.toNat % 4096 + room ≤ 4095
    && rs.all k.tileOn && !rs.any k.isBusy && k.gated.length + gateNeed i ≤ 64

/-- What a core's retired plain bundle leaves of it (R32, R42, R211): `k` is the core as the effect left it. -/
def Core.retired (k : Core) (now : Nat) (next : BitVec 13) (bubble : Nat) : Core :=
  { k with
    regs := countScales k.regs, pc := next, seq := k.seq + 1, ready := now + 1 + bubble, hold := none, passed := none }

/-- The state after the current core's plain bundle retires: `t` is the rest of the state and `k` the core as the effect
left them; releases and pushes committed earlier that may perform now are performed. -/
def State.leaves (s t : State) (k : Core) (next : BitVec 13) (bubble : Nat) : State :=
  Sys2Proof.Machine.drain s.cur (t.setCore s.cur (k.retired s.now next bubble))

/-- The same where the operation ends its restart region: the mark is taken at the next bundle. -/
def State.leavesMark (s t : State) (k : Core) (next : BitVec 13) (bubble : Nat) : State :=
  Sys2Proof.Machine.drain s.cur (takeMark s.cur next (t.setCore s.cur (k.retired s.now next bubble)))

/-- The same where the operation writes scratchpad from the matrix unit or by a row sent, which ends its restart region: the
dirty lines of class 0 that earlier bundles stored are written down before it performs (R288, R293). -/
def State.leavesDown (s t : State) (k : Core) (next : BitVec 13) (bubble : Nat) : State :=
  let u := takeMark s.cur next (t.setCore s.cur (k.retired s.now next bubble))
  Sys2Proof.Machine.drain s.cur (u.setCore s.cur ((u.core s.cur).queueDown (s.self.seq - 1) fun e => e.cls.getLsbD 0))

/-- Where a scalar result named `rd` goes: nowhere for `s0` (R40, R98, R100). -/
def Core.scalarDest (k : Core) (rd : BitVec 5) : Dest := if rd == 0 then .none else .scalar (physScalar k.regs.rrb rd)

/-- Where a row result goes (R100, R144). -/
def Core.rowDest (k : Core) (t : BitVec 8) (r : BitVec 5) : Dest := .row (physTile k.regs.rrb t) r.toNat

/-- The core with a result put on its way: its register is busy until the tick `due` (R119, R153). -/
def Core.awaits (k : Core) (kind : LandKind) (d : Dest) (v : List Row) (fl : BitVec 5) (due : Nat) : Core :=
  { k with land := k.land ++ [⟨kind, d, v, fl, due, k.region, k.seq⟩] }

/-- The core with a scalar written at once, by its name. -/
def Core.setX (k : Core) (rd : BitVec 5) (v : W64) : Core :=
  { k with regs := k.regs.wrPhys (physScalar k.regs.rrb rd) v }

/-- The core with a scalar result of a latency: written at once after one cycle, else on its way (R119). -/
def Core.gets (k : Core) (now : Nat) (rd : BitVec 5) (v : W64) (lat : Nat) : Core :=
  if lat ≤ 1 then k.setX rd v else k.awaits (.scalar false) (k.scalarDest rd) [v.zeroExtend 1024] 0 (now + lat)

end Sys2Proof.Machine
end

