-- ==== Sys2Proof/Certificates/Slice0/Obligations.lean ====
section
/-! DEFINITION. The statements for the provers. Each `def Obligations.<Name>` is one claim; the tables before a claim say, from
the spec's own tables, what each instruction it covers gives. Where a claim rests on a choice of the model, its docstring
names the log entry. -/

namespace Sys2Proof

open Machine

/-! Encoding. -/

/-- R30, R31: a header of legal values is read back from the word the encoder writes; and a header word with a bit of 63:42
set, or of illegal values, is no header. -/
def HeaderRoundTripClaim : Prop :=
  (∀ h : Header, h.wf = true → decodeHeader (encodeHeader h) = some h) ∧
  (∀ w : W64, (field w 42 22 ≠ 0 ∨ (readHeader w).wf = false) → decodeHeader w = none)

/-- R28 to R35: the words of a plain bundle of one operation are read back as that operation. -/
def PlainBundleRoundTripClaim : Prop :=
  ∀ (c : Nat) (sl : Slot) (i : Instr), sl ≠ .v1 → (SlotWord.encodable sl ⟨.plain, i⟩) = true →
    decodeBundle c (encodePlain sl i) = some i

/-! A step runs what is fetched. -/

/-- R28, R32: the issue of the bundle at a core's PC and the step of the operation that its words decode to are one: for
every slot instruction that stands alone in a plain bundle, in every state. -/
def BundleIssueIsTheOperationClaim : Prop :=
  ∀ (s : State) (sl : Slot) (i : Instr), i.slots.head? = some sl → (s.core s.cur).regs.held = [] →
    decodeBundle s.cur ((s.core s.cur).ispm.readRun (s.core s.cur).pc.toNat 8) = some i →
    exec (.bundleIssue s.cur) s = exec i s

/-- What a bundle fetched as `h` and `ws` leaves where every enabled word can issue (R32, R36, R41, R60): the header's signal
with SAT = 0, then each enabled word's effect in slot order, every one reading the registers as they were before the bundle,
then the header's signal with SAT = 1. -/
def bundleEffect (c : Nat) (h : Header) (en : List IWord) (next : BitVec 13) (b : State) : Acc :=
  satSignal h (b.core c).pc ((ctxs c b next en).foldl (fun a w => slotEffect w.1.word.op w.2 a) (headerSignal c h
    { s := b, k := b.core c, rnd := ⟨(b.core c).regs.seed, 0⟩, next, bubble := 0, relHeld := false, mtcr := none
      mark := false }))

/-- What a bundle that writes scratchpad from the matrix unit or by a row sent does last: the dirty lines of class 0 that
bundles before it stored go down before it performs (R288, R293). -/
def zeroesDown (c : Nat) (en : List IWord) (seq : Nat) (s : State) : State :=
  if en.any fun w => match w.word.op with | .mouts _ | .send _ => true | _ => false then
    s.setCore c ((s.core c).queueDown (seq - 1) fun e => e.cls.getLsbD 0)
  else s

/-- R32, R36, R41, R60, R454: a bundle of a placed core whose words decode, which waits on no semaphore, names no sleeping
bank, no busy register and no bad word, holds no operation that marks, writes down or walks before its bundle, has room in
the gated buffer and takes no trap, issues: every enabled word has its effect, a disabled one has none. The order of the
header's signal beside the slots is the model's (log 40). -/
def BundleIssuesClaim : Prop :=
  ∀ (s : State) (c : Nat) (h : Header) (ws : List IWord),
    let q := s.setCore c { s.core c with waiting := [] }
    let b := q.landed c
    let k := b.core c
    let en := ws.filter fun w => w.enabled k
    let next := k.pc + 1 + BitVec.ofNat 13 (presCount h.pres)
    k.run = .placed → k.ready ≤ s.now → k.satTrap = [] → k.granted = none → k.bad = [] →
    (s.cluster (coreCluster c)).badSp = [] → fetch k = .ok (h, ws) →
    wakeBanks c ws q = none → h.mark = 0 → h.kind = 0 → h.wen = 0 → (ws.all fun w => !marksAlways w.word.op) = true →
    ((ctxs c b next en).all fun w => !marksBefore w.2 w.1.word.op
      && (match w.1.word.op with | .rpush _ | .ldsmp _ => false | _ => true)) = true →
    predsBusy k ws = false → regsBusy k en = false → k.gated.length + bundleNeed h en ≤ 64 →
    (∀ w ∈ ctxs c b next en, wordProbe en w = .go) → firstTrap c h ws en (ctxs c b next en) b = none →
    (fallsThrough k h en = true → k.pc.toNat % 4096 + 1 + presCount h.pres ≤ 4095) →
    let a := bundleEffect c h en next b
    let t := a.s.setCore c (retire h ws en (q.core c) a)
    exec (.bundleIssue c) s
      = .next (drain c (zeroesDown c en k.seq (if a.mark then takeMark c a.next t else t)))

/-! The S slot. -/

/-- R121, R123, R124, R126, R128: what the integer instructions write, and after how many cycles; `r` holds the registers
before the bundle. -/
def integerResult (r : Regs) : Instr → Option (BitVec 5 × W64 × Nat)
  | .add o => some (o.rd, BitVec.ofNat 64 ((r.rd o.ra).toNat + (r.rd o.rb).toNat), 1)
  | .sub o => some (o.rd, BitVec.ofInt 64 ((r.rd o.ra).toNat - (r.rd o.rb).toNat), 1)
  | .mul o => some (o.rd, BitVec.ofNat 64 ((r.rd o.ra).toNat * (r.rd o.rb).toNat), 3)
  | .mulh o => some (o.rd,
      if o.fn == 1 then BitVec.ofNat 64 ((r.rd o.ra).toNat * (r.rd o.rb).toNat / 2 ^ 64)
      else BitVec.ofInt 64 ((r.rd o.ra).toInt * (r.rd o.rb).toInt / 2 ^ 64), 3)
  | .addi o => some (o.rd, BitVec.ofInt 64 ((r.rd o.ra).toNat + o.imm.toInt), 1)
  | .and o => some (o.rd, r.rd o.ra &&& r.rd o.rb, 1)
  | .or o => some (o.rd, r.rd o.ra ||| r.rd o.rb, 1)
  | .xor o => some (o.rd, r.rd o.ra ^^^ r.rd o.rb, 1)
  | .shl o => some (o.rd, BitVec.ofNat 64 ((r.rd o.ra).toNat * 2 ^ (r.rd o.rb).toNat), 1)
  | .shr o => some (o.rd, BitVec.ofNat 64 ((r.rd o.ra).toNat / 2 ^ (r.rd o.rb).toNat), 1)
  | .sar o => some (o.rd, BitVec.ofInt 64 ((r.rd o.ra).toInt / 2 ^ (r.rd o.rb).toNat), 1)
  | .andi o => some (o.rd, r.rd o.ra &&& BitVec.ofInt 64 o.imm.toInt, 1)
  | .ori o => some (o.rd, r.rd o.ra ||| BitVec.ofInt 64 o.imm.toInt, 1)
  | .xori o => some (o.rd, r.rd o.ra ^^^ BitVec.ofInt 64 o.imm.toInt, 1)
  | .shli o => some (o.rd, BitVec.ofNat 64 ((r.rd o.ra).toNat * 2 ^ o.imm.toNat), 1)
  | .shri o => some (o.rd, BitVec.ofNat 64 ((r.rd o.ra).toNat / 2 ^ o.imm.toNat), 1)
  | .sari o => some (o.rd, BitVec.ofInt 64 ((r.rd o.ra).toInt / 2 ^ o.imm.toNat), 1)
  | .min o => some (o.rd,
      if o.fn == 1 then BitVec.ofNat 64 (Nat.min (r.rd o.ra).toNat (r.rd o.rb).toNat)
      else BitVec.ofInt 64 (min (r.rd o.ra).toInt (r.rd o.rb).toInt), 1)
  | .max o => some (o.rd,
      if o.fn == 1 then BitVec.ofNat 64 (Nat.max (r.rd o.ra).toNat (r.rd o.rb).toNat)
      else BitVec.ofInt 64 (max (r.rd o.ra).toInt (r.rd o.rb).toInt), 1)
  | .clz o => some (o.rd, if r.rd o.ra == 0 then 64 else BitVec.ofNat 64 (63 - Nat.log2 (r.rd o.ra).toNat), 1)
  | .popc o => some (o.rd, BitVec.ofNat 64 ((List.range 64).countP fun k => (r.rd o.ra).getLsbD k), 1)
  | .movi o => some (o.rd, BitVec.ofInt 64 o.imm.toInt, 1)
  | .movhi o => some (o.rd, BitVec.ofNat 64 (o.imm.toNat * 2 ^ 46 + (r.rd o.rd).toNat % 2 ^ 46), 1)
  | .sel o => some (o.rd, if r.pr (o.fn.extractLsb' 0 5) == o.fn.getLsbD 5 then r.rd o.rb else r.rd o.ra, 1)
  | .pget o => some (o.rd, BitVec.ofNat 64 r.p.toNat, 1)
  | _ => none

/-- R119, R121, R123, R124, R126, R128: each integer instruction whose bundle finds nothing to wait for completes with the
result of its table row, read from the registers before the bundle: a result of one cycle at once, one of more on its way
to its register. A result for `s0` goes nowhere. Nothing else of the machine changes but the issue's own PC and count. -/
def IntegerResultsClaim : Prop :=
  ∀ (s : State) (i : Instr) (rd : BitVec 5) (v : W64) (lat : Nat), s.issues .s i 2 = true →
    integerResult s.begun.self.regs i = some (rd, v, lat) →
    exec i s = .next (s.leaves s.begun (s.begun.self.gets s.now rd v lat) (s.self.pc + 2) 0)

/-- The condition of CMP and CMPI by FN (R125). -/
def conditionHolds (fn : Nat) (a b : W64) : Prop :=
  match fn with
  | 0 => a = b | 1 => a ≠ b
  | 2 => a.toInt < b.toInt | 3 => a.toInt ≥ b.toInt
  | 4 => a.toNat < b.toNat | 5 => a.toNat ≥ b.toNat
  | 6 => a &&& b ≠ 0 | _ => a &&& b = 0

/-- The core with one predicate written (R117). -/
def withPred (k : Core) (n : BitVec 5) (b : Bool) : Core := { k with regs := k.regs.setPr n.toNat b }

/-- R125, R127, R128: the predicate instructions. CMP and CMPI write their condition, PLOG the bit of its truth table that
its sources select, PSET every predicate that its mask names; nothing else changes. -/
def PredicatesClaim : Prop :=
  ∀ (s : State) (b : Bool),
    let r := s.begun.self.regs
    (∀ o : SReg, s.issues .s (.cmp o) 2 = true → (b = true ↔ conditionHolds o.fn.toNat (r.rd o.ra) (r.rd o.rb)) →
      exec (.cmp o) s = .next (s.leaves s.begun (withPred s.begun.self o.rd b) (s.self.pc + 2) 0)) ∧
    (∀ o : SImm, s.issues .s (.cmpi o) 2 = true →
      (b = true ↔ conditionHolds o.fn.toNat (r.rd o.ra) (BitVec.ofInt 64 o.imm.toInt)) →
      exec (.cmpi o) s = .next (s.leaves s.begun (withPred s.begun.self o.rd b) (s.self.pc + 2) 0)) ∧
    (∀ o : SPred, s.issues .s (.plog o) 2 = true →
      b = o.tt.getLsbD ((if r.pr o.pa then 2 else 0) + (if r.pr o.pb then 1 else 0)) →
      exec (.plog o) s = .next (s.leaves s.begun (withPred s.begun.self o.pd b) (s.self.pc + 2) 0)) ∧
    (∀ (o : SReg) (p : BitVec 24), s.issues .s (.pset o) 2 = true →
      (∀ n < 24, p.getLsbD n = if (r.rd o.rb).getLsbD n then (r.rd o.ra).getLsbD n else r.p.getLsbD n) →
      exec (.pset o) s = .next (s.leaves s.begun { s.begun.self with regs := { r with p } } (s.self.pc + 2) 0))

/-! Rounding. -/

/-- The floating formats of R73, but for the scale format. -/
def floatFormats : List FloatFmt := [fp32, fp16, bf16, e4m3, e5m2, e3m2, e2m3, e2m1]

/-- R73, R79, R80, R82: a value that a format holds converts to that format as itself, in every rounding mode and whatever
is drawn, and raises no flag; a NaN becomes the one NaN that any operation writes. -/
def HeldValuesRoundToThemselvesClaim : Prop :=
  ∀ f ∈ floatFormats, ∀ (bits d : Nat) (mode : Mode) (sat : Bool), bits < 2 ^ f.width → d < 2 ^ 16 →
    ((f.value bits).isNan = false → roundWith (f.value bits) (.flt f) mode sat d = (bits, 0)) ∧
    ((f.value bits).isNan = true → roundWith (f.value bits) (.flt f) mode sat d = (f.nanCode, 0))

/-- R85: what a finite value gives whose magnitude lies at or above the power of two beyond the format's largest value:
OF and NX, and the result of the table by target, SAT and mode. -/
def OverflowResultClaim : Prop :=
  ∀ f ∈ floatFormats, ∀ (neg : Bool) (m d : Nat) (e : Int) (mode : Mode) (sat : Bool), m ≠ 0 → d < 2 ^ 16 →
    (∀ (n : Bool) (m' : Nat) (e' : Int), f.value f.maxCode = .fin n m' e' → topExp m' e' < topExp m e) →
    let max := (if neg then 2 ^ (f.exp + f.man) else 0) + f.maxCode
    let inf := (if neg then 2 ^ (f.exp + f.man) else 0) + f.infCode
    let (code, flags) := roundWith (.fin neg m e) (.flt f) mode sat d
    flags = fOF ||| fNX ∧
    (f.sp = .finiteOnly → code = max) ∧
    (f.sp = .nanOnly → code = if sat then max else f.nanCode) ∧
    (f.sp = .ieee → sat = true → code = max) ∧
    (f.sp = .ieee → sat = false → code = match mode with
      | .rne | .rsto => inf
      | .rz => max
      | .rdn => if neg then inf else max
      | .rup => if neg then max else inf)

/-- R78, R83: a rounding under RSTO steps the generator once, by the three shifts of R78, whatever the value holds; a
rounding in another mode leaves it. -/
def RoundingDrawsClaim : Prop :=
  ∀ (x : XVal) (f : Fmt) (mode : Mode) (sat : Bool) (r : Rnd),
    let a := r.seed ^^^ (r.seed <<< 13)
    let b := a ^^^ (a >>> 17)
    (mode = .rsto → (round x f mode sat r).2.seed = b ^^^ (b <<< 5)
      ∧ (round x f mode sat r).1 = (roundWith x f .rsto sat ((b ^^^ (b <<< 5)).toNat % 65536)).1) ∧
    (mode ≠ .rsto → (round x f mode sat r).2.seed = r.seed ∧ (round x f mode sat r).1 = (roundWith x f mode sat 0).1)

/-- The mode that an RM field selects (R38, R76). -/
def modeField (r : Regs) (rm : BitVec 3) : Mode := modeOf (if rm = 0 then r.rmode.toNat else rm.toNat)

/-- The exact value of a scalar operand (R79, R98, R129). -/
def exactScalar (r : Regs) (ty n : BitVec 5) : XVal := (fmtOf ty).value (r.rd n).toNat

/-- R129, R131: the exact result, with the flags of its own, and the latency of each instruction that rounds it once. -/
def floatExact (r : Regs) : Instr → Option (SFloat × (XVal × BitVec 5) × Nat)
  | .fadd o => some (o, xadd (modeField r o.rm) (exactScalar r o.ty o.ra) (exactScalar r o.ty o.rb), 4)
  | .fsub o => some (o, xadd (modeField r o.rm) (exactScalar r o.ty o.ra) (exactScalar r o.ty o.rb).neg, 4)
  | .fmul o => some (o, xmul (exactScalar r o.ty o.ra) (exactScalar r o.ty o.rb), 4)
  | .ffma o => some (o, xfma (modeField r o.rm) (exactScalar r o.ty o.ra) (exactScalar r o.ty o.rb) (exactScalar r o.ty o.rd), 4)
  | .fdiv o => some (o, xdiv (exactScalar r o.ty o.ra) (exactScalar r o.ty o.rb), 14)
  | .fsqrt o => some (o, xsqrt (exactScalar r o.ty o.ra), 14)
  | .fcvt o => if o.ty = o.tys then none else some (o, (exactScalar r o.tys o.ra, 0), 4)
  | .icvtf o => some (o, (exactScalar r o.tys o.ra, 0), 4)
  | _ => none

/-- A core whose generator has been stepped (R78). -/
def Machine.Core.seeded (k : Core) (v : BitVec 32) : Core := { k with regs := { k.regs with seed := v } }

/-- R80, R119, R129, R131: a floating instruction's exact result is rounded once, to its format in its mode; the bits,
zero-extended, and the flags are on their way to its register for its latency, and the generator holds what its draws left. -/
def FloatResultsClaim : Prop :=
  ∀ (s : State) (i : Instr) (o : SFloat) (x : XVal × BitVec 5) (lat : Nat), s.issues .s i 2 = true →
    floatExact s.begun.self.regs i = some (o, x, lat) →
    let k := s.begun.self
    let (bits, r) := round x.1 (fmtOf o.ty) (modeField k.regs o.rm) (o.sat == 1) ⟨k.regs.seed, x.2⟩
    exec i s = .next (s.leaves s.begun
      ((k.awaits (.scalar true) (k.scalarDest o.rd) [(BitVec.ofNat 64 bits).zeroExtend 1024] r.flags (s.now + lat)).seeded r.seed)
      (s.self.pc + 2) 0)

/-- R90, R130, R131, R168: the floating instructions that round nothing, and the one to an integer. FMIN and FMAX give one
of their operands by R90; FCMP writes its condition and raises NV for an ordered comparison with a NaN; FCVT to its own
type changes a NaN alone; FCVTI rounds to the integer format and extends by its signedness. -/
def FloatSelectionsClaim : Prop :=
  ∀ (s : State) (o : SFloat),
    let k := s.begun.self
    let a := exactScalar k.regs o.ty o.ra
    let b := exactScalar k.regs o.ty o.rb
    let un := a.isNan || b.isNan
    let cond := match o.tys.toNat with
      | 0 => xeq a b
      | 1 => !xeq a b
      | 2 => !un && xlt a b
      | 3 => !un && (xlt a b || xeq a b)
      | 4 => !un && xlt b a
      | 5 => !un && (xlt b a || xeq a b)
      | 6 => un
      | _ => !un
    let nv : BitVec 5 := if un && 2 ≤ o.tys.toNat && o.tys.toNat ≤ 5 then fNV else 0
    let pick := fun (x : XVal) => BitVec.ofNat 64 (roundWith x (fmtOf o.ty) .rne false 0).1
    (s.issues .s (.fmin o) 2 = true →
      exec (.fmin o) s = .next (s.leaves s.begun (k.gets s.now o.rd (pick (xmin a b)) 4) (s.self.pc + 2) 0)) ∧
    (s.issues .s (.fmax o) 2 = true →
      exec (.fmax o) s = .next (s.leaves s.begun (k.gets s.now o.rd (pick (xmax a b)) 4) (s.self.pc + 2) 0)) ∧
    (s.issues .s (.fcmp o) 2 = true →
      exec (.fcmp o) s
        = .next (s.leaves s.begun (k.awaits (.scalar true) (.pred o.rd.toNat) [rowOf cond.toNat] nv (s.now + 4)) (s.self.pc + 2) 0)) ∧
    (o.ty = o.tys → s.issues .s (.fcvt o) 2 = true →
      exec (.fcvt o) s
        = .next (s.leaves s.begun (k.gets s.now o.rd (BitVec.ofNat 64 (selfConv (fmtOf o.ty) (k.regs.rd o.ra).toNat)) 4)
            (s.self.pc + 2) 0)) ∧
    (s.issues .s (.fcvti o) 2 = true →
      let (bits, r) := round (exactScalar k.regs o.tys o.ra) (fmtOf o.ty) (modeField k.regs o.rm) false ⟨k.regs.seed, 0⟩
      let v : W64 := match fmtOf o.ty with
        | .int true w => BitVec.ofInt 64 (toSigned w bits)
        | _ => BitVec.ofNat 64 bits
      exec (.fcvti o) s
        = .next (s.leaves s.begun
            ((k.awaits (.scalar true) (k.scalarDest o.rd) [v.zeroExtend 1024] r.flags (s.now + 4)).seeded r.seed)
            (s.self.pc + 2) 0))

/-! Control flow. -/

/-- R46: the word a half-relative target names: a place in the same half, a target of the other half being no target. -/
def sameHalf (pc t : BitVec 13) : Prop := t.getLsbD 12 = pc.getLsbD 12

/-- R132, R133, R136, R46, R120: BR, BRL, BRR and BRSWAP pass control, at two cycles. A target lies in the branch's own
half, but BRSWAP's in the other; BRL and BRR write the next bundle's word number to their link. BRSWAP empties the loop
buffer. A BRR whose target is not in its half does not branch: it takes ISPM_RANGE with the target's PC unwritten. -/
def BranchesClaim : Prop :=
  ∀ s : State,
    let k := s.begun.self
    (∀ (o : SBranch) (t : BitVec 13), s.issues .s (.br o) 1 = true → o.tgt.getLsbD 12 = false →
      t.extractLsb' 0 12 = o.tgt.extractLsb' 0 12 → sameHalf s.self.pc t →
      exec (.br o) s = .next (s.leaves s.begun k t 2)) ∧
    (∀ (o : SBranch) (t : BitVec 13), s.issues .s (.brl o) 1 = true → o.tgt.getLsbD 12 = false →
      t.extractLsb' 0 12 = o.tgt.extractLsb' 0 12 → sameHalf s.self.pc t →
      exec (.brl o) s = .next (s.leaves s.begun (k.setX o.rd ((s.self.pc + 2).zeroExtend 64)) t 2)) ∧
    (∀ (o : SReg) (t : BitVec 13), s.issues .s (.brr o) 1 = true → k.regs.rd o.ra = t.zeroExtend 64 →
      sameHalf s.self.pc t →
      exec (.brr o) s = .next (s.leaves s.begun (k.setX o.rd ((s.self.pc + 2).zeroExtend 64)) t 2)) ∧
    (∀ (o : SReg), s.issues .s (.brr o) 1 = true →
      (∀ t : BitVec 13, k.regs.rd o.ra = t.zeroExtend 64 → ¬ sameHalf s.self.pc t) →
      exec (.brr o) s = .next (drain s.cur (takeTrap s.cur 0 .ispmRange 0 0 s.tried))) ∧
    (∀ (o : SBranch) (t : BitVec 13), s.issues .s (.brswap o) 1 = true → (∀ v ∈ k.ovls, v.half = s.self.pc.getLsbD 12) → o.tgt.getLsbD 12 = true →
      t.extractLsb' 0 12 = o.tgt.extractLsb' 0 12 → ¬ sameHalf s.self.pc t →
      exec (.brswap o) s = .next (s.leaves s.begun { k with loopBuf := none } t 2))

/-- The stage predicate of R105: `p(16+k)` from ESC and LC0. -/
def stageHolds (void : Bool) (fill depth lc0 k : Nat) : Bool := !void && decide (k ≤ fill) && decide (depth ≤ lc0 + k)

/-- R101: LOOP loads a count, never below zero; staged, it loads LC0 with the executions still to come, sets ESC, and
computes every stage predicate. The general registers and the rest of the core are unchanged. -/
def LoopSetUpClaim : Prop :=
  ∀ (s : State) (o : SImm) (r : Regs), s.issues .s (.loop o) 2 = true →
    let k := s.begun.self
    let v : W64 := k.regs.rd o.ra + BitVec.ofInt 64 o.imm.toInt
    let e : Nat := o.fn.toNat % 8
    let lc0 : Nat := if v.toInt < 0 then e else v.toNat + e
    (o.fn.getLsbD 3 = false →
      exec (.loop o) s = .next (s.leaves s.begun
        { k with regs := { k.regs with lc := k.regs.lc.write o.rd.toNat (if v.toInt < 0 then 0 else v) } }
        (s.self.pc + 2) 0)) ∧
    (o.fn.getLsbD 3 = true →
      r = { k.regs with
        lc := k.regs.lc.write 0 (BitVec.ofNat 64 lc0), depth := BitVec.ofNat 3 e, fill := 0, void := decide (v.toInt < 0)
        p := r.p } →
      (∀ n < 24, r.p.getLsbD n = if n < 16 then k.regs.p.getLsbD n else stageHolds (decide (v.toInt < 0)) 0 e lc0 (n - 16)) →
      exec (.loop o) s = .next (s.leaves s.begun { k with regs := r } (s.self.pc + 2) 0))

/-- R103, R105, R106, R107: LOOPB. On LC1 to LC5 it counts down while the count is above one and else clears it and falls
through; on LC0 a taken back-edge also advances FILL, RRB and every stage predicate, and a fall-through changes none of
them. A taken LOOPB costs nothing where the loop buffer holds its target, and two cycles else; falling through empties it.
That the 64 words of a back-edge which the buffer holds (R107) are counted from the LOOPB's bundle header is the model's choice
(log 51). -/
def LoopBackClaim : Prop :=
  ∀ (s : State) (o : SBranch) (t : BitVec 13) (r : Regs), s.issues .s (.loopb o) 2 = true →
    t.extractLsb' 0 12 = o.tgt.extractLsb' 0 12 → o.tgt.getLsbD 12 = false → sameHalf s.self.pc t →
    let k := s.begun.self
    let n := o.fn.toNat
    let c := k.regs.lc.read n
    let captured : Bool := (k.loopBuf.map (·.2)) == some t
    let short : Bool := decide (t.toNat ≤ s.self.pc.toNat ∧ s.self.pc.toNat ≤ t.toNat + 64)
    let buf := if short then some (s.self.pc, t) else k.loopBuf
    (n ≠ 0 → 1 < c.toNat →
      exec (.loopb o) s = .next (s.leaves s.begun
        { k with regs := { k.regs with lc := k.regs.lc.write n (c - 1) }, loopBuf := buf } t (if captured then 0 else 2))) ∧
    (n ≠ 0 → c.toNat ≤ 1 →
      exec (.loopb o) s = .next (s.leaves s.begun
        { k with regs := { k.regs with lc := k.regs.lc.write n 0 }, loopBuf := none } (s.self.pc + 2) 0)) ∧
    (n = 0 → c = 0 →
      exec (.loopb o) s = .next (s.leaves s.begun { k with loopBuf := none } (s.self.pc + 2) 0)) ∧
    (n = 0 → c ≠ 0 →
      r = { k.regs with
        lc := k.regs.lc.write 0 (c - 1), fill := BitVec.ofNat 3 (min (k.regs.fill.toNat + 1) 7), rrb := k.regs.rrb + 1
        p := r.p } →
      (∀ j < 24, r.p.getLsbD j = if j < 16 then k.regs.p.getLsbD j
        else stageHolds k.regs.void (min (k.regs.fill.toNat + 1) 7) k.regs.depth.toNat (c - 1).toNat (j - 16)) →
      exec (.loopb o) s = .next (s.leaves s.begun { k with regs := r, loopBuf := buf } t (if captured then 0 else 2)))

/-! Control registers, traps, fences, handles. -/

/-- What an MFCR reads (R18, R21, R76 to R78, R102, R104, R109 to R117): a register's map at the value before the bundle. -/
def controlValue (s : State) (n : Nat) : W64 :=
  let c := s.cur
  let k := s.begun.self
  let r := k.regs
  match n with
  | 0x000 => BitVec.ofNat 64
      ((c / 384) * 2 ^ 18 + (c % 384) * 2 ^ 9 + (c % 384 / 48) * 2 ^ 6 + (c % 384 / 8 % 6) * 2 ^ 3 + c % 8)
  | 0x001 => BitVec.ofNat 64 (s.pkg (c / 384)).topo.toNat
  | 0x002 => BitVec.ofNat 64 k.image.toNat
  | 0x003 => BitVec.ofNat 64 ((if k.ecc then 2 ^ 8 else 0) + k.tiles.toNat)
  | 0x010 => BitVec.ofNat 64 r.rmode.toNat
  | 0x011 => BitVec.ofNat 64 k.flags.toNat
  | 0x012 => BitVec.ofNat 64 r.seed.toNat
  | 0x020 => BitVec.ofNat 64 r.rrb.toNat
  | 0x021 => BitVec.ofNat 64 ((if r.void then 2 ^ 7 else 0) + r.fill.toNat * 2 ^ 4 + r.depth.toNat)
  | 0x030 => s.tbase (c / 384)
  | 0x031 => BitVec.ofNat 64 k.bconf.toNat
  | 0x040 => BitVec.ofNat 64 k.tbank.toNat
  | 0x041 => BitVec.ofNat 64 (k.uncorr.toNat * 2 ^ 16 + k.corr.toNat)
  | 0x048 => BitVec.ofNat 64 r.scout.toNat
  | n => if 0x028 ≤ n ∧ n ≤ 0x02D then r.lc.read (n - 0x028) else 0

/-- What an MTCR leaves of a core (R3, R76 to R78, R102, R104, R110, R115, R117): the register's map takes the value, a value
that its map discards leaves it, and a read-only register keeps its own. TBANK is a statement of its own. -/
def controlWritten (k : Core) (n : Nat) (v : W64) : Core :=
  let r := k.regs
  let low := fun (b : Nat) => v.toNat % 2 ^ b
  match n with
  | 0x010 => if 1 ≤ low 3 ∧ low 3 ≤ 5 then { k with regs := { r with rmode := BitVec.ofNat 3 (low 3) } } else k
  | 0x011 => { k with flags := BitVec.ofNat 5 (low 5) }
  | 0x012 => { k with regs := { r with seed := BitVec.ofNat 32 (if low 32 = 0 then 1 else low 32) } }
  | 0x020 => { k with regs := { r with rrb := BitVec.ofNat 5 (low 5) } }
  | 0x021 => { k with regs := { r with
      void := v.getLsbD 7, fill := BitVec.ofNat 3 (v.toNat / 2 ^ 4), depth := BitVec.ofNat 3 (low 3) } }
  | 0x031 => { k with bconf := BitVec.ofNat 32 (low 32) }
  | 0x048 => if low 7 ≤ 64 then { k with regs := { r with scout := BitVec.ofNat 7 (low 7) } } else k
  | n => if 0x028 ≤ n ∧ n ≤ 0x02D then { k with regs := { r with lc := r.lc.write (n - 0x028) v } } else k

/-- R3, R108, R109, R140: MFCR reads a control register as it stood before the bundle, and an MFCR of FLAGS waits for
nothing where no raiser is on its way; MTCR writes one after the bundle. Nothing else of the machine changes. -/
def ControlRegistersClaim : Prop :=
  ∀ (s : State) (o : SCtl),
    let k := s.begun.self
    (s.issues .s (.mfcr o) 2 = true → (o.cr = 0x011 → k.flagsPending = false) →
      exec (.mfcr o) s = .next (s.leaves s.begun (k.gets s.now o.rd (controlValue s o.cr.toNat) 1) (s.self.pc + 2) 0)) ∧
    (s.issues .s (.mtcr o) 2 = true → o.cr ≠ 0x040 →
      exec (.mtcr o) s
        = .next (s.leaves s.begun (controlWritten k o.cr.toNat (k.regs.rd o.ra)) (s.self.pc + 2) 0))

/-- R113, R141, R146, R148, R149: an MTCR of TBANK, once its mark is taken and no access to a bank it changes is left. A
value with a field of 11, or with anything but OFF for a bank that is not allotted, is discarded in whole. Else TBANK holds
the value; every row of a bank turned OFF, and of no other, reads zero from then on; a RETAIN bank turned ON is awake 64
cycles later. -/
def TileBankWriteClaim : Prop :=
  ∀ (s : State) (o : SCtl), s.issues .s (.mtcr o) 2 = true → o.cr = 0x040 →
    let k := s.marked.self
    let v : BitVec 16 := (k.regs.rd o.ra).truncate 16
    bankBusy k v = false →
    ∃ k' : Core, exec (.mtcr o) s = .next (s.leaves s.marked k' (s.self.pc + 2) 0) ∧
      (((List.range 8).any fun b => bankCode v b == 3 || (k.tiles.toNat ≤ 16 * b && bankCode v b != 2)) = true → k' = k) ∧
      (((List.range 8).all fun b => bankCode v b != 3 && (decide (16 * b < k.tiles.toNat) || bankCode v b == 2)) = true →
        k'.tbank = v ∧ k'.regs = k.regs ∧
        (∀ t r, t < 128 → r < 32 →
          k'.row t r = if bankCode v (t / 16) = 2 ∧ bankCode k.tbank (t / 16) ≠ 2 then 0 else k.row t r) ∧
        (∀ b < 8, bankCode v b = 0 → bankCode k.tbank b = 1 → (b, s.now + 64) ∈ k'.waking))

/-- R13, R137, R424, R426: TRAP takes the trap TRAP whatever else is so: the core stops where it is, with no rollback; its
record holds the PC, slot 0, code 0x13 and the immediate; the launch counts it and the host is told. No bundle follows: the
PC does not move. -/
def TrapInstructionClaim : Prop :=
  ∀ (s : State) (o : SWide), s.issues .s (.trap o) 2 = true →
    let k := s.tried.self
    let l := s.launch k.launch
    exec (.trap o) s = .next (Sys2Proof.Machine.drain s.cur
      (((s.tried.setCore s.cur { k with
        run := .trapped, loopBuf := none, hold := none, waiting := [], granted := none, arrC := false, arrG := false
        trap := { state := 1, pc := k.pc, rb := false, slot := 0, code := 0x13, w1 := o.imm.zeroExtend 64, w2 := 0, ans := 0 } }).setLaunch
        k.launch { l with traps := l.traps + 1 }).notify (s.cur / 384) ⟨2, s.cur % 384, 0x13, 0⟩))

/-- R118, R139, R274, R426: a page-class trap rolls back. The core stands trapped at its mark with nothing gated and no
decrement to return; its registers are the shadow's, every handle that was not INVALID being PENDING again; tile rows stand
as they are; the record says that it rolled back. -/
def PageTrapRollsBackClaim : Prop :=
  ∀ (s : State) (c slot : Nat) (t : Trap) (w1 w2 : W64), t.pageClass = true →
    let k := s.core c
    let k' := (takeTrap c slot t w1 w2 s).core c
    k'.run = .trapped ∧ k'.pc = k.mark ∧ k'.gated = [] ∧ k'.decr = [] ∧ k'.tile = k.tile ∧ k'.tbank = k.tbank ∧
    k'.regs = { k.shadow with h := k'.regs.h } ∧
    (∀ h, (k'.regs.handle h).state
      = if (k.shadow.handle h).state = .invalid then .invalid else .pending) ∧
    (∀ h, (k'.regs.handle h).va = (k.shadow.handle h).va) ∧
    k'.trap.rb = true ∧ k'.trap.pc = k.mark ∧ k'.trap.slot = slot ∧ k'.trap.code = t.code ∧ k'.trap.w1 = w1 ∧ k'.trap.w2 = w2

/-- A fence's time after its waits (R305 to R307). -/
def fenceTicks (s : State) : Instr → Option Nat
  | .fenceC o | .fenceSc o => some (match o.sc.toNat with
      | 0 => 4 | 1 => 12 | 2 => 20 | 3 => 30
      | _ => if (s.pkg (s.cur / 384)).topo.extractLsb' 0 3 = 0 then 30 else 30 + 480 * longestPath (s.pkg (s.cur / 384)))
  | .spfence => some 4
  | .fenceSmp => some 220
  | _ => none

/-- What a fence waits for (R304 to R307). -/
def fenceStalls (k : Core) : Instr → Bool
  | .fenceC o => fenceWaits k o.mask o.sc
  | .fenceSc o => fenceWaits k 0xFFFF o.sc || anythingPending k
  | .spfence => bankWaits k
  | .fenceSmp => storeWaits k
  | _ => false

/-- What a fence leaves once it is over (R255, R304 to R307): at CLUSTER scope or wider no clean byte of the L1, after SPFENCE
no entry of the operand cache, after FENCE.SMP an empty sampler cache of the cluster. -/
def fenceDone (m : State) : Instr → State
  | .fenceC o | .fenceSc o => if o.sc = 0 then m else m.setCore m.cur m.self.dropClean
  | .spfence => m.setCore m.cur { m.self with opc := [] }
  | .fenceSmp => m.setCluster (coreCluster m.cur) { m.cluster (coreCluster m.cur) with samp := [] }
  | _ => m

/-- R303 to R307: a fence with nothing left to wait for or to write down takes its mark, waits its time, counted from the
end of its other waits, and completes with its effect. The number of ticks is the model's for a closed or an open fabric
(log 3). -/
def FencesClaim : Prop :=
  ∀ (s : State) (i : Instr) (n : Nat),
    let m := s.marked
    let w := implicitMark s.cur s.tried
    s.issues .s i 2 = true → fenceTicks s i = some n → fenceStalls m.self i = false →
    downBefore w.self i = w.self →
    (s.self.hold = none →
      exec i s = .next (drain s.cur
        (let t := w.setCore s.cur { w.self with hold := some (s.now + n) }
         if i = .fenceSmp then t.setCluster (coreCluster s.cur) { t.cluster (coreCluster s.cur) with sampTo := s.now + n }
         else t))) ∧
    (∀ t, s.self.hold = some t → t ≤ s.now →
      exec i s = .next (s.leaves (fenceDone m i) (fenceDone m i).self (s.self.pc + 2) 0))

/-- R135: IFENCE completes once no overlay load of its core is in flight, and empties the loop buffer; it orders nothing
else and changes nothing else. -/
def InstructionFenceClaim : Prop :=
  ∀ s : State, s.issues .s .ifence 2 = true → s.begun.self.ovls = [] →
    exec .ifence s = .next (s.leaves s.begun { s.begun.self with loopBuf := none } (s.self.pc + 2) 0)

/-- R58: NOP exists in every slot and has no effect: a plain bundle of it passes, and that is all. -/
def NopHasNoEffectClaim : Prop :=
  ∀ (s : State) (sl : Slot), s.issues sl (.nop sl) 2 = true →
    exec (.nop sl) s = .next (s.leaves s.begun s.begun.self (s.self.pc + 2) 0)

/-! The V slots. -/

/-- A row result: its row, the row's bits, the flags it raises, the generator's state after its draws, its latency, and
whether its instruction can raise a flag at all (R120: an MFCR of FLAGS waits for it). -/
structure RowOut where
  td    : BitVec 8
  rowd  : BitVec 5
  val   : Nat
  flags : BitVec 5
  seed  : BitVec 32
  lat   : Nat
  may   : Bool := false

section
variable (k : Core)

/-- Element `i` of a row, of a type's width (R9, R157). -/
def rowElem (ty : BitVec 5) (t : BitVec 8) (r : BitVec 5) (i : Nat) : Nat :=
  let w := (fmtOf ty).width
  (k.row (physTile k.regs.rrb t) r.toNat).toNat / 2 ^ (w * i) % 2 ^ w

/-- The element operand of a V-scalar form: the low bits of its scalar (R165). -/
def scalarElem (ty sb : BitVec 5) (_ : Nat) : Nat := (k.regs.rd sb).toNat % 2 ^ (fmtOf ty).width

/-- A row of results that round nothing: `n` elements of `w` bits. -/
def plainOut (td : BitVec 8) (rowd : BitVec 5) (w n lat : Nat) (g : Nat → Nat) : RowOut :=
  ⟨td, rowd, pack w ((List.range n).map g), 0, k.regs.seed, lat, false⟩

/-- A row of results each rounded once, in ascending order (R80, R83, R157). -/
def roundedOut (td : BitVec 8) (rowd : BitVec 5) (ty : BitVec 5) (mode : Mode) (sat : Bool) (n lat : Nat)
    (g : Nat → XVal × BitVec 5) : RowOut :=
  let (v, r) := roundRow (fmtOf ty) mode sat n g ⟨k.regs.seed, 0⟩
  ⟨td, rowd, v, r.flags, r.seed, lat, true⟩

/-- R157: an element-wise operation by its exact results on floats and on integers. -/
def elementwise (td : BitVec 8) (rowd ty : BitVec 5) (rm : BitVec 3) (sat : BitVec 1) (ea eb ed : Nat → Nat)
    (ff : Mode → XVal → XVal → XVal → XVal × BitVec 5) (fi : Int → Int → Int → Int) : RowOut :=
  let n := 1024 / (fmtOf ty).width
  match fmtOf ty with
  | .int s w => plainOut k td rowd w n 4 fun i =>
      let v := fi (intOf s w (ea i)) (intOf s w (eb i)) (intOf s w (ed i))
      let lo : Int := if s then -2 ^ (w - 1) else 0
      let hi : Int := if s then 2 ^ (w - 1) - 1 else 2 ^ w - 1
      if sat = 1 then wrapInt w (max lo (min hi v)) else wrapInt w v
  | .flt f => roundedOut k td rowd ty (modeField k.regs rm) (sat == 1) n 4 fun i =>
      ff (modeField k.regs rm) (f.value (ea i)) (f.value (eb i)) (f.value (ed i))

/-- An element-wise operation that gives one of its operands, or a bound: nothing is rounded (R90, R159). -/
def selecting (td : BitVec 8) (rowd ty : BitVec 5) (ea eb : Nat → Nat) (ff : XVal → XVal → XVal) (fi : Int → Int → Int) :
    RowOut :=
  let n := 1024 / (fmtOf ty).width
  match fmtOf ty with
  | .int s w => plainOut k td rowd w n 2 fun i => wrapInt w (fi (intOf s w (ea i)) (intOf s w (eb i)))
  | .flt f => plainOut k td rowd f.width n 2 fun i =>
      (roundWith (ff (f.value (ea i)) (f.value (eb i))) (.flt f) .rne false 0).1

/-- A reduction (R97, R169): its leaves, and how two lanes combine; element 0 holds the result, every other is zero. -/
def reduction (o : VThree) (leafI : Bool → Nat → Nat → Int) (foldI : Int → Int → Int)
    (leafF : FloatFmt → Nat → Rnd → XVal × Rnd) (opF : XVal → XVal → Rnd → XVal × Rnd) (rounds : Bool) : RowOut :=
  let n := 1024 / (fmtOf o.ty).width
  match fmtOf o.ty with
  | .int s w =>
    let v := ((List.range (n - 1)).map fun i => leafI s w (i + 1)).foldl foldI (leafI s w 0)
    let lo : Int := if s then -2 ^ (w - 1) else 0
    let hi : Int := if s then 2 ^ (w - 1) - 1 else 2 ^ w - 1
    ⟨o.td, o.rowd, if o.sat = 1 then wrapInt w (max lo (min hi v)) else wrapInt w v, 0, k.regs.seed, 8, false⟩
  | .flt f =>
    let (ls, r) := mapRnd (leafF f) (List.range n) ⟨k.regs.seed, 0⟩
    let (vs, r) := tree opF 8 ls r
    let v := vs.headD .nan
    if rounds && o.ty != 0x08 then
      let (b, r) := round v (.flt f) (modeField k.regs o.rm) (o.sat == 1) r
      ⟨o.td, o.rowd, b, r.flags, r.seed, 8, true⟩
    else ⟨o.td, o.rowd, (roundWith v (.flt f) .rne false 0).1, r.flags, r.seed, 8, rounds⟩

/-- R158 to R176: the row that each V instruction writes. -/
def rowResult : Instr → Option RowOut
  | .vadd o => some (elementwise k o.td o.rowd o.ty o.rm o.sat (rowElem k o.ty o.ta o.rowa) (rowElem k o.ty o.tb o.rowb)
      (rowElem k o.ty o.td o.rowd) (fun m a b _ => xadd m a b) fun a b _ => a + b)
  | .vsub o => some (elementwise k o.td o.rowd o.ty o.rm o.sat (rowElem k o.ty o.ta o.rowa) (rowElem k o.ty o.tb o.rowb)
      (rowElem k o.ty o.td o.rowd) (fun m a b _ => xadd m a b.neg) fun a b _ => a - b)
  | .vmul o => some (elementwise k o.td o.rowd o.ty o.rm o.sat (rowElem k o.ty o.ta o.rowa) (rowElem k o.ty o.tb o.rowb)
      (rowElem k o.ty o.td o.rowd) (fun _ a b _ => xmul a b) fun a b _ => a * b)
  | .vfma o => some (elementwise k o.td o.rowd o.ty o.rm o.sat (rowElem k o.ty o.ta o.rowa) (rowElem k o.ty o.tb o.rowb)
      (rowElem k o.ty o.td o.rowd) (fun m a b d => xfma m a b d) fun a b d => a * b + d)
  | .vadds o => some (elementwise k o.td o.rowd o.ty o.rm o.sat (rowElem k o.ty o.ta o.rowa) (scalarElem k o.ty o.sb)
      (rowElem k o.ty o.td o.rowd) (fun m a b _ => xadd m a b) fun a b _ => a + b)
  | .vsubs o => some (elementwise k o.td o.rowd o.ty o.rm o.sat (rowElem k o.ty o.ta o.rowa) (scalarElem k o.ty o.sb)
      (rowElem k o.ty o.td o.rowd) (fun m a b _ => xadd m a b.neg) fun a b _ => a - b)
  | .vmuls o => some (elementwise k o.td o.rowd o.ty o.rm o.sat (rowElem k o.ty o.ta o.rowa) (scalarElem k o.ty o.sb)
      (rowElem k o.ty o.td o.rowd) (fun _ a b _ => xmul a b) fun a b _ => a * b)
  | .vfmas o => some (elementwise k o.td o.rowd o.ty o.rm o.sat (rowElem k o.ty o.ta o.rowa) (scalarElem k o.ty o.sb)
      (rowElem k o.ty o.td o.rowd) (fun m a b d => xfma m a b d) fun a b d => a * b + d)
  | .vmin o => some (selecting k o.td o.rowd o.ty (rowElem k o.ty o.ta o.rowa) (rowElem k o.ty o.tb o.rowb) xmin min)
  | .vmax o => some (selecting k o.td o.rowd o.ty (rowElem k o.ty o.ta o.rowa) (rowElem k o.ty o.tb o.rowb) xmax max)
  | .vmins o => some (selecting k o.td o.rowd o.ty (rowElem k o.ty o.ta o.rowa) (scalarElem k o.ty o.sb) xmin min)
  | .vmaxs o => some (selecting k o.td o.rowd o.ty (rowElem k o.ty o.ta o.rowa) (scalarElem k o.ty o.sb) xmax max)
  | .vclamp o => some (selecting k o.td o.rowd o.ty (rowElem k o.ty o.ta o.rowa) (rowElem k o.ty o.tb o.rowb)
      (fun a b => if a.isNan || b.isNan then .nan else xmin (xmax a b.abs.neg) b.abs) (match fmtOf o.ty with
        | .int true w => fun a b =>
          let m : Int := if b = -2 ^ (w - 1) then 2 ^ (w - 1) - 1 else if b < 0 then -b else b
          min (max a (-m)) m
        | _ => min))
  | .vabs o => some (let e := rowElem k o.ty o.ta o.rowa
      match fmtOf o.ty with
      | .int _ w => plainOut k o.td o.rowd w (1024 / w) 2 fun i =>
          if toSigned w (e i) = -2 ^ (w - 1) then (if o.sat = 1 then 2 ^ (w - 1) - 1 else 2 ^ (w - 1))
          else (toSigned w (e i)).natAbs
      | .flt f => plainOut k o.td o.rowd f.width (1024 / f.width) 2 fun i =>
          if (f.value (e i)).isNan then f.nanCode else e i % 2 ^ (f.width - 1))
  | .vneg o => some (let e := rowElem k o.ty o.ta o.rowa
      match fmtOf o.ty with
      | .int _ w => plainOut k o.td o.rowd w (1024 / w) 2 fun i =>
          if toSigned w (e i) = -2 ^ (w - 1) then (if o.sat = 1 then 2 ^ (w - 1) - 1 else 2 ^ (w - 1))
          else wrapInt w (-toSigned w (e i))
      | .flt f => plainOut k o.td o.rowd f.width (1024 / f.width) 2 fun i =>
          if (f.value (e i)).isNan then f.nanCode
          else if 2 ^ (f.width - 1) ≤ e i then e i - 2 ^ (f.width - 1) else e i + 2 ^ (f.width - 1))
  | .vmulh o => some (match fmtOf o.ty with
      | .int s w => plainOut k o.td o.rowd w (1024 / w) 4 fun i =>
          wrapInt (2 * w) (intOf s w (rowElem k o.ty o.ta o.rowa i) * intOf s w (rowElem k o.ty o.tb o.rowb i)) / 2 ^ w
      | .flt _ => ⟨0, 0, 0, 0, 0, 0, false⟩)
  | .vand o => some (plainOut k o.td o.rowd 1024 1 2 fun _ =>
      (k.row (physTile k.regs.rrb o.ta) o.rowa.toNat &&& k.row (physTile k.regs.rrb o.tb) o.rowb.toNat).toNat)
  | .vor o => some (plainOut k o.td o.rowd 1024 1 2 fun _ =>
      (k.row (physTile k.regs.rrb o.ta) o.rowa.toNat ||| k.row (physTile k.regs.rrb o.tb) o.rowb.toNat).toNat)
  | .vxor o => some (plainOut k o.td o.rowd 1024 1 2 fun _ =>
      (k.row (physTile k.regs.rrb o.ta) o.rowa.toNat ^^^ k.row (physTile k.regs.rrb o.tb) o.rowb.toNat).toNat)
  | .vnot o => some (plainOut k o.td o.rowd 1024 1 2 fun _ =>
      2 ^ 1024 - 1 - (k.row (physTile k.regs.rrb o.ta) o.rowa.toNat).toNat)
  | .vshl o => some (let w := (fmtOf o.ty).width
      plainOut k o.td o.rowd w (1024 / w) 2 fun i =>
        let c := rowElem k o.ty o.tb o.rowb i
        if w ≤ c then 0 else rowElem k o.ty o.ta o.rowa i * 2 ^ c % 2 ^ w)
  | .vshr o => some (let w := (fmtOf o.ty).width
      plainOut k o.td o.rowd w (1024 / w) 2 fun i =>
        let c := rowElem k o.ty o.tb o.rowb i
        if w ≤ c then 0 else rowElem k o.ty o.ta o.rowa i / 2 ^ c)
  | .vsar o => some (let w := (fmtOf o.ty).width
      plainOut k o.td o.rowd w (1024 / w) 2 fun i =>
        let c := rowElem k o.ty o.tb o.rowb i
        let a := toSigned w (rowElem k o.ty o.ta o.rowa i)
        if w ≤ c then (if a < 0 then 2 ^ w - 1 else 0) else wrapInt w (a / 2 ^ c))
  | .vpopc o => some (let w := (fmtOf o.ty).width
      plainOut k o.td o.rowd w (1024 / w) 2 fun i => (List.range w).countP (rowElem k o.ty o.ta o.rowa i).testBit)
  | .vcmp o => some (let w := (fmtOf o.ty).width
      let rs : List (Bool × BitVec 5) := (List.range (1024 / w)).map fun i =>
        let a := rowElem k o.ty o.ta o.rowa i
        let b := rowElem k o.ty o.tb o.rowb i
        match fmtOf o.ty with
        | .int s w =>
          let p := intOf s w a
          let q := intOf s w b
          (match o.rm.toNat with
            | 0 => decide (p = q) | 1 => decide (p ≠ q) | 2 => decide (p < q) | 3 => decide (p ≤ q)
            | 4 => decide (q < p) | _ => decide (q ≤ p), 0)
        | .flt f => floatCond o.rm.toNat (f.value a) (f.value b)
      ⟨o.td, o.rowd, pack w (rs.map fun r => if r.1 then 2 ^ w - 1 else 0), rs.foldl (fun f r => f ||| r.2) 0,
        k.regs.seed, 2, match fmtOf o.ty with | .flt _ => true | .int _ _ => false⟩)
  | .vsel o => some (let w := (fmtOf o.ty).width
      plainOut k o.td o.rowd w (1024 / w) 2 fun i =>
        if rowElem k o.ty o.td o.rowd i = 0 then rowElem k o.ty o.tb o.rowb i else rowElem k o.ty o.ta o.rowa i)
  | .vmov o => some (plainOut k o.td o.rowd 1024 1 2 fun _ => (k.row (physTile k.regs.rrb o.ta) o.rowa.toNat).toNat)
  | .vzero o => some (plainOut k o.td o.rowd 1024 1 2 fun _ => 0)
  | .viota o => some (let w := (fmtOf o.ty).width
      plainOut k o.td o.rowd w (1024 / w) 2 fun i => match fmtOf o.ty with
        | .int _ w => i % 2 ^ w
        | .flt f => (roundWith (.ofInt i) (.flt f) .rne false 0).1)
  | .vperm o => some (let w := (fmtOf o.ty).width
      plainOut k o.td o.rowd w (1024 / w) 4 fun i =>
        rowElem k o.ty o.ta o.rowa (rowElem k o.ty o.tb o.rowb i % (1024 / w)))
  | .vbcast o => some (let w := (fmtOf o.ty).width
      plainOut k o.td o.rowd w (1024 / w) 2 (scalarElem k o.ty o.sb))
  | .vrot o => some (let w := (fmtOf o.ty).width
      plainOut k o.td o.rowd w (1024 / w) 2 fun i =>
        rowElem k o.ty o.ta o.rowa ((i + (k.regs.rd o.sb).toNat + o.idx.toNat) % (1024 / w)))
  | .vins o => some (let w := (fmtOf o.ty).width
      plainOut k o.td o.rowd w (1024 / w) 2 fun i =>
        if i = o.idx.toNat then scalarElem k o.ty o.sb i else rowElem k o.ty o.td o.rowd i)
  | .vscale o => some (match fmtOf o.ty with
      | .int _ _ => ⟨0, 0, 0, 0, 0, 0, false⟩
      | .flt f => roundedOut k o.td o.rowd o.ty (modeField k.regs o.rm) (o.sat == 1) (1024 / f.width) 4 fun i =>
          let c := (k.regs.rd o.sb).toNat / 2 ^ (8 * ((o.idx.toNat + i / 32) % 8)) % 256
          if c = 255 then (.nan, 0) else ((f.value (rowElem k o.ty o.ta o.rowa i)).shift (c - 127), 0))
  | .vcvt o => some (let ws := (fmtOf o.tys).width
      let wd := (fmtOf o.ty).width
      let n := 1024 / max ws wd
      let e := rowElem k o.tys o.ta o.rowa
      if o.ty = o.tys then plainOut k o.td o.rowd wd n 4 fun i => match fmtOf o.ty with
        | .flt f => if (f.value (e i)).isNan then f.nanCode else e i
        | .int _ _ => e i
      else match fmtOf o.tys, fmtOf o.ty with
        | .int s w, .int s' w' => plainOut k o.td o.rowd w' n 4 fun i =>
            let v := intOf s w (e i)
            let lo : Int := if s' then -2 ^ (w' - 1) else 0
            let hi : Int := if s' then 2 ^ (w' - 1) - 1 else 2 ^ w' - 1
            if o.sat = 1 then wrapInt w' (max lo (min hi v)) else wrapInt w' v
        | fs, _ => roundedOut k o.td o.rowd o.ty (modeField k.regs o.rm) (o.sat == 1) n 4 fun i => (fs.value (e i), 0))
  | .vrsum o => some (reduction k o (fun s w i => intOf s w (rowElem k o.ty o.ta o.rowa i)) (· + ·)
      (fun f i r => (f.value (rowElem k o.ty o.ta o.rowa i), r)) (fun p q r => rn32 (xadd .rne p q) r) true)
  | .vdot o => some (reduction k o
      (fun s w i => intOf s w (rowElem k o.ty o.ta o.rowa i) * intOf s w (rowElem k o.ty o.tb o.rowb i)) (· + ·)
      (fun f i r => rn32 (xmul (f.value (rowElem k o.ty o.ta o.rowa i)) (f.value (rowElem k o.ty o.tb o.rowb i))) r)
      (fun p q r => rn32 (xadd .rne p q) r) true)
  | .vrmax o => some (reduction k o (fun s w i => intOf s w (rowElem k o.ty o.ta o.rowa i)) max
      (fun f i r => (f.value (rowElem k o.ty o.ta o.rowa i), r)) (fun p q r => (xmax p q, r)) false)
  | .vrmin o => some (reduction k o (fun s w i => intOf s w (rowElem k o.ty o.ta o.rowa i)) min
      (fun f i r => (f.value (rowElem k o.ty o.ta o.rowa i), r)) (fun p q r => (xmin p q, r)) false)
  | .vexp2 o => some (transcendental o exp2)
  | .vlog2 o => some (transcendental o log2F)
  | .vrcp o => some (transcendental o rcpF)
  | .vrsq o => some (transcendental o rsqF)
  | .vtanh o => some (transcendental o tanhF)
  | _ => none
where
  /-- R170: each element widened, computed to FP32 by its procedure, and rounded in RNE to its type. -/
  transcendental (o : VThree) (g : XVal → XVal × BitVec 5) : RowOut :=
    let w := (fmtOf o.ty).width
    let (v, r) := roundRow (fmtOf o.ty) .rne false (1024 / w)
      (fun i => g ((fmtOf o.ty).value (rowElem k o.ty o.ta o.rowa i))) ⟨k.regs.seed, 0⟩
    ⟨o.td, o.rowd, v, r.flags, k.regs.seed, 16, true⟩

end

/-- R153, R154, R157 to R176: each row operation whose bundle finds nothing to wait for completes with the row of its
table, read at issue: the row and its flags are on their way for the operation's latency, the generator holds what its
draws left, and nothing else changes. -/
def RowResultsClaim : Prop :=
  ∀ (s : State) (i : Instr) (x : RowOut), s.issues .v0 i 2 = true → rowResult s.begun.self i = some x →
    let k := s.begun.self
    exec i s = .next (s.leaves s.begun
      ((k.awaits (.row x.may) (k.rowDest x.td x.rowd) [BitVec.ofNat 1024 x.val] x.flags (s.now + x.lat)).seeded x.seed)
      (s.self.pc + 2) 0)

/-- R172 to R176 at the operands whose results the spec's tables state: the special values, the ranges, and the flags. -/
def TranscendentalSpecialsClaim : Prop :=
  (exp2 .nan = (.nan, 0) ∧ exp2 (.inf false) = (.inf false, 0) ∧ exp2 (.inf true) = (.zero false, 0)) ∧
  (∀ n m e, xlt (.fin n m e) (.fin false 128 0) = false → exp2 (.fin n m e) = (.inf false, fOF ||| fNX)) ∧
  (∀ m e, xlt (.fin true 200 0) (.fin true m e) = false → exp2 (.fin true m e) = (.zero false, fUF ||| fNX)) ∧
  (log2F .nan = (.nan, 0) ∧ log2F (.inf false) = (.inf false, 0) ∧ (∀ n, log2F (.zero n) = (.inf true, fDZ)) ∧
    log2F (.inf true) = (.nan, fNV) ∧ ∀ m e, log2F (.fin true m e) = (.nan, fNV)) ∧
  (rcpF .nan = (.nan, 0) ∧ (∀ n, rcpF (.inf n) = (.zero n, 0)) ∧ ∀ n, rcpF (.zero n) = (.inf n, fDZ)) ∧
  (rsqF .nan = (.nan, 0) ∧ rsqF (.inf false) = (.zero false, 0) ∧ (∀ n, rsqF (.zero n) = (.inf n, fDZ)) ∧
    rsqF (.inf true) = (.nan, fNV) ∧ ∀ m e, rsqF (.fin true m e) = (.nan, fNV)) ∧
  (tanhF .nan = (.nan, 0) ∧ (∀ n, tanhF (.inf n) = (.fin n 1 0, 0)) ∧ (∀ n, tanhF (.zero n) = (.zero n, 0)) ∧
    ∀ n m e, xlt (.fin false m e) (.fin false 10 0) = false → tanhF (.fin n m e) = (.fin n 1 0, fNX))

/-! Elements, transform ports. -/

/-- R59, R166, R177 to R183: VEXTR writes one element to a scalar. A PMOV adds its row to its port's inputs; one that
completes them computes, and its rows, which push out the oldest where four are held, become readable one a cycle after the
port's latency; a PMOV to port 0x0C resets the chain of port 0x0B. A PTAKE with no row on its way takes the oldest row, or a
row of zeros. That rows on their way count among the four, the oldest of them being lost where none is readable, and that the
flags of a lost row are raised at once, is the model's choice (log 45). What ports compute is the statement PortFunctions. -/
def ElementsAndPortsClaim : Prop :=
  ∀ s : State,
    let k := s.begun.self
    (∀ (o : VScalar) (v : W64), s.issues .v0 (.vextr o) 2 = true →
      (let e := rowElem k o.ty o.ta o.rowa o.idx.toNat
       v = match fmtOf o.ty with
        | .int true w => BitVec.ofInt 64 (toSigned w e)
        | _ => BitVec.ofNat 64 e) →
      exec (.vextr o) s = .next (s.leaves s.begun (k.awaits (.row false) (k.scalarDest o.sb) [v.zeroExtend 1024] 0 (s.now + 2))
        (s.self.pc + 2) 0)) ∧
    (∀ o : VPort, s.issues .v0 (.pmov o) 2 = true → o.port = 0x0C →
      exec (.pmov o) s = .next (s.leaves s.begun
        { k with regs := k.regs.setPort 0x0B { k.regs.port 0x0B with chain := 0xFFFFFFFF } } (s.self.pc + 2) 0)) ∧
    (∀ o : VPort, s.issues .v0 (.pmov o) 2 = true → o.port ≠ 0x0C →
      let n := o.port.toNat
      let h := if n = 0x09 then 0x08 else n
      let p := k.regs.port h
      let p' : Port := { p with ins := p.ins ++ [⟨k.row (physTile k.regs.rrb o.ta) o.rowa.toNat, o.ty⟩] }
      ((portBlocky n && decide (portNeed n < (k.regs.port n).held n + rowBlocks n o.ty)) = false) →
      (p'.held n < portNeed n →
        exec (.pmov o) s
          = .next (s.leaves s.begun { k with regs := k.regs.setPort h p' } (s.self.pc + 2) 0)) ∧
      (portNeed n ≤ p'.held n →
        let (rows, q, r) := portRun n p'.ins (modeField k.regs o.rm) (o.sat == 1) { p' with ins := [] } ⟨k.regs.seed, 0⟩
        let (q, lost) := q.putRows (s.now + portLatency n) r.flags rows
        exec (.pmov o) s = .next (s.leaves s.begun
          ((({ k with regs := k.regs.setPort h q, flags := k.flags ||| lost } : Core)).seeded r.seed) (s.self.pc + 2) 0))) ∧
    (∀ o : VPort, s.issues .v0 (.ptake o) 2 = true →
      let p := k.regs.port o.port.toNat
      (∀ r rs, p.outs = r :: rs →
        exec (.ptake o) s = .next (s.leaves s.begun
          (({ k with regs := k.regs.setPort o.port.toNat { p with outs := rs } } : Core).awaits (.row false) (k.rowDest o.td o.rowd)
            [r] 0 (s.now + 2)) (s.self.pc + 2) 0)) ∧
      (p.outs = [] → p.wait = [] →
        exec (.ptake o) s
          = .next (s.leaves s.begun (k.awaits (.row false) (k.rowDest o.td o.rowd) [0] 0 (s.now + 2)) (s.self.pc + 2) 0)))

/-- One byte into a CRC-32C, bit by bit (R183): the reflected Castagnoli polynomial is 0x82F63B78, 0x1EDC6F41 in reverse. -/
def crcStep (c : Nat) (b : Nat) : Nat :=
  (List.range 8).foldl (fun v _ => if v % 2 = 1 then (v / 2) ^^^ 0x82F63B78 else v / 2) (c ^^^ b)

/-- The elements of a row of a width, from the lowest (R9). -/
def rowElems (w : Nat) (row : Row) : List Nat := (List.range (1024 / w)).map fun i => row.toNat / 2 ^ (w * i) % 2 ^ w

/-- R91: a block of values quantised: its scale code and the element codes. A NaN or an infinity gives the scale 0xFF and
zeros; a block of zeros the scale 0 and signed zeros; else the scale is the exponent of the largest magnitude less the
format's own largest, held within 0 to 254, and each element is divided by it and rounded once, in RNE. -/
def quantised (f : FloatFmt) (sat : Bool) (block : List XVal) (r : Rnd) : (Nat × List Nat) × Rnd :=
  if block.any fun x => x.isNan || x.isInf then ((0xFF, block.map fun _ => 0), r)
  else
    match block.filterMap fun x => match x with | .fin _ m e => some (topExp m e) | _ => none with
    | [] => ((0, block.map fun x => if x.sign then 2 ^ (f.width - 1) else 0), r)
    | t :: ts =>
      let emax : Int := if f.width = 4 then 2 else if f.man = 3 then 8 else 15
      let k : Int := ts.foldl max t - emax + 127
      let c : Int := if k < 0 then 0 else if 254 < k then 254 else k
      let (es, r) := mapRnd (fun x r => round (x.shift (127 - c)) (.flt f) .rne sat r) block r
      ((c.toNat, es), r)

/-- R181, R182, R183: what ports compute from the rows given to them. 0x01, 0x02 and 0x03 widen exactly, 128 elements a row;
0x04 rounds two rows of E4M3 to E2M1, element by element, in the mode and SAT of its second PMOV; 0x05 to 0x07 quantise their
blocks and give the elements, then the scales; 0x08 looks each byte up, and 0x09 loads the table, its low half first; 0x0A and
0x0B give a CRC-32C; 0x0D puts bit k of byte i in bit i mod 8 of byte 16k + i div 8, and 0x0E undoes it. -/
def PortFunctionsClaim : Prop :=
  ∀ (row row' : Row) (ty : BitVec 5) (m : Mode) (sat : Bool) (p : Port) (r : Rnd) (i : Nat), i < 128 →
    (∀ f, fmtOf ty = .flt f → f = e3m2 ∨ f = e2m3 → ∃ a, portRun 0x01 [⟨row, ty⟩] m sat p r = ([a], p, r) ∧
      xeq (e4m3.value (elem 8 a.toNat i)) (f.value (elem 6 row.toNat i)) = true ∧
      elem 8 a.toNat i / 2 ^ 7 = elem 6 row.toNat i / 2 ^ 5) ∧
    (∃ a b, portRun 0x02 [⟨row, ty⟩] m sat p r = ([a, b], p, r) ∧
      toSigned 8 (elem 8 a.toNat i) = toSigned 4 (elem 4 row.toNat i) ∧
      toSigned 8 (elem 8 b.toNat i) = toSigned 4 (elem 4 row.toNat (128 + i))) ∧
    (∃ a b, portRun 0x03 [⟨row, ty⟩] m sat p r = ([a, b], p, r) ∧
      xeq (e4m3.value (elem 8 a.toNat i)) (e2m1.value (elem 4 row.toNat i)) = true ∧
      elem 8 a.toNat i / 2 ^ 7 = elem 4 row.toNat i / 2 ^ 3 ∧
      xeq (e4m3.value (elem 8 b.toNat i)) (e2m1.value (elem 4 row.toNat (128 + i))) = true ∧
      elem 8 b.toNat i / 2 ^ 7 = elem 4 row.toNat (128 + i) / 2 ^ 3) ∧
    (let vs := (rowElems 8 row ++ rowElems 8 row').map e4m3.value
     let (es, r') := mapRnd (fun v r => round v (.flt e2m1) m sat r) vs r
     portRun 0x04 [⟨row, ty⟩, ⟨row', ty⟩] m sat p r = ([BitVec.ofNat 1024 (pack 4 es)], p, r')) ∧
    (∀ (n w : Nat) (f : FloatFmt) (ins : List PortIn), (n, w, f) ∈ [(0x05, 4, e2m1), (0x06, 8, e4m3), (0x07, 8, e5m2)] →
      let blocks := ins.flatMap fun x =>
        if x.ty = 0x08 then [(rowElems 32 x.row).map fp32.value]
        else [((rowElems 16 x.row).map bf16.value).take 32, ((rowElems 16 x.row).map bf16.value).drop 32]
      let (qs, r') := mapRnd (quantised f sat) blocks r
      portRun n ins m sat p r
        = ([BitVec.ofNat 1024 (pack w (qs.flatMap (·.2))), BitVec.ofNat 1024 (pack 8 (qs.map (·.1)))], p, r')) ∧
    (∃ a, portRun 0x08 [⟨row, ty⟩] m sat p r = ([a], p, r) ∧
      elem 8 a.toNat i = elem 8 p.table.toNat (elem 8 row.toNat i)) ∧
    (∃ q, portRun 0x09 [⟨row, ty⟩] m sat { p with half := false } r = ([], q, r) ∧ q.half = true ∧
      q.table.extractLsb' 0 1024 = row ∧ q.table.extractLsb' 1024 1024 = p.table.extractLsb' 1024 1024) ∧
    (∃ q, portRun 0x09 [⟨row, ty⟩] m sat { p with half := true } r = ([], q, r) ∧ q.half = false ∧
      q.table.extractLsb' 0 1024 = p.table.extractLsb' 0 1024 ∧ q.table.extractLsb' 1024 1024 = row) ∧
    (∃ a, portRun 0x0A [⟨row, ty⟩] m sat p r = ([a], p, r) ∧
      a.toNat = ((rowElems 8 row).foldl crcStep 0xFFFFFFFF) ^^^ 0xFFFFFFFF) ∧
    (∃ a q, portRun 0x0B [⟨row, ty⟩] m sat p r = ([a], q, r) ∧ q = { p with chain := q.chain } ∧
      q.chain.toNat = (rowElems 8 row).foldl crcStep p.chain.toNat ∧ a.toNat = q.chain.toNat ^^^ 0xFFFFFFFF) ∧
    (∃ a, portRun 0x0D [⟨row, ty⟩] m sat p r = ([a], p, r) ∧
      (∀ k < 8, a.getLsbD (8 * (16 * k + i / 8) + i % 8) = row.getLsbD (8 * i + k)) ∧
      portRun 0x0E [⟨a, ty⟩] m sat p r = ([row], p, r))

/-! Rings and the matrix unit. -/

/-- R189, R191, R205 to R208: the ring instructions. RSET gives a ring its base, size and mode and starts it; RPUSH adds tiles
to a streaming ring, the core's own or a lane's; RPOP pops tiles and hands their slots back empty; RGET reads a word. All but
RGET end the restart region. -/
def RingsClaim : Prop :=
  ∀ (s : State) (o : MRing),
    let k := s.begun.self
    let n := o.ring.toNat
    let q := k.ring n
    (let size := (k.regs.rd o.rb).toNat % 512
     let base := (k.regs.rd o.ra).toNat
     s.issues .m (.rset o) 2 = true → k.ringBusy n = false →
     (size = 0 ∨ (base < 2 ^ 24 ∧ base % 4096 = 0 ∧ base % 2 ^ 21 + size * 4096 ≤ 0x180000)) →
      exec (.rset o) s = .next (s.leavesMark s.begun
        (k.setRing n { base := BitVec.ofNat 24 base, size, keep := o.fn.getLsbD 0, head := 0, occ := [], gen := q.gen + 1
                       count := if o.fn.getLsbD 0 || o.fn.getLsbD 1 then size else 0 }) (s.self.pc + 2) 0)) ∧
    (let t := if o.rd.getLsbD 3 then clusterCore (coreCluster s.cur) (o.rd.toNat % 8) else s.cur
     let z := s.begun.core t
     let p := z.ring n
     s.issues .m (.rpush o) 2 = true → k.unperformed = false → k.queueDown k.seq (fun _ => true) = k → z.run ≠ .stopped →
     p.size ≠ 0 → (p.keep = true ∨ p.count + p.occ.length + (o.fn.toNat + 1) ≤ p.size) →
      let p' : Ring := { p with count := if p.keep then p.count else p.count + (o.fn.toNat + 1), gen := p.gen + 1 }
      exec (.rpush o) s = .next
        (if t = s.cur then s.leavesMark s.begun (k.setRing n p') (s.self.pc + 2) 0
         else s.leavesMark (s.begun.setCore t (z.setRing n p')) k (s.self.pc + 2) 0)) ∧
    (s.issues .m (.rpop o) 2 = true → q.size ≠ 0 → (q.keep = true ∨ o.fn.toNat + 1 ≤ q.count) → k.ringBusy n = false →
      let t := releaseSlots s.cur n (s.begun.setCore s.cur (k.setRing n (q.pops (o.fn.toNat + 1))))
      exec (.rpop o) s = .next (s.leavesMark t t.self (s.self.pc + 2) 0)) ∧
    (s.issues .m (.rget o) 2 = true → k.ringBusy n = false →
      let w := if o.fn = 0 then (if q.keep then 2 ^ 33 else 0) + q.size * 2 ^ 24 + q.base.toNat
        else q.gen.toNat * 2 ^ 48 + q.count * 2 ^ 32
          + (if q.size = 0 then 0 else (q.head + q.count) % q.size) * 2 ^ 16 + q.head
      exec (.rget o) s = .next (s.leaves s.begun (k.gets s.now o.rd (BitVec.ofNat 64 w) 1) (s.self.pc + 2) 0))

/-- R196, R197: an operand tile is fetched from scratchpad, and entered in the operand cache as its newest entry, where the
cache holds no entry of its ring, GEN and slot, or only one in error (R450); a held one is read as the entry or as the
scratchpad stands, which of the two being a free value (log 20), and becomes the newest. -/
def OperandFetchClaim : Prop :=
  ∀ (x : Ctx) (n : Nat) (a : Acc),
    let r := x.k.ring n
    let now := x.s.spRows x.c (r.slotAddr r.head) 32
    let tag := fun (e : OpEntry) => e.ring = n ∧ e.gen = r.gen ∧ e.slot = r.head
    ((∀ e ∈ a.k.opc, tag e → e.bad = true) →
      let rest := a.k.opc.filter fun q => q.ring != n || q.gen != r.gen || q.slot != r.head
      fetchTile x n a = (now, { a with k := { a.k with
        opc := (if rest.length < 16 then rest else rest.drop 1) ++ [⟨n, r.gen, r.head, now, false⟩] } })) ∧
    (∀ e ∈ a.k.opc, tag e → e.bad = false → (∀ e' ∈ a.k.opc, tag e' → e' = e) →
      ((fetchTile x n a).1 = e.rows ∨ (fetchTile x n a).1 = now) ∧
      (fetchTile x n a).2.k.opc = a.k.opc.filter (fun q => q.ring != n || q.gen != r.gen || q.slot != r.head) ++ [e])

/-- Whether a run of lines may be read by the current core (R203, R218, R293): no MOUTS is on its way to them, no earlier load
of class 0 is on its way, and every line is full. -/
def linesReady (b : State) (addr n : Nat) : Bool :=
  !b.self.linesBusy addr (128 * n) && (b.self.loads.all fun l => l.cls != 0) && b.linesFull b.cur addr n

/-- R96, R186, R200: an INT8 accumulation. Element `n` of row `m` is the old element and the sum of the products of row `m`
of A and row `n` of B, modulo 2^32, and no flag is raised. -/
def IntegerAccumulationClaim : Prop :=
  ∀ (m : Mma) (i j : Nat) (a b old : Row), m.fa = 0 → m.a.length = 32 → m.old.length = 32 → m.b.length = 32 →
    m.a[i]? = some a → m.b[j]? = some b → m.old[i]? = some old →
    m.result.2 = 0 ∧ m.result.1.length = 32 ∧
    elem 32 ((m.result.1.getD i 0).toNat) j = ((elem 32 old.toNat j : Int)
      + ((List.range 128).map fun x => toSigned 8 (elem 8 a.toNat x) * toSigned 8 (elem 8 b.toNat x)).sum) % 2 ^ 32

/-- R93, R94, R95: one chunk of a floating accumulation. Where no operand is a NaN or an infinity, the chunk's exact sum is
added to the accumulator and rounded once, to the nearest FP32 value, and only an overflow raises a flag; a NaN anywhere
gives a NaN, and raises NV only where no operand is one. That these operands are the accumulator and those of the chunk, not of the
whole element, is the model's choice (log 50). -/
def ChunkAccumulationClaim : Prop :=
  ∀ (acc : XVal) (as bs : List XVal), as.length = bs.length →
    let terms := (as.zip bs).map fun p => (xmul p.1 p.2).1
    ((acc.isNan || as.any XVal.isNan || bs.any XVal.isNan) = true → accChunk acc as bs = (.nan, 0)) ∧
    ((acc.isNan || as.any XVal.isNan || bs.any XVal.isNan) = false → terms.any XVal.isNan = true →
      accChunk acc as bs = (.nan, fNV)) ∧
    ((acc :: (as ++ bs)).all (fun x => !x.isNan && !x.isInf) = true →
      let r := roundWith (xadd .rne acc (sumTerms terms)).1 (.flt fp32) .rne false 0
      accChunk acc as bs = (fp32.value r.1, r.2 &&& fOF))

/-- R191, R195, R200, R201: an MMA that is due retires: its rows are written, unless a later slot of its bundle has written
that tile (R60), its flags ORed in, the slots it popped handed back empty; what it releases performs. One that is not due, or none,
lands nothing. -/
def MatrixRetiresClaim : Prop :=
  ∀ (s : State) (c : Nat),
    (∀ m, (s.core c).mma = some m → m.due ≤ s.now →
      let k := ({ s.core c with mma := none } : Core)
      exec (.mmaRetire c) s = .next (drain c (m.rings.foldl (fun s n => releaseSlots c n s)
        (s.setCore c ((if m.keep then k.setRows m.tc 0 m.result.1 else k).orFlags m.result.2))))) ∧
    ((∀ m, (s.core c).mma = some m → s.now < m.due) → exec (.mmaRetire c) s = .next (drain c s))

/-- R202: one accumulator row converted: the packed elements and its scale byte. An integer row wraps, or clamps where SAT is
set (R89), and draws nothing; MX output quantises the row as one block (R91); any other element is rounded once. -/
def convertedRow (ty : BitVec 5) (m : Mode) (sat mx : Bool) (row : Row) (r : Rnd) : (Nat × Nat) × Rnd :=
  match fmtOf ty with
  | .int sgn w => ((pack w ((rowElems 32 row).map fun e =>
      let v := toSigned 32 e
      let lo : Int := if sgn then -2 ^ (w - 1) else 0
      let hi : Int := if sgn then 2 ^ (w - 1) - 1 else 2 ^ w - 1
      if sat then wrapInt w (max lo (min hi v)) else wrapInt w v), 0), r)
  | .flt f =>
    let x := (rowElems 32 row).map fp32.value
    if mx then ((pack f.width (quantised f sat x r).1.2, (quantised f sat x r).1.1), (quantised f sat x r).2)
    else ((pack f.width (mapRnd (fun v r => round v (.flt f) m sat r) x r).1, 0),
      (mapRnd (fun v r => round v (.flt f) m sat r) x r).2)

/-- R202: a tile converted row by row, in ascending order (R83). -/
def convertedRows (ty : BitVec 5) (m : Mode) (sat mx : Bool) : List Row → Rnd → List (Nat × Nat) × Rnd
  | [], r => ([], r)
  | row :: rows, r =>
    let (e, r') := convertedRow ty m sat mx row r
    let (es, r'') := convertedRows ty m sat mx rows r'
    (e :: es, r'')

/-- R202 to R204: MOUT, MOUTS and MZERO. The converted rows, and for MX output the scales, are on their way: to a tile and a
scale register, or to lines of the scratchpad; the generator holds what their draws left; the restart region ends. Only a
conversion to a floating type can raise flags. Before a MOUTS performs, the dirty lines of class 0 go down. -/
def MatrixOutputsClaim : Prop :=
  ∀ s : State,
    let k := s.begun.self
    let flagged := fun (ty fl : BitVec 5) => match fmtOf ty with | .flt _ => some fl | .int _ _ => none
    (∀ o : MOut, s.issues .m (.mout o) 2 = true →
      let mx := o.mx == 1
      let (rs, r) := convertedRows o.ty (modeField k.regs o.rm) (o.sat == 1) mx (k.rows (physTile k.regs.rrb o.tc)) ⟨k.regs.seed, 0⟩
      exec (.mout o) s = .next (s.leavesMark s.begun
        (({ k with mout := k.mout ++ [{
            tile := some (physTile k.regs.rrb o.td, rs.map fun e => rowOf e.1)
            scale := if mx then some (o.kd.toNat, rs.map fun e => BitVec.ofNat 8 e.2) else none
            lines := none, flags := flagged o.ty r.flags, due := s.now + (if mx then 6 else 4), seq := k.seq }] } : Core).seeded
          r.seed)
        (s.self.pc + 2) 0)) ∧
    (∀ o : MOuts, s.issues .m (.mouts o) 2 = true →
      let mx := o.mx == 1
      let w := (fmtOf o.ty).width
      let size := 128 * w + (if mx then 128 else 0)
      let a := ((k.regs.rd o.ra).toNat + o.imm.toNat) % 2 ^ 64
      a % 128 = 0 → a < 2 ^ 24 → a % 2 ^ 21 + size ≤ 0x180000 → k.linesBusy a size = false →
      let (rs, r) := convertedRows o.ty (modeField k.regs o.rm) (o.sat == 1) mx (k.rows (physTile k.regs.rrb o.tc)) ⟨k.regs.seed, 0⟩
      let data := rs.flatMap fun e => bytesOf (4 * w) (rowOf e.1)
      let scales : List Byte := if mx then rs.map (fun e => BitVec.ofNat 8 e.2) ++ List.replicate 96 0 else []
      exec (.mouts o) s = .next (s.leavesDown s.begun
        (({ k with mout := k.mout ++ [{
            tile := none, scale := none, lines := some (a, size, data ++ scales), flags := flagged o.ty r.flags
            due := s.now + (if mx then 10 else 8), seq := k.seq }] } : Core).seeded r.seed) (s.self.pc + 2) 0)) ∧
    (∀ o : MOut, s.issues .m (.mzero o) 2 = true →
      exec (.mzero o) s = .next (s.leavesMark s.begun
        { k with mout := k.mout ++ [{
            tile := some (physTile k.regs.rrb o.tc, List.replicate 32 0), scale := none, lines := none, flags := none
            due := s.now + 2, seq := k.seq }] } (s.self.pc + 2) 0))

/-- The bundles of a cluster's cores that may issue now, tried in the tick in which lines are filled (R219, R238, R239). -/
def readersWoken (cl : Nat) (t : State) : State :=
  { t with agenda := (((List.range 8).map (clusterCore cl)).filter fun d =>
      (t.core d).run == .placed && decide ((t.core d).ready ≤ t.now)).map (fun d => (0, Instr.bundleIssue d)) ++ t.agenda }

/-- R194, R202 to R204, R212: a result of the output path that is due lands: its rows in its tile, its scale bytes over the
low bytes of its register, its bytes in its lines, which become full; its flags are ORed in. Lines come after every earlier
access of class 0 of the core and after the emptyings of the same tick (R219, R293); who waited for them issues at once. -/
def MatrixOutputsLandClaim : Prop :=
  ∀ (s : State) (c i : Nat) (m : MOutPend),
    (s.core c).mout[i]? = some m → m.due ≤ s.now →
    (∀ a n bs, m.lines = some (a, n, bs) → (s.core c).earlierZero m.seq false = false ∧
      ∀ j < n / 128, s.emptiesFirst (coreCluster c) (lineKey a + j) m.due = false) →
    let k := ({ s.core c with mout := removeAt (s.core c).mout i } : Core).orFlags (m.flags.getD 0)
    let cl := coreCluster c
    (∀ t rows, m.tile = some (t, rows) → m.scale = none → m.lines = none →
      exec (.mOutputLand c i) s = .next (drain c (s.setCore c (k.setRows t 0 rows)))) ∧
    (∀ t rows n bs, m.tile = some (t, rows) → m.scale = some (n, bs) → m.lines = none →
      exec (.mOutputLand c i) s
        = .next (drain c (s.setCore c ((k.setRows t 0 rows).landRegs 0 (landScale n m.seq bs))))) ∧
    (∀ a n bs, m.tile = none → m.scale = none → m.lines = some (a, n, bs) →
      exec (.mOutputLand c i) s
        = .next (drain c (readersWoken cl
          ((s.setCore c k).setCluster cl (((s.cluster cl).setSp a bs).setFull (lineKey a) (n / 128) true)))))

/-! Scratchpad. -/

/-- The address of a scratchpad access, and whether it lies in one lane below its top at its alignment (R221). -/
def spReach (k : Core) (o : PFmt) (align size : Nat) : Nat × Bool :=
  let a := ((k.regs.rd o.ra).toNat + o.imm.toNat) % 2 ^ 64
  (a, decide (a < 2 ^ 24) && decide (a % align = 0) && decide (a % 2 ^ 21 + size ≤ 0x180000))

/-- Whether a load of some scratchpad lines takes DATA_ERROR: a strict launch finds one of them in error (R425, R450). -/
def spError (b : State) (ls : List Nat) : Bool :=
  (b.launch b.self.launch).strict && ls.any (b.cluster (coreCluster b.cur)).badSp.contains

/-- R210, R211, R218, R221, R223: the scratchpad loads, each of lines that are full, in one lane, at their alignment. A load
reads its bytes at issue, the core's own gated stores included, and its register is busy for its latency, longer from another
lane; LDSC's scale register takes its bytes 0 to 7 of 32 lines six bundles later. What lines in error leave is the statement
ScratchpadErrors. -/
def ScratchpadLoadsClaim : Prop :=
  ∀ (s : State) (o : PFmt),
    let k := s.begun.self
    let wait := fun (a own other : Nat) => s.now + if a / 2 ^ 21 = s.cur % 8 then own else other
    (let (a, ok) := spReach k o 8 8
     s.issues .l (.lds o) 2 = true → ok = true → linesReady s.begun (a / 128 * 128) 1 = true →
      spError s.begun (linesOf a 8) = false →
      exec (.lds o) s = .next (s.leaves (meetReads s.cur (linesOf a 8) s.begun) (k.awaits .load (k.scalarDest (regLow o.reg))
        [rowOfBytes (s.begun.spBytes s.cur a 8)] 0 (wait a 4 12)) (s.self.pc + 2) 0)) ∧
    (let (a, ok) := spReach k o 128 128
     s.issues .l (.ldsr o) 2 = true → ok = true → linesReady s.begun a 1 = true →
      spError s.begun (linesOf a 128) = false →
      exec (.ldsr o) s = .next (s.leaves (meetReads s.cur (linesOf a 128) s.begun) (k.awaits .load (k.rowDest (regHigh o.reg) (regLow o.reg))
        [s.begun.spView s.cur a] 0 (wait a 4 12)) (s.self.pc + 2) 0)) ∧
    (let (a, ok) := spReach k o 128 4096
     s.issues .l (.ldst o) 2 = true → ok = true → linesReady s.begun a 32 = true →
      spError s.begun (linesOf a 4096) = false →
      exec (.ldst o) s = .next (s.leaves (meetReads s.cur (linesOf a 4096) s.begun) (k.awaits .load (.tile (physTile k.regs.rrb (regHigh o.reg)))
        (s.begun.spRows s.cur a 32) 0 (wait a 35 43)) (s.self.pc + 2) 0)) ∧
    (let (a, ok) := spReach k o 128 4096
     s.issues .l (.ldsc o) 2 = true → ok = true → linesReady s.begun a 32 = true →
      spError s.begun (linesOf a 4096) = false →
      let v : Scale := BitVec.ofNat 2048 (pack 64 ((s.begun.spRows s.cur a 32).map fun r => r.toNat % 2 ^ 64))
      exec (.ldsc o) s = .next (s.leaves (meetReads s.cur (linesOf a 4096) s.begun)
        { k with regs := { k.regs with kpend := k.regs.kpend ++ [⟨o.reg.toNat % 16, v, 6, k.seq⟩] } } (s.self.pc + 2) 0))

/-- R416, R450, R451: what the reads of a bundle do to scratchpad lines in error. Where none of them is nothing changes. Else each
of the lines read that was in error reads zero and is in error no more, every other line, in error or not, and every full bit
stand, the launch's record counts the lines, and nothing else of the machine changes. -/
def ScratchpadErrorsClaim : Prop :=
  ∀ (s : State) (c : Nat) (ls : List Nat),
    let cl := coreCluster c
    let t := meetReads c ls s
    ((ls.all fun l => !(s.cluster cl).badSp.contains l) = true → t = s) ∧
    (∀ l, (t.cluster cl).spLine l = (s.cluster cl).spLine l) ∧
    (∀ l, l ∈ ls → l ∈ (s.cluster cl).badSp → (t.cluster cl).sp.read l = 0) ∧
    (∀ l, l ∈ (t.cluster cl).badSp ↔ l ∈ (s.cluster cl).badSp ∧ l ∉ ls) ∧
    (t.cluster cl).full = (s.cluster cl).full ∧
    (ls.Nodup → (t.launch (s.core c).launch).zeroed
      = (s.launch (s.core c).launch).zeroed + (ls.filter (s.cluster cl).badSp.contains).length) ∧
    t.cores = s.cores ∧ t.mem = s.mem ∧ t.mdies = s.mdies

/-- The core with effects put into its gated buffer (R271). -/
def gates (k : Core) (es : List Effect) : Core := { k with gated := k.gated ++ es.map fun e => ⟨k.seq, 1, e⟩ }

/-- R221, R224, R271: the scratchpad stores, SPCLR and SPFILL, in one lane at their alignment: the bytes, or the run of lines,
join the gated buffer, 32 row stores for a tile. Scratchpad itself is unchanged until they commit and reach their bank. -/
def ScratchpadStoresClaim : Prop :=
  ∀ (s : State) (o : PFmt),
    let k := s.begun.self
    (let (a, ok) := spReach k o 8 8
     s.issues .t (.sts o) 2 = true → ok = true → k.linesBusy a 8 = false →
      exec (.sts o) s = .next (s.leaves s.begun (gates k [.sp a (bytesOf 8 (k.regs.rd (regLow o.reg)))]) (s.self.pc + 2) 0)) ∧
    (let (a, ok) := spReach k o 128 128
     s.issues .t (.stsr o) 2 = true → ok = true → k.linesBusy a 128 = false →
      exec (.stsr o) s = .next (s.leaves s.begun
        (gates k [.sp a (rowBytes (k.row (physTile k.regs.rrb (regHigh o.reg)) (regLow o.reg).toNat))]) (s.self.pc + 2) 0)) ∧
    (let (a, ok) := spReach k o 128 4096
     s.issues .t (.stst o) 2 = true → ok = true → k.linesBusy a 4096 = false →
      exec (.stst o) s = .next (s.leaves s.begun
        (gates k ((List.range 32).map fun r =>
          .sp (a + 128 * r) (rowBytes (k.row (physTile k.regs.rrb (regHigh o.reg)) r)))) (s.self.pc + 2) 0)) ∧
    (let n := o.reg.toNat + 1
     let (a, ok) := spReach k o 128 (128 * n)
     s.issues .t (.spclr o) 2 = true → ok = true →
      exec (.spclr o) s = .next (s.leaves s.begun (gates k [.spclr (lineKey a) n]) (s.self.pc + 2) 0)) ∧
    (let n := o.reg.toNat + 1
     let (a, ok) := spReach k o 128 (128 * n)
     s.issues .t (.spfill o) 2 = true → ok = true →
      exec (.spfill o) s = .next (s.leaves s.begun (gates k [.spfill (lineKey a) n]) (s.self.pc + 2) 0))

/-- R13, R221, R426: a scratchpad access that is not aligned, or leaves its lane, takes MISALIGN with its address in the
record, and nothing of its bundle takes effect. -/
def ScratchpadMisalignClaim : Prop :=
  ∀ (s : State) (o : PFmt) (i : Instr) (sl : Slot) (align size : Nat),
    (sl, i, align, size) ∈ [(.l, .lds o, 8, 8), (.l, .ldsr o, 128, 128), (.l, .ldst o, 128, 4096), (.l, .ldsc o, 128, 4096),
      (.t, .sts o, 8, 8), (.t, .stsr o, 128, 128), (.t, .stst o, 128, 4096), (.t, .spclr o, 128, 128 * (o.reg.toNat + 1)),
      (.t, .spfill o, 128, 128 * (o.reg.toNat + 1))] →
    s.issues sl i 2 = true → (spReach s.begun.self o align size).2 = false →
    exec i s = .next (drain s.cur (takeTrap s.cur sl.num .misalign
      (BitVec.ofNat 64 (spReach s.begun.self o align size).1) 0 s.tried))

/-! Global memory. -/

/-- What an access needs of its handle's page to proceed (R138, R248): VALID, aligned within the page, readable, writable
and not copy-on-write, and for an atomic stored as it is delivered. -/
def pageReady (k : Core) (h : BitVec 4) (off align size : Nat) (read write atom : Bool) : Bool :=
  let hd := k.regs.handle h.toNat
  let e := hd.page.leaf
  hd.state == .valid && decide (off % align = 0) && decide (off + size ≤ pageSize e) && (!read || leafR e)
    && (!write || (leafW e && !leafCow e)) && (!atom || leafSfmt e == leafDfmt e)

/-- A global load on its way, with no value yet: it takes its value as it returns (R253, R279, R290, R292). -/
def loading (k : Core) (now : Nat) (d : Dest) (o : GFmt) (off size hit : Nat) : Core :=
  let (src, p) := (k.regs.handle o.h.toNat).page.at off
  { k with loads := k.loads ++
    [⟨d, src, p, size, o.cls.toNat, false, o.sc.toNat, none, now + hit, k.region, k.seq⟩] }

/-- Whether a load of a range finds no error that traps: the launch is not strict, or neither a dirty line of the L1 nor what the
slice gives of the range is replaced by zeros (R425, R450). -/
def unreplaced (s : State) (k : Core) (sc : BitVec 3) (src : Src) (p size : Nat) : Bool :=
  !(s.launch k.launch).strict || (decide (k.badL1 src (linesOf p size) = 0) && (!s.zeroed src p size
    || (k.sliceLines sc src p size).all fun l => !s.zeroed src (l * 128) 128))

/-- R248, R272, R276 to R279, R292: the global loads of a readable page: the load is on its way. A launch that is not strict, or
reads no replaced data, does not trap. -/
def GlobalLoadsClaim : Prop :=
  ∀ (s : State) (o : GFmt),
    let k := s.begun.self
    let off := fun (size : Nat) => ((k.regs.rd o.ro).toNat + o.off.toNat * size) % 2 ^ 64
    let clean := fun (size : Nat) =>
      let (src, p) := (k.regs.handle o.h.toNat).page.at (off size)
      unreplaced s k 0 src p size
    (s.issues .l (.ldg o) 2 = true → pageReady k o.h (off 8) 8 8 true false false = true → clean 8 = true →
      exec (.ldg o) s = .next (s.leaves s.begun (loading k s.now (k.scalarDest (regLow o.reg)) o (off 8) 8 6)
        (s.self.pc + 2) 0)) ∧
    (s.issues .l (.ldgr o) 2 = true → pageReady k o.h (off 128) 128 128 true false false = true → clean 128 = true →
      exec (.ldgr o) s = .next (s.leaves s.begun
        (loading k s.now (k.rowDest (regHigh o.reg) (regLow o.reg)) o (off 128) 128 6) (s.self.pc + 2) 0)) ∧
    (s.issues .l (.ldgt o) 2 = true → pageReady k o.h (off 4096) 128 4096 true false false = true → clean 4096 = true →
      exec (.ldgt o) s = .next (s.leaves s.begun
        (loading k s.now (.tile (physTile k.regs.rrb (regHigh o.reg))) o (off 4096) 4096 37) (s.self.pc + 2) 0)) ∧
    (s.issues .l (.ldscg o) 2 = true → pageReady k o.h (off 256) 256 256 true false false = true → clean 256 = true →
      exec (.ldscg o) s = .next (s.leaves s.begun (loading k s.now (.scale (o.reg.toNat % 16)) o (off 256) 256 8)
        (s.self.pc + 2) 0))

/-- R253, R255, R264, R296, R310, R311: LDG.ACQ and LDGR.ACQ of a readable page, with no earlier load that must come first,
and no seepage and no replaced data that traps at the slice: errors of the L1's lines are met first; at CLUSTER scope or wider
the L1's clean bytes go; the bytes are those of the slice, the core's own dirty bytes over them, taken at issue; the lines that
the core cannot give whole are read and fill the L1, the slice counting what it converts and what it finds in error. -/
def GlobalAcquiresClaim : Prop :=
  ∀ (s : State) (o : GFmt) (i : Instr) (d : Dest) (size : Nat),
    let k := s.begun.self
    (i, d, size) ∈ [(.ldgAcq o, k.scalarDest (regLow o.reg), 8),
      (.ldgrAcq o, k.rowDest (regHigh o.reg) (regLow o.reg), 128)] →
    let off := ((k.regs.rd o.ro).toNat + o.off.toNat * size) % 2 ^ 64
    let (src, p) := (k.regs.handle o.h.toNat).page.at off
    s.issues .l i 2 = true → pageReady k o.h off size size true false false = true →
    k.loadsBefore o.cls.toNat src p size = false →
    ((k.sliceLines o.sc src p size).isEmpty || (s.begun.seeps src p s.cur).isNone) = true →
    unreplaced s k o.sc src p size = true →
    let (b, k0) := findL1 src (linesOf p size) s.begun k
    let own := fun (x : Nat) => if o.sc = 0 then k0.ownByte src x else k0.dirtyByte src x
    let bytes := (placed p (b.delivered src p size)).map fun w => (own w.1).getD w.2
    let k1 := if o.sc = 0 then k0 else k0.dropClean
    let (t, k2) := readLines k.launch src s.ctr (k0.sliceLines o.sc src p size) { b with ctr := s.ctr + 1 } k1
    exec i s = .next (s.leaves t
      { k2 with
        loads := k2.loads ++ [⟨d, src, p, size, o.cls.toNat, true, o.sc.toNat, some bytes, s.now + 6, k.region, k.seq⟩] }
      (s.self.pc + 2) 0)

/-- R248, R271, R277: the global stores to a writable page that is not copy-on-write: the bytes join the gated buffer, with
their class and scope, a release marked as one; a tile is 32 row stores. Memory itself is unchanged. -/
def GlobalStoresClaim : Prop :=
  ∀ (s : State) (o : GFmt),
    let k := s.begun.self
    let off := fun (size : Nat) => ((k.regs.rd o.ro).toNat + o.off.toNat * size) % 2 ^ 64
    let place := fun (size : Nat) => (k.regs.handle o.h.toNat).page.at (off size)
    let store := fun (at' : Src × Nat) (bs : List Byte) (rel : Bool) =>
      Effect.store at'.1 (placed at'.2 bs) o.cls.toNat o.sc.toNat rel
    let word := bytesOf 8 (k.regs.rd (regLow o.reg))
    let row := fun (r : Nat) => rowBytes (k.row (physTile k.regs.rrb (regHigh o.reg)) r)
    (∀ rel : Bool, let i : Instr := if rel then .stgRel o else .stg o
      s.issues .t i 2 = true → pageReady k o.h (off 8) 8 8 false true false = true →
      exec i s = .next (s.leaves s.begun (gates k [store (place 8) word rel]) (s.self.pc + 2) 0)) ∧
    (∀ rel : Bool, let i : Instr := if rel then .stgrRel o else .stgr o
      s.issues .t i 2 = true → pageReady k o.h (off 128) 128 128 false true false = true →
      exec i s = .next (s.leaves s.begun (gates k [store (place 128) (row (regLow o.reg).toNat) rel]) (s.self.pc + 2) 0)) ∧
    (s.issues .t (.stgt o) 2 = true → pageReady k o.h (off 4096) 128 4096 false true false = true →
      exec (.stgt o) s = .next (s.leaves s.begun
        (gates k ((List.range 32).map fun r => store ((place 4096).1, (place 4096).2 + 128 * r) (row r) false))
        (s.self.pc + 2) 0))

/-- The new operand of each atomic from the old one, and its flags (R281, R282): `w` bits, `b` and `c` its operands. -/
def atomicResult (f : Fmt) (old b c : Nat) : Instr → Option (Nat × BitVec 5)
  | .aadd _ => some ((old + b) % 2 ^ f.width, 0)
  | .amin _ => some (match f with
      | .int s w => (if intOf s w b < intOf s w old then b else old, 0)
      | .flt _ => (old, 0))
  | .amax _ => some (match f with
      | .int s w => (if intOf s w old < intOf s w b then b else old, 0)
      | .flt _ => (old, 0))
  | .aand _ => some (old &&& b, 0)
  | .aor _ => some (old ||| b, 0)
  | .axor _ => some (old ^^^ b, 0)
  | .axchg _ => some (b, 0)
  | .acas _ => some (if old = c then b else old, 0)
  | .afadd _ => some (let x := xadd .rne (fp32.value old) (fp32.value b)
      let r := roundWith x.1 (.flt fp32) .rne false 0
      (r.1, x.2 ||| r.2))
  | _ => none

/-- R138, R248, R274, R426: what a load, an acquire or a store through a handle traps on, in this order: an INVALID handle; a REVOKED one; a
FAULTED one, with its recorded address; an access that is not aligned or leaves its page; one that the page does not permit;
a store to a copy-on-write page. The record holds the virtual address and the handle's number. -/
def HandleTrapsClaim : Prop :=
  ∀ (s : State) (o : GFmt) (i : Instr) (sl : Slot) (align size : Nat) (write : Bool),
    (sl, i, align, size, write) ∈ [(.l, .ldg o, 8, 8, false), (.l, .ldgr o, 128, 128, false), (.l, .ldgt o, 128, 4096, false),
      (.l, .ldscg o, 256, 256, false), (.l, .ldgAcq o, 8, 8, false), (.l, .ldgrAcq o, 128, 128, false), (.t, .stg o, 8, 8, true), (.t, .stgRel o, 8, 8, true), (.t, .stgr o, 128, 128, true),
      (.t, .stgrRel o, 128, 128, true), (.t, .stgt o, 128, 4096, true)] →
    s.issues sl i 2 = true →
    let k := s.begun.self
    let hd := k.regs.handle o.h.toNat
    let e := hd.page.leaf
    let off := ((k.regs.rd o.ro).toNat + o.off.toNat * size) % 2 ^ 64
    let va := BitVec.ofNat 64 (hd.page.base + off)
    let traps := fun (t : Trap) (w1 w2 : W64) =>
      exec i s = .next (drain s.cur (takeTrap s.cur sl.num t w1 w2 s.tried))
    let inPage : Prop := off % align = 0 ∧ off + size ≤ pageSize e
    (hd.state = .invalid → traps .handleInvalid 0 0) ∧
    (hd.state = .revoked → traps .handleRevoked va (o.h.zeroExtend 64)) ∧
    (hd.state = .faulted → traps .pageFault hd.va (o.h.zeroExtend 64)) ∧
    (hd.state = .valid → ¬ inPage → traps .misalign va (o.h.zeroExtend 64)) ∧
    (hd.state = .valid → inPage → (if write then leafW e else leafR e) = false → traps .permFault va (o.h.zeroExtend 64)) ∧
    (hd.state = .valid → inPage → write = true → leafW e = true → leafCow e = true →
      traps .cowWrite va (o.h.zeroExtend 64))

/-- R138, R248, R280, R283, R426: what an atomic traps on, in this order, its implicit mark taken: an INVALID handle; a REVOKED
one; a FAULTED one; an operand that is not aligned or leaves its page; a page that is not both readable and writable; a page
whose stored and delivered formats differ; a copy-on-write page. Nothing of the atomic is done: no line is written down for it
and memory stands. -/
def AtomicTrapsClaim : Prop :=
  ∀ (s : State) (o : AFmt) (i : Instr), i ∈ [.aadd o, .amin o, .amax o, .aand o, .aor o, .axor o, .axchg o, .acas o,
      .afadd o] →
    s.issues .t i 2 = true →
    let k := s.marked.self
    let hd := k.regs.handle o.h.toNat
    let e := hd.page.leaf
    let n := (fmtOf o.ty).width / 8
    let off := ((k.regs.rd o.ro).toNat + o.off.toNat * n) % 2 ^ 64
    let va := BitVec.ofNat 64 (hd.page.base + off)
    let hn : W64 := o.h.zeroExtend 64
    let traps := fun (t : Trap) (w1 w2 : W64) =>
      exec i s = .next (drain s.cur (takeTrap s.cur 5 t w1 w2 (implicitMark s.cur s.tried)))
    let inPage : Prop := off % n = 0 ∧ off + n ≤ pageSize e
    (hd.state = .invalid → traps .handleInvalid 0 0) ∧
    (hd.state = .revoked → traps .handleRevoked va hn) ∧
    (hd.state = .faulted → traps .pageFault hd.va hn) ∧
    (hd.state = .valid → ¬ inPage → traps .misalign va hn) ∧
    (hd.state = .valid → inPage → (leafR e && leafW e) = false → traps .permFault va hn) ∧
    (hd.state = .valid → inPage → leafR e = true → leafW e = true → leafSfmt e ≠ leafDfmt e → traps .permFault va hn) ∧
    (hd.state = .valid → inPage → leafR e = true → leafW e = true → leafSfmt e = leafDfmt e → leafCow e = true →
      traps .cowWrite va hn)

/-! The X slot. -/

/-- The queue and the KIND of each push (R313, R317, R321): EPUSH names its queue, and its KIND is byte 0 of the line. -/
def pushKind (o : XCmd) : Instr → Option (Nat × Option Nat)
  | .epush _ => some (o.q.toNat, none)
  | .cpy _ => some (0, some 0x01) | .cpyt _ => some (0, some 0x02) | .cpyf _ => some (0, some 0x03)
  | .cpyh _ => some (0, some 0x04)
  | .bxch _ => some (1, some 0x10)
  | .allred _ => some (2, some 0x20) | .rscat _ => some (2, some 0x21) | .agath _ => some (2, some 0x22)
  | .bcast _ => some (2, some 0x23) | .alltoall _ => some (2, some 0x24) | .reshard _ => some (2, some 0x28)
  | .plq _ => some (o.q.toNat, some 0x30)
  | _ => none

/-- The words that the X slot's reads give (R228, R322 to R324, R378, R393, R396), of the state before the bundle. -/
def readWord (b : State) : Instr → Option (BitVec 5 × W64)
  | .eqstat o => some (o.rd,
      let q := o.q.toNat
      BitVec.ofNat 64 ((if q = 0 then 64 - (b.cluster (coreCluster b.cur)).tbuf.length else 0) * 2 ^ 48
        + b.self.resv.get 0 q * 2 ^ 32 + (b.self.elems.get [] q).length * 2 ^ 16
        + b.roomIn q (pushTarget b.cur q) b.self.launch))
  | .fdrd o => some (o.rd, (b.fds b.self.launch).read (4 * (o.q.toNat % 16) + o.fn.toNat))
  | .semrd o => some (o.rd, BitVec.ofNat 64 (b.sem (coreCluster b.cur) o.sem.toNat))
  | .cstatReshard o => some (o.rd,
      let l := b.launch b.self.launch
      let n := o.q.toNat % 16
      BitVec.ofNat 64 ((l.rseq.read n).toNat * 2 ^ 32 + (l.rretry.read n).toNat * 2 ^ 16 + (l.rstate.read n).toNat))
  | .cstatLinks o => some (o.rd,
      let f := coreDie b.cur
      BitVec.ofNat 64 (b.lgen.toNat * 2 ^ 32 + ((b.launch b.self.launch).recov.read f).toNat * 2 ^ 16
        + b.sluiceUsed f b.self.launch * 2 ^ 8))
  | .plres o => some (o.rd, (b.launch b.self.launch).prec.read
      (((b.cur / 384 * 8 + o.q.toNat % 8) * 16 + o.fn.toNat) * 4 + o.q.toNat / 16))
  | _ => none

/-- R235 to R239: SEND puts its row on its way to the line of a lane, 14 cycles; RECV and RECVADD take a mark before they wait,
and once their line is full and the core's own changes of it have reached it they take it: the line is emptied at once, and
the row, or its sum with the old row rounded to nearest, is on its way. All three end the restart region; before the row of a
SEND goes, the dirty lines of class 0 that earlier bundles stored go down (R288, R293). At an offset that is no multiple of
128, or past the lane's end, each takes MISALIGN with the offset in its record, with no mark. -/
def RowTransfersClaim : Prop :=
  ∀ (s : State) (o : XP2p),
    let k := s.begun.self
    let m := s.marked
    let off := ((k.regs.rd o.ra).toNat + o.imm.toNat) % 2 ^ 64
    let a := s.cur % 8 * 2 ^ 21 + off
    let cl := coreCluster s.cur
    let b := meetReads s.cur [lineKey a] m
    let t := b.setCluster cl ((b.cluster cl).setFull (lineKey a) 1 false)
    let got := m.spView s.cur a
    let km := m.self
    let ready := linesReady m a 1 && !spError m [lineKey a] && m.self.pending.all fun e => (e.fullBit (lineKey a)).isNone
    (∀ i, i ∈ [.send o, .recv o, .recvadd o] → (off % 128 ≠ 0 ∨ 0x180000 ≤ off) → s.issues .x i 2 = true →
      exec i s = .next (drain s.cur (takeTrap s.cur 6 .misalign (BitVec.ofNat 64 off) 0 s.tried))) ∧
    (off % 128 = 0 → off < 0x180000 →
    (s.issues .x (.send o) 2 = true →
      exec (.send o) s = .next (s.leavesDown s.begun
        { k with sends := k.sends ++
          [⟨o.lane.toNat, off, k.row (physTile k.regs.rrb o.ta) o.rowa.toNat, s.now + 14, k.seq⟩] } (s.self.pc + 2) 0)) ∧
    (s.issues .x (.recv o) 2 = true → ready = true →
      exec (.recv o) s = .next (s.leavesMark t (km.awaits (.row false) (km.rowDest o.ta o.rowa) [got] 0 (s.now + 2))
        (s.self.pc + 2) 0)) ∧
    (s.issues .x (.recvadd o) 2 = true → ready = true →
      let ty : BitVec 5 := match o.lane.toNat with
        | 0 => 0x08 | 1 => 0x0A | 2 => 0x09 | 3 => 0x02 | 4 => 0x01 | _ => 0x00
      let w := (fmtOf ty).width
      let old := rowElem km ty o.ta o.rowa
      let new := fun (i : Nat) => got.toNat / 2 ^ (w * i) % 2 ^ w
      let (v, fl, may) := match fmtOf ty with
        | .int s w =>
          (pack w ((List.range (1024 / w)).map fun i => wrapInt w (intOf s w (old i) + intOf s w (new i))), 0, false)
        | .flt f =>
          let (v, r) := roundRow (.flt f) .rne false (1024 / w)
            (fun i => xadd .rne (f.value (old i)) (f.value (new i))) ⟨km.regs.seed, 0⟩
          (v, r.flags, true)
      exec (.recvadd o) s = .next (s.leavesMark t
        (km.awaits (.row may) (km.rowDest o.ta o.rowa) [BitVec.ofNat 1024 v] fl (s.now + 4)) (s.self.pc + 2) 0)))

/-- R62, R225 to R227, R229: SEMADD and SEMSET of a legal operand join the gated buffer, an increment counted as admitted
from its issue; SEMWAIT, where its counter has reached its operand, passes as an acquire, and with DEC takes its operand off,
which a rollback would return. -/
def SemaphoreOperationsClaim : Prop :=
  ∀ (s : State) (o : XSem),
    let n := o.sem.toNat
    let cl := coreCluster s.cur
    let val := fun (k : Core) => ((k.regs.rd o.ra).toNat + o.imm.toNat) % 2 ^ 64
    (let k := s.begun.self
     let v := val k
     s.issues .x (.semadd o) 2 = true → s.begun.sem cl n + s.begun.adm cl n + v ≤ 65535 →
      exec (.semadd o) s = .next (s.leaves (s.begun.setAdm cl n (s.begun.adm cl n + v)) (gates k [.semadd n v])
        (s.self.pc + 2) 0)) ∧
    (let k := s.begun.self
     s.issues .x (.semset o) 2 = true → val k ≤ 65535 →
      exec (.semset o) s = .next (s.leaves s.begun (gates k [.semset n (val k)]) (s.self.pc + 2) 0)) ∧
    (let m := s.marked
     let k := m.self
     let v := val k
     let q := m.cluster cl
     let t := m.setCluster cl { q with last := q.last.put n (s.cur % 8) }
     s.issues .x (.semwait o) 2 = true → v ≤ 65535 → v ≤ m.sem cl n →
      exec (.semwait o) s = .next
        (if o.fn.getLsbD 0 then s.leaves (t.setSem cl n (m.sem cl n - v)) { k.dropClean with decr := k.decr ++ [(n, v)] }
          (s.self.pc + 2) 0
         else s.leaves t k.dropClean (s.self.pc + 2) 0))

/-- R225, R226, R229, R230: a semaphore operation that its counter cannot hold takes SEM_OVERFLOW, which the cluster counts:
an operand above 65,535 of SEMSET or SEMWAIT, and an increment that the counter with what is admitted to it could not take, which also
leaves the counter at 65,535. -/
def SemaphoreOverflowClaim : Prop :=
  ∀ (s : State) (o : XSem),
    let k := s.begun.self
    let n := o.sem.toNat
    let cl := coreCluster s.cur
    let v := ((k.regs.rd o.ra).toNat + o.imm.toNat) % 2 ^ 64
    (∀ i, i ∈ [.semset o, .semwait o] → s.issues .x i 2 = true → 65535 < v →
      exec i s
        = .next (drain s.cur (takeTrap s.cur 6 .semOverflow (BitVec.ofNat 64 n) 0 (s.tried.countSemovf s.cur)))) ∧
    (s.issues .x (.semadd o) 2 = true → 65535 < s.begun.sem cl n + s.begun.adm cl n + v →
      exec (.semadd o) s
        = .next (drain s.cur (takeTrap s.cur 6 .semOverflow (BitVec.ofNat 64 n) 0
            ((s.tried.moveSem cl n 65535).countSemovf s.cur))))

/-- R231, R232, R255: BARC and BARG. A core that has nothing left to perform, and for BARG no command of its own in an engine,
arrives; once its barrier has released and its time is over, the bundle issues as an acquire. -/
def BarrierInstructionsClaim : Prop :=
  ∀ (s : State) (o : XSem) (global : Bool),
    let i : Instr := if global then .barg o else .barc o
    let m := s.marked
    let w := implicitMark s.cur s.tried
    let k := w.self
    s.issues .x i 2 = true → k.queueDown k.seq (fun _ => true) = k →
    (s.self.pass = none → k.settled = true → (global = true → w.pushedBy s.cur = false) →
      exec i s = .next (drain s.cur (w.setCore s.cur { k with
        arrC := k.arrC || !global, arrG := k.arrG || global, arrAt := s.now }))) ∧
    (∀ t, s.self.pass = some t → t ≤ s.now →
      exec i s = .next (s.leaves m { m.self.dropClean with pass := none, passed := none } (s.self.pc + 2) 0))

/-- R232 to R234, R419: a cluster's barrier of which a lane waits releases when every lane has arrived: CLSTAT counts it, and every
waiting lane's bundle may issue twelve ticks on; where a lane has not arrived nothing changes. A launch's barrier waits too
for the commands that the pumphouse pushed for it before its last arrival; the snapshots ordered for the launch are applied
first, and it releases once their invalidations are complete. The number of ticks is the model's reading of the cycles
(log 3). -/
def ClusterBarrierReleasesClaim : Prop :=
  ∀ (s : State) (n : Nat),
    ((clusterCores n).any (fun c => (s.core c).arrC) = true → (clusterCores n).all (s.arrived false) = true →
      exec (.barrierRelease false n) s = .next ((clusterCores n).foldl
        (fun t c => t.setCore c (if (t.core c).arrC then { t.core c with arrC := false, pass := some (s.now + 12) } else t.core c))
        (s.setCluster n { s.cluster n with barcs := (s.cluster n).barcs + 1 }))) ∧
    ((clusterCores n).all (s.arrived false) = false → exec (.barrierRelease false n) s = .next s) ∧
    (∀ l, (((s.parts l).flatMap s.placedCores).all (s.arrived true) = false →
      exec (.barrierRelease true l) s = .next s)) ∧
    (∀ l, let ps := s.parts l
      let cs := ps.flatMap s.placedCores
      let before := fun (p : Push) => p.host && ps.contains p.lid && decide (p.at' < s.lastArrival cs)
      cs.any (fun c => (s.core c).arrG) = true → cs.all (s.arrived true) = true →
      (s.engineHolds before = true → exec (.barrierRelease true l) s = .next s) ∧
      (s.engineHolds before = false → (∃ q ∈ ps, s.snapsDone q = false) →
        exec (.barrierRelease true l) s = .next (ps.foldl State.applySnaps s)) ∧
      (s.engineHolds before = false → (∀ q ∈ ps, s.snapsDone q = true) →
        exec (.barrierRelease true l) s = .next (cs.foldl
          (fun t c => t.setCore c (if (t.core c).arrG then
            { t.core c with arrG := false, pass := some (s.now + 960 + 480 * s.launchLinks l) } else t.core c))
          (ps.foldl State.endSnaps s))))

/-! Steps of a core beside its issue. -/

/-- The step at which a result of a kind lands. -/
def landing (c i : Nat) : LandKind → Instr
  | .scalar _ => .scalarResultLand c i
  | .row _ => .rowResultLand c i
  | .load => .scratchpadLoadLand c i
  | .atomic _ => .atomicReturn c i
  | .sample => .sampleLand c i

/-- The byte of place `o` that a load takes (R253, R272, R292): the newest of the core's gated stores before the load, else a valid
byte of its L1, else the newest of its stores on their way, else the slice's. -/
def returned (s : State) (k : Core) (l : LoadPend) (o : Nat) : Byte :=
  let newest := fun (es : List Effect) => es.reverse.findSome? fun e => match e with
    | .store src ws _ _ _ => if src = l.src then (ws.find? fun w => w.1 == o).map (·.2) else none
    | _ => none
  let held := (k.l1.find? fun e => e.src == l.src && e.line == o / 128).bind fun e =>
    if e.valid.getLsbD (o % 128) then some (e.data.extractLsb' (8 * (o % 128)) 8) else none
  ((newest ((k.gated.filter fun g => g.seq < l.seq).map (·.eff))).orElse fun _ =>
    held.orElse fun _ => newest (k.outq.map (·.eff))).getD ((s.delivered l.src o 1).headD 0)

/-- R219, R237, R239, R274: a sent row that is due, that no earlier access of its core to class 0 comes before, that no row to
its bank blocks and no emptying of its line precedes, arrives: the line of the lane takes the row and is full, in error no
more, and a line that was full already is counted; who waited for the line issues at once. One that is not due stays. -/
def RowsArriveClaim : Prop :=
  ∀ (s : State) (c i : Nat) (p : SendPend), (s.core c).sends[i]? = some p →
    let k := s.core c
    let q := s.cluster (coreCluster c)
    let l := p.lane * 16384 + p.off / 128
    (p.due ≤ s.now → k.earlierZero p.seq true = false → sendBlocked c p s = false →
      s.emptiesFirst (coreCluster c) l p.due = false →
      exec (.sendArrival c i) s = .next (drain c (readersWoken (coreCluster c)
        ((s.setCore c { k with sends := removeAt k.sends i }).setCluster (coreCluster c) { q with
          sp := q.sp.write l p.row
          badSp := q.badSp.filter (· != l)
          full := q.full.write l 1
          spovr := if q.full.read l = 1 ∧ q.spovr ≠ 0xFFFF then q.spovr + 1 else q.spovr })))) ∧
    (s.now < p.due → exec (.sendArrival c i) s = .next (drain c s))

/-! The copy and berm engines. -/

/-- The state at the end of a command of a copy engine that has left its queue (R316, R319, R320, R343): its element with its
status and count, a failure counted, its increment. -/
def ended (cl : Nat) (p : Push) (st n : Nat) (z : Bool) (t : State) : State :=
  signalOf (clusterDie cl) p (endCommand (clusterDie cl) p st n z t)

/-- Whether a CPY or CPYT line is legal and asks for one run of `n` bytes inside the scratchpad, from `a` to `b` (R330, R331):
`op` is what its operand adds to DST. -/
def oneRun (p : Push) (op a b n : Nat) : Bool :=
  let r := p.line
  lineNum r 16 8 == 2 ^ 63 + a && lineNum r 24 8 % 2 ^ 63 + op == b && (lineNum r 24 8).testBit 63 && lineNum r 32 4 == n
    && cpyAddrOk (lineNum r 24 8) && a < 2 ^ 24 && b < 2 ^ 24 && 1 ≤ n && n ≤ 2 ^ 20 && a % 2 ^ 21 + n ≤ 0x180000
    && b % 2 ^ 21 + n ≤ 0x180000 && (List.range 5).all (fun i => lineNum r (36 + 2 * i) 2 == 1) && lineNum r 46 2 == 0

/-- The lines that `n` bytes of scratchpad from `b` meet. -/
def metLines (b n : Nat) : List Nat := nubNat ((List.range ((b % 128 + n + 127) / 128)).map fun i => lineKey (b + 128 * i))

/-- Lines of a cluster set full by an engine, and the bundles that may have waited for one tried at once (R219). -/
def filledBy (cl : Nat) (ls : List Nat) (s : State) : State :=
  if ls = [] then s else readersWoken cl (s.setCluster cl (ls.foldl (fun q l => q.setFull l 1 true) (s.cluster cl)))

/-- One run inside a cluster's scratchpad (R217, R331): the bytes read, then written, and each line of them set full. -/
def ranOne (cl a b n : Nat) (s : State) : State :=
  let q := s.cluster cl
  let q := q.setSp b ((List.range n).map fun i => (q.sp.read (lineKey (a + i))).extractLsb' (8 * ((a + i) % 128)) 8)
  filledBy cl (metLines b n) (s.setCluster cl q)

/-- No line of a cluster's scratchpad is in error, and none of some lines is to be emptied in this tick, before which no fill of it
comes (R219). -/
def fillable (cl : Nat) (ls : List Nat) (s : State) : Prop :=
  (s.cluster cl).badSp = [] ∧ ∀ l ∈ ls, s.emptiesFirst cl l s.now = false

/-- R318, R319, R330 to R334: the command at the head of a copy engine that may start leaves its queue. One of a kind that
no engine of the cluster has ends with BAD_KIND, a CPY with a field outside its limits with BAD_FIELD. A CPY of one run
inside the scratchpad moves its bytes and ends DONE with a count of one, in a cycle that empties none of its lines. A CPYF's
runs are made one by one, in order, until it ends or waits; that each run is whole before the next begins is the model's
choice (log 2), and so is which status stands of several (log 59). -/
def CopyCommandsClaim : Prop :=
  ∀ (s : State) (cl : Nat) (p : Push) (ps : List Push),
    let t := copyQueue cl
    let q := s.engq t
    let m := q.running.length
    let taken := s.setEngq t { q with entries := ps }
    let f := clusterDie cl
    q.entries = p :: ps → m < 4 → lineOrd p.line = false → lineFl p.line < 8 →
    (lineSig p.line = true → sclOk s p.lid f p.line = true) →
    (p.kind = 0 ∨ 5 ≤ p.kind → exec (.cpyCommand cl m) s = .next (ended cl p 0x02 0 false taken)) ∧
    (p.kind = 1 → cpyOk p.line = false → exec (.cpyCommand cl m) s = .next (ended cl p 0x03 0 false taken)) ∧
    (∀ a b n, p.kind = 1 → lineWaitf p.line = false → oneRun p p.opnd.toNat a b n = true → fillable cl (metLines b n) s →
      exec (.cpyCommand cl m) s = .next (ended cl p 0x01 1 false (ranOne cl a b n taken))) ∧
    (p.kind = 3 → s.reshardHolds f t p = false →
      let d := descOf (s.fds p.lid) (lineNum p.line 16 1)
      let u := startHead t p s
      (∀ st, cpyfPlan p.line p.opnd.toNat d (d.indexOf f) = .error st →
        exec (.cpyfCommand cl m) s = .next (ended cl p st 0 false taken)) ∧
      (∀ plan, cpyfPlan p.line p.opnd.toNat d (d.indexOf f) = .ok plan →
        (∀ r v, copyRuns (copyCtx u cl p) cl plan (plan.runs + 1) { push := p } u = (.ends r, v) →
          exec (.cpyfCommand cl m) s = .next (ended cl r.push r.status r.count r.zeroed
            (v.setEngq t { v.engq t with running := removeAt (v.engq t).running m }))) ∧
        (∀ r v, copyRuns (copyCtx u cl p) cl plan (plan.runs + 1) { push := p } u = (.waits r, v) →
          exec (.cpyfCommand cl m) s
            = .next (v.setEngq t { v.engq t with running := replaceAt (v.engq t).running m r }))))

/-- R331: run `i5 … i1` of a CPY lies where the sums of its bases and strides say, modulo 2^64, i1 innermost, whatever its
counts. -/
def CopyRunAddressesClaim : Prop :=
  ∀ (r : Row) (op i1 i2 i3 i4 i5 : Nat),
    let c := fun i => lineNum r (36 + 2 * i) 2
    let n := lineNum r 32 4
    let i := [i1, i2, i3, i4, i5]
    let at' := fun (base s1 : Nat) =>
      (base + ((List.range 5).map fun j => i.getD j 0 * lineNum r (s1 + 8 * j) 8).sum) % 2 ^ 64
    i1 < c 0 → i2 < c 1 → i3 < c 2 → i4 < c 3 → i5 < c 4 →
    (lineNum r 16 8).testBit 63 = false → (lineNum r 24 8).testBit 63 = false →
    let k := i1 + c 0 * (i2 + c 1 * (i3 + c 2 * (i4 + c 3 * i5)))
    k < (cpyPlan r op).runs ∧
    ∃ run, (cpyPlan r op).plan k = .ok run ∧ run.src = [.mem (at' (lineNum r 16 8) 48) n] ∧
      run.dst = [[.mem (at' (lineNum r 24 8 + op) 88) n]]

/-- R333: a CPYT at the head of its queue moves into the time buffer where that has room, after every entry of its time or
an earlier one, also while four commands run; while the buffer is full it stays. The first entry whose time has come, sixteen ticks after it entered, starts
once fewer than four commands run; one of one run inside the scratchpad moves its bytes, its operand no part of DST. -/
def TimedCopiesClaim : Prop :=
  ∀ (s : State) (cl : Nat),
    let t := copyQueue cl
    let q := s.engq t
    let k := s.cluster cl
    let due := fun (x : Timed) => x.time.toNat ≤ (s.tbase (cl / 48)).toNat && x.entered + 16 ≤ s.now
    (∀ p ps, q.entries = p :: ps → p.kind = 2 → (k.tbuf.all (fun x => !due x) = true ∨ 4 ≤ q.running.length) →
      k.tbuf.length < 64 →
      (k.tbuf.map fun x => x.time.toNat).Pairwise (· ≤ ·) →
      exec (.cpytTimedStart cl) s = .next ((s.setEngq t { q with entries := ps }).setCluster cl
        { k with tbuf := k.tbuf.filter (fun x => x.time.toNat ≤ p.opnd.toNat) ++ [⟨p.opnd, s.now, p⟩]
            ++ k.tbuf.filter (fun x => p.opnd.toNat < x.time.toNat) })) ∧
    (∀ p ps, q.entries = p :: ps → p.kind = 2 → (k.tbuf.all (fun x => !due x) = true ∨ 4 ≤ q.running.length) →
      64 ≤ k.tbuf.length →
      exec (.cpytTimedStart cl) s = .next s) ∧
    (∀ x xs a b n, k.tbuf = x :: xs → due x = true → lineOrd x.push.line = false → xs.contains x = false →
      q.running.length < 4 → x.push.kind = 2 → lineFl x.push.line < 8 →
      (lineSig x.push.line = true → sclOk s x.push.lid (clusterDie cl) x.push.line = true) →
      lineWaitf x.push.line = false → oneRun x.push 0 a b n = true → fillable cl (metLines b n) s →
      exec (.cpytTimedStart cl) s
        = .next (ended cl x.push 0x01 1 false (ranOne cl a b n ((s.setCluster cl { k with tbuf := xs }).setEngq t q))))

/-- The state at the end of a berm engine's one running exchange (R316, R338, R340): it runs no more, its element and its status stand;
the exchange is known as long as its launch runs, for the packets that come for it later. -/
def exchanged (die : Nat) (r : Run) (s : State) : State :=
  let t := bermQueue die
  endCommand die r.push r.status r.count r.zeroed (s.setEngq t { s.engq t with running := removeAt (s.engq t).running 0 })

/-- R318, R319, R337 to R341: the BXCH at the head of a berm engine. A line that is no BXCH ends
BAD_KIND. One that passes its checks and whose faces no block shares (FACES 0) is taken: the die counts it, and it is DONE at its next step,
with a count of zero. Which status stands of several is the model's choice (logs 19, 59). -/
def BermCommandsClaim : Prop :=
  ∀ (s : State) (die : Nat) (p : Push) (ps : List Push),
    let t := bermQueue die
    let q := s.engq t
    let taken := s.setEngq t { q with entries := ps }
    let l := partKey p.lid die
    let x := s.launch l
    let fd := lineFd p.line
    let k := (x.bk.read (die % 8 * 16 + fd)).toNat
    q.entries = p :: ps → q.running = [] → s.reshardHolds die t p = false →
    (p.kind ≠ 0x10 → exec (.bxchCommand die 0) s = .next (endCommand die p 0x02 0 false (signalOf die p taken))) ∧
    (p.kind = 0x10 → fd < 16 → bxchStatus s die p = none → lineFaces p.line = 0 → x.bheld = [] →
      exec (.bxchCommand die 0) s = .next
        (let u := taken.setLaunch l
          { x with
            bk := x.bk.write (die % 8 * 16 + fd) (BitVec.ofNat 32 (k + 1))
            bcmds := (x.bcmds.filter fun y => !(y.die == die && y.fd == fd && y.k == k)) ++
              [{ die, fd, k, faces := 0, mode := BitVec.ofNat 8 (lineMode p.line), sem := lineSem p.line
                 cl := sigCluster die p.line, got := 0, lost := 0 }] }
        u.setEngq t { q with entries := ps, running := [{ push := p, k }] })) ∧
    (∀ r, lineFaces r.push.line = 0 → r.out = 0 →
      let v := s.setEngq t { q with running := [r] }
      exec (.bxchCommand die 0) v = .next (exchanged die r v))

/-- What a berm engine reads of a halo face's elements (R339): their bytes, whether some were replaced by zeros, the state. -/
def faceRead (x : EngCtx) (d : FieldDesc) (i : Nat) (ps : List (Nat × Nat × Nat)) (s : State) : List Byte × Bool × State :=
  ps.foldl (fun a p =>
    let (bs, z, s) := x.read (d.vectorVa i p) d.vec a.2.2
    (a.1 ++ bs, a.2.1 || z, s)) ([], false, s)

/-- The pages of a polder's positions, for reads or for writes. -/
def facePages (d : FieldDesc) (i : Nat) (write : Bool) (ps : List (Nat × Nat × Nat)) : List (Bool × Nat) :=
  ps.flatMap fun p => (pageVas (d.vectorVa i p) d.vec).map fun va => (write, va)

/-- R338 to R341: a running exchange whose one face still to make is another block's halo reads it, once its pages are there, and
puts it on its way from its own die to the die of that block; it ends only when every face it has sent has performed. One whose
pages fail takes the status and sends a notice in the face's place, which is the model's (DEDUCED, log 19). A face on a boundary
of mode NONE gives its increment at once. -/
def FacesAreSentClaim : Prop :=
  ∀ (s : State) (die : Nat) (r : Run),
    let t := bermQueue die
    let q := s.engq t
    let d := bermDesc s die r.push
    let i := (d.indexOf die).getD 0
    let items := bermItems d i (lineFaces r.push.line)
    let x := bermCtx s die r.push.lid
    let fd := lineFd r.push.line
    let face := fun (f peer : Nat) (bs : List Byte) (st : Option Nat) =>
      ({ lid := r.push.lid % 65536, src := die, dst := d.dieOf peer, fd, k := r.k, face := f
         faces := BitVec.ofNat 8 (lineFaces r.push.line), mode := 0, carry := { at' := die, data := bs }, fail := st
         sc := r.push.sc } : BermMsg)
    q.running = [r] → items.length = r.prog + 1 → lineMode r.push.line = 0 →
    (∀ f peer u bs z v, items[r.prog]? = some (.send f peer) →
      let ps := (d.facePoints f false).map (d.sourceOf f)
      x.prepare (facePages d i false ps) s = .ready u → faceRead x d i ps u = (bs, z, v) →
      let v := x.done ((facePages d i false ps).map (·.2)) v
      let w : State := { v with berms := v.berms ++ [face f peer bs none] }
      exec (.bxchCommand die 0) s = .next (w.setEngq t { w.engq t with
        running := replaceAt (w.engq t).running 0
          { r with prog := r.prog + 1, out := r.out + 1, zeroed := r.zeroed || z } })) ∧
    (∀ f peer u st, items[r.prog]? = some (.send f peer) → r.out ≠ 0 →
      let ps := (d.facePoints f false).map (d.sourceOf f)
      x.prepare (facePages d i false ps) s = .fails u st →
      let v := x.done ((facePages d i false ps).map (·.2)) u
      let w : State := { v with berms := v.berms ++ [face f peer [] (some st)] }
      exec (.bxchCommand die 0) s = .next (w.setEngq t { w.engq t with
        running := replaceAt (w.engq t).running 0 { r.fail st with prog := r.prog + 1 } })) ∧
    (∀ f, items[r.prog]? = some (.own f) → d.boundOf f = 0 →
      r.out = 0 → exec (.bxchCommand die 0) s
        = .next (exchanged die { r with prog := r.prog + 1 } (s.markFace r.push.lid die fd r.k f .filled)))

/-- A face that its die has not got, lost to the exchange it is for (R341). -/
def faceLost (m : BermMsg) (st : Nat) (s : State) : State :=
  let s := s.mapRuns (bermQueue m.src) (fun r => r.isBxch m.lid m.fd m.k) fun r => { r.fail st with out := r.out - 1 }
  if st = 9 then s.setDie m.src { s.die m.src with bermlink := sat16 (s.die m.src).bermlink } else s

/-- R270, R338 to R341, R445: a face on its way goes on die by die: at once inside a package; over an external link its bytes are cut
into packets of two flits, and have crossed once the far port has delivered them all, so that they come whole; where no way
lives, it is lost. One that reaches its die, whose exchange has started with its FACES and BMODE, is written into the halo and
gives its increment once. One whose pages fail there (PAGE_FAULT or PERM) has written what comes before the page, gives no
increment and is lost to that die, and its sender ends with that status. A face whose exchange has not started waits for it. The
way, the notice and its status, and the cut into packets are the model's (DEDUCED, logs 19, 31; DESIGN CHOICE, log 54). -/
def FacesArriveClaim : Prop :=
  (∀ bs : List Byte, ((payloadsOf bs).flatMap (bytesOf 256)).take bs.length = bs) ∧
  ∀ (s : State) (n : Nat) (m : BermMsg), s.berms[n]? = some m →
    let l := partKey m.lid m.dst
    let s' := { s with berms := removeAt s.berms n }
    let d := descOf (s.fds l) m.fd
    let i := (d.indexOf m.dst).getD 0
    let x := bermCtx s m.dst m.lid
    let ps := d.facePoints m.face (m.mode == 1)
    let vas := (facePages d i true ps).map (·.2)
    let vectors := (numbered 0 ps).map fun e => (d.vectorVa i e.2, (m.carry.data.drop (e.1 * d.vec)).take d.vec)
    let mine := fun (r : Run) => r.isBxch m.lid m.fd m.k
    let lost := fun (u : State) (b : BermCmd) =>
      m.k < u.bermTaken m.lid m.dst m.fd → u.bermCmd m.lid m.dst m.fd m.k = some b → b.faces.getLsbD m.face = true →
      (b.got ||| b.lost).getLsbD m.face = false →
      exec (.bermFaceArrival n) s = .next (u.putBermCmd m.lid { b with lost := b.lost ||| (1#8 <<< m.face) })
    (s.launch l).phase = .placed → m.fail = none →
    (m.carry.at' = m.dst → bermDiffers m s = false →
      (∀ u, x.prepare (facePages d i true ps) s' = .ready u →
        let w := x.done vas (vectors.foldl (fun s e => x.write e.1 e.2 s) u)
        let w := w.mapRuns (bermQueue m.src) mine fun r => { r with out := r.out - 1, count := r.count + 1 }
        (w.bermTaken m.lid m.dst m.fd ≤ m.k → exec (.bermFaceArrival n) s = .next (w.setLaunch l
          { w.launch l with bheld := (w.launch l).bheld ++ [{ m with carry := { at' := m.dst } }] })) ∧
        (∀ b, m.k < w.bermTaken m.lid m.dst m.fd → w.bermCmd m.lid m.dst m.fd m.k = some b → b.faces = m.faces →
          b.mode = m.mode → b.faces.getLsbD m.face = true → (b.got ||| b.lost).getLsbD m.face = false →
          exec (.bermFaceArrival n) s
            = .next ((w.engineInc b.cl b.sem 1).putBermCmd m.lid { b with got := b.got ||| (1#8 <<< m.face) }))) ∧
      (∀ u, x.prepare (facePages d i true ps) s' = .waits u → exec (.bermFaceArrival n) s = .next { u with berms := s.berms }) ∧
      (∀ u st b, x.prepare (facePages d i true ps) s' = .fails u st → st = 7 ∨ st = 8 →
        lost (faceLost m st (x.done vas (x.writePart vectors u))) b)) ∧
    (m.carry.at' ≠ m.dst →
      (∀ b, s.nextDie m.carry.at' m.dst = none → lost (faceLost m 9 s') b) ∧
      (∀ g, s.nextDie m.carry.at' m.dst = some g → s.joined m.carry.at' g = true →
        (s.external m.carry.at' g = none → exec (.bermFaceArrival n) s = .next
          { s with berms := replaceAt s.berms n { m with carry := { at' := g, data := m.carry.data } } }) ∧
        (∀ a qs left u ds cut v, s.external m.carry.at' g = some a → m.carry.path = [] →
          sendAll m.carry.at' (3 + a) m.header (payloadsOf m.carry.data) s = (qs, left, u) →
          takeAll g (3 + a) qs u = (ds, cut, v) →
          exec (.bermFaceArrival n) s = .next { v with berms := replaceAt v.berms n { m with carry :=
            if left = [] ∧ cut = [] then { at' := g, data := (ds.flatMap (bytesOf 256)).take m.carry.data.length }
            else { m.carry with path := [g], across := true, left, cut, got := ds } } })))

/-! The sluice engine. -/

/-- R346, R347, R350: an entry of a die's sluice queue that no earlier entry of its launch, and for a RESHARD no posted one of its
descriptor, holds back is posted. One of a kind that the engine does not know ends with BAD_KIND, one whose box is not a box of
its launch that holds the die with BAD_FIELD. Any other counts on its box and waits there; the last of the G commands of one
number on the box makes the match, and one whose lines do not agree ends every member's with BAD_FIELD. That
posting is in queue order is the model's choice where the spec leaves it open (log 2), and so is what of a RESHARD's lines must agree
(DEDUCED, log 32). -/
def CollectivesMatchClaim : Prop :=
  ∀ (s : State) (die i : Nat) (p : Push),
    let t := sluiceQueue die
    let q := s.engq t
    let u := s.setEngq t { q with entries := removeAt q.entries i }
    let b := u.boxOf p
    let d := descOf (u.fds p.lid) (lineFd p.line)
    let counts := [0x20, 0x21, 0x22, 0x23, 0x24].contains p.kind || (p.kind == 0x28 && lineFd p.line < 16 && !d.unset)
    let x := s.launch p.lid
    let k := x.posts.get 0 (boxKey die b)
    let v := u.setLaunch p.lid { x with posts := x.posts.put (boxKey die b) (k + 1) }
    let r : Run := { push := p, k, status := postStatus u die p, before := u.naming p }
    let w := v.setEngq t { v.engq t with running := q.running ++ [r] }
    q.entries[i]? = some p → s.mayPost die i p = true → (q.running.all fun e => e.push != p) = true →
    (counts = false → p.kind ≠ 0x28 → exec (.collectiveMatch die i) s = .next (endPosted die p 0x02 0 false u)) ∧
    (counts = true → (u.boxOk p b = false ∨ (boxDies b).contains die = false) →
      exec (.collectiveMatch die i) s = .next (endPosted die p 0x03 0 false u)) ∧
    (counts = true → u.boxOk p b = true → (boxDies b).contains die = true →
      (w.colls.all fun c => !c.pushes.contains p) = true →
      ((boxDies b).mapM (w.partner p.lid k b) = none → exec (.collectiveMatch die i) s = .next w) ∧
      (∀ rs, (boxDies b).mapM (w.partner p.lid k b) = some rs → (rs.all fun e => e.status == stDone) = true →
        (rs.any fun e => !sameLine (rs.headD r).push e.push) = true →
        exec (.collectiveMatch die i) s
          = .next (((boxDies b).zip rs).foldl (fun s e => endPosted e.1 e.2.push 0x03 0 false s) w)) ∧
      (∀ e rs, (boxDies b).mapM (w.partner p.lid k b) = some (e :: rs) → ((e :: rs).all fun e => e.status == stDone) = true →
        (rs.all fun f => sameLine e.push f.push) = true →
        let dies := boxDies b
        let trees := if e.push.kind = 0x28 then [] else w.deriveTrees dies (rootOf e.push dies) 3 w.liveLinks
        (trees ≠ [] ∨ e.push.kind = 0x28 → ∃ c, exec (.collectiveMatch die i) s = .next { w with colls := w.colls ++ [c] } ∧
          c.lid = e.push.lid % 65536 ∧ c.k = e.k ∧ c.box = b ∧ c.kind = e.push.kind ∧ c.dies = dies ∧
          c.pushes = (e :: rs).map (·.push) ∧ c.trees = trees ∧ c.need = rowsNeeded e.push.kind trees.length ∧
          c.granted = 0 ∧ c.started = false ∧ c.runs = [] ∧ c.counts = dies.map fun _ => 0) ∧
        (trees = [] → e.push.kind ≠ 0x28 → exec (.collectiveMatch die i) s
          = .next ((dies.zip (e :: rs)).foldl (fun s e => endPosted e.1 e.2.push 0x09 0 false s) w))))

/-- R358, R363, R364, R367: the member that a collective asks next, in ascending order, grants its rows where its pool holds
them and no request there that fits comes before: the pool shrinks and the next is asked; with the last grant a RESHARD's word reads
RUNNING with no retries on every part (DEDUCED, log 34), unless a running collective has its identifier, for which it waits (R348;
DEDUCED, log 32). A member whose pool is too small grants nothing. -/
def StagingGrantsClaim : Prop :=
  ∀ (s : State) (i f : Nat) (c : Coll), s.colls[i]? = some c → c.asks = some f →
    let d := s.die f
    let t := s.setDie f { d with pool := d.pool - c.need }
    let g : Coll := { c with granted := c.granted + 1 }
    let ahead := s.colls.any fun x => x.asks == some f && x.need ≤ d.pool && keyLess x.key c.key
    (d.pool < c.need → exec (.stagingGrant i) s = .next s) ∧
    (c.need ≤ d.pool → ahead = false → c.granted + 1 ≠ c.dies.length →
      exec (.stagingGrant i) s = .next (t.setColl i g)) ∧
    (c.granted + 1 = c.dies.length → (s.colls.any fun x => x.started && x.cid == c.cid) = true →
      exec (.stagingGrant i) s = .next s) ∧
    (c.need ≤ d.pool → ahead = false → c.granted + 1 = c.dies.length → c.kind = 0x28 →
      (s.colls.any fun x => x.started && x.cid == c.cid) = false →
      exec (.stagingGrant i) s = .next ((nubNat (c.pushes.flatMap fun p => s.parts p.lid)).foldl
        (fun s l => s.setLaunch l { s.launch l with
          rstate := (s.launch l).rstate.write (lineFd c.line) 1, rretry := (s.launch l).rretry.write (lineFd c.line) 0 })
        (t.setColl i { g with started := true, live := t.liveLinks })))

/-- R352, R353, R362, R368: a member of a collective to which everything of a chunk has come, and whose pages are there, writes the
bytes, then the audit byte, then the mark, once; its count rises where it receives bytes. A member that misses something
writes nothing; a page that fails ends the collective at every member, with what lies before the page written (R270). -/
def ChunksFinishClaim : Prop :=
  ∀ (s : State) (i die n : Nat) (c : Coll) (r : ChunkRun) (m : MemberChunk), s.colls[i]? = some c →
    c.runs.find? (fun r => r.chunk == n) = some r → r.at'.find? (fun m => m.die == die) = some m →
    ((m.done = true ∨ chunkHere c r m = false) → exec (.chunkFinish i die n) s = .next s) ∧
    (∀ u, m.done = false → chunkHere c r m = true → (c.ctx s die).prepare (c.chunkPages r die) s = .ready u →
      let v := (c.ctx s die).done ((c.chunkPages r die).map (·.2)) (writeChunk c r m u)
      let r' : ChunkRun := { r with at' := r.at'.map fun x => if x.die == die then { x with done := true } else x }
      let counts := (c.dies.zip c.counts).map fun e => if e.1 == die && !c.idleIn die n then e.2 + 1 else e.2
      (r'.at'.all (·.done) = false → exec (.chunkFinish i die n) s
        = .next (v.setColl i { c with counts, runs := c.runs.map fun x => if x.chunk == n then r' else x })) ∧
      (r'.at'.all (·.done) = true → exec (.chunkFinish i die n) s
        = .next (startChunks i (c.chunks + 1) (v.setColl i
          { c with counts, runs := c.runs.filter fun x => x.chunk != n, fin := c.fin ||| 2 ^ n })))) ∧
    (∀ u, m.done = false → chunkHere c r m = true → (c.ctx s die).prepare (c.chunkPages r die) s = .waits u →
      exec (.chunkFinish i die n) s = .next u) ∧
    (∀ u st, m.done = false → chunkHere c r m = true → (c.ctx s die).prepare (c.chunkPages r die) s = .fails u st →
      exec (.chunkFinish i die n) s = .next (endColl i st
        ((c.ctx s die).done ((c.chunkPages r die).map (·.2)) ((c.ctx s die).writePart (c.chunkWrites r m) u)))) ∧
    (c.idleIn m.die r.chunk = false → c.kind ≠ 0x24 → lineAudit (c.lineOf m.die) = true →
      c.chunkWrites r m = [(c.dstVa m.die (c.receives m.die r.chunk).1, chunkBytes c r m),
        (lineAudv (c.lineOf m.die) + r.chunk, [r.afl.zeroExtend 8])])

/-- R370: a started collective, not a RESHARD, one of whose trees has lost a link since it started, though the link may read UP
again. One with a member that keeps no marks ends with LINK. Any other abandons the chunks that the loss has cut off, with
their packets, and counts no more what members had written of them; while chunks on intact trees are still to end
nothing more happens; then every member's die and launch part count a recovery, the trees are derived again from the links
that were live all along, and with none the collective ends with LINK. One whose trees all live goes on. That a link which reads UP
again still counts as lost, that this is one step, how the counts are taken back and where a launch counts a recovery are the
model's (DEDUCED, log 32). -/
def TreesRecoverClaim : Prop :=
  ∀ (s : State) (i : Nat) (c : Coll), s.colls[i]? = some c → c.started = true → c.kind ≠ 0x28 →
    let live := s.liveLinks.filter c.live.contains
    (c.treesLive live = true → exec (.treeRecovery i) s
      = .next (if c.moving then startChunks i (c.chunks + 1) s else beginChunks i s)) ∧
    (c.treesLive live = false → c.unmarked = true → exec (.treeRecovery i) s = .next (endColl i 0x09 s)) ∧
    (c.treesLive live = false → c.unmarked = false →
      let gone := (c.runs.filter (abandoned c live)).map (·.chunk)
      let d := c.leaveChunks gone
      let t := abandonChunks i gone s
      (c.held = [] → t = { s.setColl i d with packets := s.packets.filter fun p => !(p.isOf c && gone.contains p.chunk) }) ∧
      (d.runs ≠ [] → exec (.treeRecovery i) s = .next t) ∧
      (d.runs = [] →
        let trees := (t.deriveTrees c.dies c.root 3 live).take c.trees.length
        let u := c.dies.foldl (fun t f =>
          let t := t.setDie f { t.die f with recovs := sat16 (t.die f).recovs }
          let l := partKey c.lid f
          t.setLaunch l { t.launch l with recov := (t.launch l).recov.write f (sat16 ((t.launch l).recov.read f)) }) t
        (trees = [] → exec (.treeRecovery i) s = .next (endColl i 0x09 u)) ∧
        (trees ≠ [] → exec (.treeRecovery i) s = .next (beginChunks i (u.setColl i { d with trees, moving := false })))))

/-- R374, R376: each member of a moving RESHARD sends its rows in their order. The next one, where its destination has no staging
row for it, or one that an earlier row asks for too, is refused: every part's RETRY count rises and the row is sent again
after its sender's next round. One that draws a staging row there sets out on its way, as far as the links let it, and holds the
staging row. One whose elements are all for its own member, with their pages there, is written to its places under the new
descriptor. The order of a member's rows, when a refused row goes again, and its way are the model's (DEDUCED, log 34). -/
def ReshardRowsClaim : Prop :=
  ∀ (s : State) (i k : Nat) (c : Coll) (r : ReRow), s.colls[i]? = some c → c.started = true → c.kind = 0x28 →
    c.tau = none → c.ending = none → c.moving = true → c.rows[k]? = some r →
    let own := (c.room s r.dst).1
    let pool := (c.room s r.dst).2
    let new := c.newField s
    let f := c.dies.getD r.dst 0
    let first := (c.rows.take k).all fun q => q.src != r.src
    let vas := r.elems.map fun e => new.elemVa e.1
    (first = false → exec (.reshardRow i k) s = .next s) ∧
    (first = true → r.src ≠ r.dst → (own + pool = 0 ∨ (own + pool = 1 ∧ rivalled c r s = true)) →
      exec (.reshardRow i k) s = .next (((c.parts s).foldl (fun s l => s.setLaunch l { s.launch l with
        rretry := (s.launch l).rretry.write (lineFd c.line) (sat16 ((s.launch l).rretry.read (lineFd c.line))) }) s).setColl i
        { c with rows := putAgain c.box r (removeAt c.rows k) })) ∧
    (∀ u g, first = true → r.src ≠ r.dst → (2 ≤ own + pool ∨ (own + pool = 1 ∧ rivalled c r s = false)) →
      let t := if own = 0 then s.setDie f { s.die f with pool := (s.die f).pool - 1 } else s
      let g' : Carry := { at' := c.dies.getD r.src 0, path := c.rowPath r t, data := r.elems.flatMap (·.2) }
      let d : Coll := { c with rows := removeAt c.rows k, held := c.held ++ [⟨c.nrow, r.dst, own == 0, 0⟩], nrow := c.nrow + 1 }
      let v := t.setColl i { d with onWay := c.onWay ++ [⟨r, some c.nrow, g'⟩] }
      g'.run (({ d with onWay := c.onWay ++ [⟨r, some c.nrow, g'⟩] } : Coll).rowHeader r v) (g'.path.length + 1) v = (u, g) → g.path ≠ [] →
      exec (.reshardRow i k) s = .next (u.setColl i { d with onWay := c.onWay ++ [⟨r, some c.nrow, g⟩] })) ∧
    (∀ us u, first = true → r.src = r.dst → r.origin = none → r.elems ≠ [] → (r.elems.all fun e => e.2.length == new.es) = true →
      (r.elems.all fun e => new.ownerOf e.1 == r.dst) = true →
      readyNoted (c.ctx s f) vas s = (us, .ready u) → 1 < c.rows.length →
      let v := r.elems.foldl (fun v e => (c.ctx v f).write (new.elemVa e.1) e.2 v) u
      exec (.reshardRow i k) s = .next (((c.ctx v f).done vas v).setColl i
        { c with
          rows := removeAt c.rows k
          counts := (numbered 0 c.counts).map fun n => if n.1 == r.dst then n.2 + 1 else n.2
          nrow := c.nrow + 1
          undo := c.undo ++ us }))

/-- R252, R353, R375: a RESHARD that is aborted moves no more rows: it waits until the invalidation of its new range is complete, no
access still on its way by a translation dropped then; then its frames are freed, the walks of its handles are made again, every
member's die counts the abort, its word reads ABORTED on every part with its SEQ advanced, and every member's command ends with
its status and count. That it is this step that ends it is the model's choice (DEDUCED, log 34). -/
def ReshardAbortsClaim : Prop :=
  ∀ (s : State) (i k st : Nat) (c : Coll) (xs : List Xlation), s.colls[i]? = some c → c.started = true → c.tau = none →
    c.ending = some (st, xs) →
    let n := lineFd c.line
    (s.quiet xs = false → exec (.reshardRow i k) s = .next s) ∧
    (s.quiet xs = true →
      let t := c.undo.reverse.foldl (fun t u => t.setPkg u.owner
        { t.pkg u.owner with frames := (t.pkg u.owner).frames ++ [u.frame] }) s
      let t := (c.spaces t).foldl State.rewalk t
      let t := c.dies.foldl (fun t f => t.setDie f { t.die f with aborts := sat16 (t.die f).aborts }) t
      exec (.reshardRow i k) s = .next (endColl i st ((c.parts t).foldl (fun t l => t.setLaunch l { t.launch l with
        rstate := (t.launch l).rstate.write n 3, rseq := (t.launch l).rseq.write n ((t.launch l).rseq.read n + 1) }) t)))

/-- R371, R375, R378: from its tick on a RESHARD's new words are what the descriptor reads on every part of its launch; its step
there takes them, its word reads DONE and its SEQ rises, and every member's command ends DONE. Before its tick nothing
changes. That the commit has a step of its own is the model's (DEDUCED, log 34). -/
def ReshardCommitsClaim : Prop :=
  ∀ (s : State) (i t : Nat) (c : Coll), s.colls[i]? = some c → c.tau = some t →
    let n := lineFd c.line
    (s.now < t → exec (.reshardCommit i) s = .next s) ∧
    (∀ l, s.colls = [c] → c.kind = 0x28 → l ∈ c.parts s →
      s.fds l = if t ≤ s.now then (s.launch l).fds.writeRun (4 * n) (newWords (s.launch l).fds n c.line)
        else (s.launch l).fds) ∧
    (t ≤ s.now →
      let u := (c.parts s).foldl (fun s l => s.setLaunch l { s.launch l with
        fds := (s.launch l).fds.writeRun (4 * n) (newWords (s.launch l).fds n c.line) }) s
      let v := (c.parts u).foldl (fun s l => s.setLaunch l { s.launch l with
        rstate := (s.launch l).rstate.write n 2, rseq := (s.launch l).rseq.write n ((s.launch l).rseq.read n + 1) }) u
      exec (.reshardCommit i) s = .next (endColl i 0x01 v))

/-! The posting-list engine. -/

/-- R383, R384: a block of a posting list that passes its checks gives COUNT postings of its term, in strictly ascending documents
from its FIRST on, none above 0xFFFFFFFE or at or above the next block's FIRST, each with a term frequency of 1 or more; their
differences and frequencies are the fields of its payload. -/
def PostingBlocksClaim : Prop :=
  ∀ (b : Block) (v : Nat) (ps : List Posting), 1 ≤ b.count → b.decode v = some ps →
    ps.length = b.count ∧ (ps.map (·.doc)).Pairwise (· < ·) ∧ (ps.head?.map (·.doc)) = some b.first ∧
    (∀ p ∈ ps, p.term = b.term ∧ 1 ≤ p.tf ∧ p.doc ≤ 0xFFFFFFFE ∧ ∀ f, b.next = some f → p.doc < f) ∧
    (∀ i p, ps[i]? = some p →
      p.tf = v / 2 ^ ((b.count - 1) * b.dbw + b.tbw * i) % 2 ^ b.tbw + 1 ∧
      ∀ q, ps[i + 1]? = some q → q.doc = p.doc + v / 2 ^ (b.dbw * i) % 2 ^ b.dbw)

/-- R385, R388, R389: documents are ranked without loss: every one of a score that is a number, and no other, keeps its place once,
by descending score, those of equal scores, zeros of both signs among them, by ascending document; a query with no fusion
ranks the lexical scores alone. The result is K entries of eight bytes: the ranked documents first, each with its score as FP32,
then 0xFFFFFFFF with a NaN. -/
def RankingClaim : Prop :=
  (∀ l : List (Nat × XVal), (ranked l).Perm (l.filter fun e => !e.2.isNan)) ∧
  (∀ l : List (Nat × XVal), (∀ e ∈ l, ∀ n x, e.2 ≠ .fin n 0 x) →
    (ranked l).Pairwise fun a b => xlt b.2 a.2 = true ∨ (xeq a.2 b.2 = true ∧ a.1 ≤ b.1)) ∧
  (∀ n k, xeq (.zero n) (.zero k) = true) ∧
  (∀ r lex cand, lineFusion r = 0 → (finals r lex cand).map (·.1) = lex.map (·.1)) ∧
  (∀ k top, (entryBytes k top).length = 8 * k) ∧
  (∀ k l i e, i < k → (ranked l)[i]? = some e →
    ((entryBytes k ((ranked l).take k)).drop (8 * i)).take 8
      = bytesOf 4 (BitVec.ofNat 32 e.1) ++ bytesOf 4 (BitVec.ofNat 32 (encodeExact fp32 e.2))) ∧
  (∀ k top i, i < k → top.length ≤ i →
    ((entryBytes k top).drop (8 * i)).take 8
      = bytesOf 4 (0xFFFFFFFF : BitVec 32) ++ bytesOf 4 (0x7FC00000 : BitVec 32))

/-! The pumphouse. -/

/-- The state as a queue's control slot completes (R400, R404): its word goes on with its die slots or, with none, is complete:
HEAD passes it. -/
def slotDone (q : Nat) (t : State) : State :=
  let k := t.queue q
  if k.dies = [] then
    t.setQueue q { k with
      head := k.head + BitVec.ofNat 32 k.word.length, word := [], ctlDone := true, admitted := none, inval := none
      blocked := false, since := t.ticks (q / 64), en := !k.ending, mapped := k.mapped && !k.ending, ending := false }
  else t.setQueue q { k with ctlDone := true, admitted := none, inval := none, blocked := false }

/-- The state as a queue's word waits (R400, R401): it reads BLOCKED, since the time of TBASE at which it began to. -/
def slotWaits (q : Nat) (t : State) : State :=
  if (t.queue q).blocked then t else t.setQueue q { t.queue q with blocked := true, since := t.ticks (q / 64) }

/-- Whether a queue's control slot is to be executed (R400, R401): its word is begun, it is enabled, mapped and not in FAULT. -/
def atControl (q : Nat) (b : State) : Bool :=
  let k := b.queue q
  k.en && !k.bad && k.mapped && !k.word.isEmpty && !k.ctlDone

/-- R399, R400: the registers of a queue. QRING takes a write while EN reads 0, and discards one while it reads 1; TAIL takes every
write, and words beyond the ring put the queue in FAULT; a queue that now has a word is READY since then. EN set enables a
queue whose ring and level-0 table keep their limits, and puts one in FAULT whose do not, where EN read 0, amid a last word too. EN cleared leaves FAULT and drops a
word that has not begun to execute; amid a word it reads 0 at once and the queue stops at the word's end (log 7). -/
def QueueRegistersClaim : Prop :=
  ∀ (s : State) (q : Nat),
    let k := s.queue q
    (∀ v, (k.en = false ∨ k.ending = true) → exec (.qringWrite q v) s
      = .next (s.setQueue q { k with root := v.extractLsb' 35 29, base := v.extractLsb' 5 30, log2 := v.extractLsb' 0 5 })) ∧
    (∀ v, k.en = true → k.ending = false → exec (.qringWrite q v) s = .next s) ∧
    (∀ tail, let u := s.setQueue q { k with tail }
      let w := if queueState s q = 1 ∧ queueState u q = 2 then u.setQueue q { k with tail, since := s.ticks (q / 64) } else u
      ((k.bad = true ∨ (tail - k.head).toNat ≤ 2 ^ k.log2.toNat) → exec (.qptrTailWrite q tail) s = .next w) ∧
      (k.bad = false → 2 ^ k.log2.toNat < (tail - k.head).toNat →
        exec (.qptrTailWrite q tail) s = .next (w.queueFault q))) ∧
    (∀ pri, (k.en = false ∨ k.ending = true) → k.bad = false →
      let u := s.setQueue q { k with qpri := pri, en := true, ending := false, since := if k.en then k.since else s.ticks (q / 64) }
      exec (.queueEnable q pri) s = .next (if ringOk (s.pkg (q / 64)).homeg k then u else u.queueFault q)) ∧
    (∀ pri, k.en = true → k.ending = false → exec (.queueEnable q pri) s = .next (s.setQueue q { k with qpri := pri })) ∧
    (∀ pri, k.bad = true ∨ k.word = [] → exec (.queueDisable q pri) s = .next (s.setQueue q { k with
      qpri := pri, en := false, bad := false, blocked := false, mapped := false, word := [], since := s.ticks (q / 64) })) ∧
    (∀ pri, k.bad = false → k.word ≠ [] →
      exec (.queueDisable q pri) s = .next (s.setQueue q { k with qpri := pri, ending := true }))

/-- R401, R402: in every state QUEUE_MAPPING completes. It tests the waits of the package's queues: one whose wait would pass is
READY from then on. It keeps at most sixteen queues mapped, takes its slot from no queue that is READY, gives
one to every READY queue while the mapped and the READY ones together are at most sixteen, and changes nothing else. -/
def QueueSlotsClaim : Prop :=
  ∀ (s : State) (p : Nat),
    let qs := (List.range 64).map fun i => p * 64 + i
    let u := testQueues p s
    ∃ t, exec (.queueMapping p) s = .next t ∧
      ((qs.filter fun q => (s.queue q).mapped).length ≤ 16 → (qs.filter fun q => (t.queue q).mapped).length ≤ 16) ∧
      (∀ q ∈ qs, queueState u q = 2 → (s.queue q).mapped = true → (t.queue q).mapped = true) ∧
      ((qs.filter fun q => (s.queue q).mapped || queueState u q == 2).length ≤ 16 →
        ∀ q ∈ qs, queueState u q = 2 → (t.queue q).mapped = true) ∧
      (∀ q ∈ qs, { t.queue q with mapped := (s.queue q).mapped }
        = if (s.queue q).blocked && !(s.queue q).word.isEmpty && waitOver s q then
            { s.queue q with blocked := false, since := s.ticks p } else s.queue q) ∧
      (∀ q, q ∉ qs → t.queue q = s.queue q) ∧ { t with queues := s.queues } = s

/-! Launches. -/

/-- A core as its placement leaves it (R98 to R118, R144, R190, R413): at its entry point with its arguments in s1 to s4, every
other register as at reset but for the code that stands in its scratchpad and its trap record. -/
def entered (c l : Nat) (x : Launch) (k z : Core) : Bool :=
  let d := x.desc
  k.run == .placed && k.launch == l && k.pc == BitVec.ofNat 13 d.entry && k.mark == k.pc && k.image == BitVec.ofNat 32 d.image
    && k.ecc == d.detect && k.tiles == BitVec.ofNat 8 d.tiles && k.tile.isEmpty && k.regs == k.shadow
    && (List.range 4).all (fun i => k.regs.rd (BitVec.ofNat 5 (i + 1)) == d.args.getD i 0)
    && { k.regs with x := [] } == (Core.atReset c).regs && k.flags == 0 && k.l1.isEmpty && k.gated.isEmpty && k.trap == z.trap
    && (List.range 8).all (fun b => bankCode k.tbank b == if 16 * b < d.tiles then 0 else 2)

/-- R348, R406, R411 to R413: the best launch of a package, which waits for its first placement and which every package of its parts
chooses, is placed: each core of its clusters is entered and may issue at the entry tick, no other core changes, and memory stands
where the reads of the image find no granule in error. A package with none places nothing. What a core that is entered holds where
the spec names no value, and which launch is best where a fabric's packages differ, are the model's (DEDUCED, logs 10, 11, 13). -/
def LaunchesArePlacedClaim : Prop :=
  ∀ (s : State) (p : Nat),
    (s.bestLaunch p = none → exec (.launchPlacement p) s = .next s) ∧
    (∀ l, s.bestLaunch p = some l → (s.launch l).phase = .waiting → s.chosen l = true → (s.launch l).desc.fabric = false →
      (s.launch l).desc.args.length = 4 → launchPkg l = p →
      let x := s.launch l
      let n := s.entryDelay l
      ∃ t, exec (.launchPlacement p) s = .next t ∧ (t.launch l).phase = .placed ∧
        (t.launch l).entryTick = s.tbase p + BitVec.ofNat 64 n ∧
        (t.launch l).lord = [(s.tbase p).toNat + n, p, l % 65536] ∧
        (∀ c ∈ s.placedCores l, entered c l x (t.core c) (s.core c) = true ∧ (t.core c).ready = s.now + n) ∧
        (∀ c, c ∉ s.placedCores l → t.core c = s.core c) ∧ (s.dead = [] → t.mem = s.mem) ∧ t.queues = s.queues)

/-- A launch's part over, with what it completes with (R415). -/
def partEnded (l st code : Nat) (s : State) : State :=
  let u := freePart s l
  (u.setLaunch l { u.launch l with phase := .ended }).complete l (u.launch l) st code

/-- R415, R416, R419, R424, R428, R441: a core that has retired END halts once its stores have performed, no overflow of its signals
has still to trap, and its engine commands have ended. Once every core of a launch has halted and nothing that the host sent it
is left, the launch ends: snapshots still ordered for it are applied and their invalidations completed, its clusters freed, and it
completes DONE. A launch that is being killed has its cores halted and its unstarted commands discarded, and so has every other
part of it; it ends with its status once its cores are idle and its other commands have ended. One that holds no cluster
and whose kill a snapshot holds up ends once that is done. Which results a halting core waits for and what of the host keeps a launch
are the model's (DEDUCED, log 18), and so are the steps of a kill (DEDUCED, log 43). -/
def LaunchesEndClaim : Prop :=
  (∀ (s : State) (c : Nat),
    let k := s.core c
    let past := k.run == .ended && k.settled && k.outq.isEmpty && k.satTrap.isEmpty && !s.pushedBy c
    exec (.coreHalt c) s = .next (if past then s.setCore c { k with run := .halted, arrAt := s.now } else s)) ∧
  (∀ (s : State) (l : Nat), ((s.launch l).phase = .none ∨ (s.launch l).phase = .ended ∨
      ((s.launch l).phase ≠ .placed ∧ (s.launch l).doom = none)) → exec (.launchEnd l) s = .next s) ∧
  (∀ (s : State) (l st code : Nat), ((s.launch l).phase = .waiting ∨ (s.launch l).phase = .saved) →
    (s.launch l).doom = some (st, code) → (s.launch l).snaps = [] → (s.launch l).saved = none →
    exec (.launchEnd l) s
      = .next ((s.setLaunch l { s.launch l with phase := .ended, saved := none }).complete l (s.launch l) st code)) ∧
  (∀ (s : State) (l : Nat), (s.launch l).phase = .placed → (s.launch l).doom = none → s.halted l = true →
    ((s.parts l).all fun m => (s.launch m).doom.isNone) = true →
    (s.engineHolds fun p => p.host && p.lid == l) = false →
    (s.pkgs.any fun p => p.2.syncs.any fun y => y.entry.lid == l) = false →
    ((s.launch l).snaps = [] → exec (.launchEnd l) s = .next (partEnded l 0x01 0 s)) ∧
    (s.snapsDone l = false → exec (.launchEnd l) s = .next (s.applySnaps l)) ∧
    (s.snapsDone l = true → exec (.launchEnd l) s = .next (partEnded l 0x01 0 (s.endSnaps l)))) ∧
  (∀ (s : State) (l st code : Nat), (s.launch l).phase = .placed → (s.launch l).doom = some (st, code) → (s.launch l).snaps = [] →
    exec (.launchEnd l) s = .next
      (if s.killable l || (s.parts l).any s.spared then (s.parts l).foldl (killPart st code) s
      else if (s.placedCores l).all (fun c => (s.core c).idle) && !s.engineHolds fun p => p.lid == l then partEnded l st code s
      else s)) ∧
  (∀ (s : State) (l : Nat),
    s.snapsDone l = true ↔ ∀ n ∈ (s.launch l).snaps, ∃ xs, n.inval = some xs ∧ s.quiet xs = true) ∧
  (∀ (s : State) (l : Nat),
    let u := freePart s l
    (∀ c ∈ s.placedCores l, (u.core c).run = .free ∧ (u.core c).tile = [] ∧ (u.core c).regs = (Core.atReset c).regs) ∧
    (∀ c, c ∉ s.placedCores l → u.core c = s.core c) ∧ u.mem = s.mem ∧ u.launches = s.launches)

/-! The host. -/

/-- Whether the header of a message is that of a request of a type (R438). -/
def requests (r : VvReq) (type : Nat) : Bool := r.magic == 0x5656 && r.ver == 1 && r.type.toNat == type && r.status == 0

/-- A message of the host: its package, its request, and whether it is one of its operation and keeps its limits (R438, R439,
R449). -/
def message : Instr → Option (Nat × VvReq × Bool)
  | .regrd p r => some (p, r, requests r 1 && r.arg == 0 && r.len == 8 && r.body.isEmpty)
  | .regwr p r => some (p, r, requests r 2 && r.arg == 0 && r.len == 8 && r.body.length == 8)
  | .memrd p r => some (p, r, requests r 3 && memOk r && r.body.isEmpty)
  | .memwr p r => some (p, r, requests r 4 && memOk r && r.body.length == r.len)
  | .attestReport p r => some (p, r, requests r 5 && r.addr == 0 && r.arg == 0 && r.len == 32 && r.body.length == 32)
  | .attestPublicKey p r => some (p, r, requests r 5 && r.addr == 0 && r.arg == 1 && r.len == 32 && r.body.length == 32)
  | _ => none

/-- The response to a request (R438): the magic and version, the request's TYPE with bit 7 set, its SEQ and session, the length of the
payload, a STATUS; ADDR and ARG are the request's, which is the model's reading (DEDUCED, log 16). -/
def reply (r : VvReq) (st : Nat) (body : List Byte) : Response where
  head := { magic := 0x5656, ver := 1, type := r.type ||| 0x80, seq := BitVec.ofNat 32 r.seq, sess := BitVec.ofNat 16 r.sess
            len := BitVec.ofNat 16 body.length, status := BitVec.ofNat 32 st, addr := BitVec.ofNat 64 r.addr, arg := BitVec.ofNat 64 r.arg }
  body := body

/-- The state as a request is answered: the response is kept, the session expects the next SEQ, the request waits no more
(R440). -/
def answers (p : Nat) (r : VvReq) (st : Nat) (body : List Byte) (t : State) : State :=
  let k := t.pkg p
  let a := reply r st body
  t.setPkg p { k with
    sess := k.sess.put r.sess { next := BitVec.ofNat 32 (r.seq + 1), kept := some a }
    answers := k.answers ++ [a]
    vwait := k.vwait.filter fun y => !(y.sess == r.sess && y.seq == r.seq) }

/-- R438, R440, R448: before start-up has ended a message does nothing. A malformed one is rejected and counted, and answered
where its session is one of the 256. Of a good one, the SEQ before the expected one is answered again with the response kept,
counted, and any other that is not expected is dropped and counted. The first message of session 0 sends the notices that
were held. At reset every session expects SEQ 0. That a malformed message is rejected before its SEQ is looked at is the model's
reading (DEDUCED, log 16). -/
def MessageSequenceClaim : Prop :=
  (∀ p n : Nat, ((State.reset.pkg p).sess.get {} n).next = 0) ∧
  ∀ (s : State) (i : Instr) (p : Nat) (r : VvReq) (ok : Bool), message i = some (p, r, ok) →
    let k := s.pkg p
    let n := if r.sess = 0 ∧ k.noteTo = false then s.setPkg p { k.held.foldl Pkg.sendNote k with noteTo := true, held := [] }
      else s
    let m := n.pkg p
    let x := m.sess.get {} r.sess
    (k.up = false → exec i s = .next s) ∧
    (k.up = true → (ok = false ∨ 255 < r.sess) → exec i s = .next (s.setPkg p { k with
      rejects := k.rejects + 1, answers := if r.sess < 256 then k.answers ++ [reply r 1 []] else k.answers })) ∧
    (k.up = true → ok = true → r.sess ≤ 255 → r.seq ≠ x.next.toNat →
      (∀ a, r.seq = (x.next - 1).toNat → x.kept = some a →
        exec i s = .next (n.setPkg p { m with answers := m.answers ++ [a], resent := sat16 m.resent })) ∧
      ((r.seq ≠ (x.next - 1).toNat ∨ x.kept = none) → exec i s = .next (n.setPkg p { m with gaps := sat16 m.gaps })))

/-- R2, R3, R24, R25, R439, R450: what the expected message of a session does. REGRD answers the register, REGWR writes it, and
an address where there is no register is rejected, as is a physical address that is not memory. MEMRD and MEMWR reach memory at
a physical address of the package or through the address space of a queue, and answer FAULT where that has no page for them;
MEMRD says where data was replaced by zeros. A MEMWR to a copy-on-write page with accesses on their way is kept until they
have performed. The last, and that a message refused for its address uses its SEQ up, are the model's readings (DEDUCED, log 16). -/
def MessagesClaim : Prop :=
  ∀ (s : State) (p : Nat) (r : VvReq),
    let n := noteSession p r s
    let ok := fun (i : Instr) => (message i).any fun m => m.2.2
    let rejected := answers p r 1 [] (n.setPkg p { n.pkg p with rejects := (n.pkg p).rejects + 1 })
    let space := fun (t : State) => (p * 64 + r.arg % 64, (t.queue (p * 64 + r.arg % 64)).root.toNat * 8192)
    (s.pkg p).up = true → r.sess ≤ 255 → r.seq = ((n.pkg p).sess.get {} r.sess).next.toNat →
    (∀ v, ok (.regrd p r) = true → r.addr % 8 = 0 → readReg n p r.addr = some v →
      exec (.regrd p r) s = .next (answers p r 0 (bytesOf 8 v) n)) ∧
    (∀ v, ok (.regwr p r) = true → r.addr % 8 = 0 → readReg n p r.addr = some v →
      exec (.regwr p r) s
        = .next (answers p r 0 [] (writeReg p r.addr (BitVec.ofNat 64 (natOfBytes r.body)) n))) ∧
    ((r.addr % 8 ≠ 0 ∨ readReg n p r.addr = none) →
      (ok (.regrd p r) = true → exec (.regrd p r) s = .next rejected) ∧
      (ok (.regwr p r) = true → exec (.regwr p r) s = .next rejected)) ∧
    (ok (.memrd p r) = true → 2 ^ 63 ≤ r.arg →
      (isMemory r.addr r.len = true →
        let m := n.meet ⟨0, 0, 0, 0, false⟩ (p * 2 ^ 42 + r.addr) r.len
        exec (.memrd p r) s
          = .next (answers p r (if m.2 = 0 then 0 else 2) (m.1.bytes (p * 2 ^ 42 + r.addr) r.len) m.1)) ∧
      (isMemory r.addr r.len = false → exec (.memrd p r) s = .next rejected)) ∧
    (ok (.memrd p r) = true → r.arg < 64 →
      (∀ t z bs, n.readVa p (space n).1 (space n).2 r.addr r.len leafR = some (t, z, bs) →
        exec (.memrd p r) s = .next (answers p r (if z = 0 then 0 else 2) bs t)) ∧
      (n.readVa p (space n).1 (space n).2 r.addr r.len leafR = none → exec (.memrd p r) s = .next (answers p r 3 [] n))) ∧
    (ok (.memwr p r) = true → 2 ^ 63 ≤ r.arg →
      (isMemory r.addr r.len = true → exec (.memwr p r) s
        = .next (answers p r 0 [] (n.deliverTo ⟨0, 0, 0, 0, false⟩ (placed (p * 2 ^ 42 + r.addr) r.body)))) ∧
      (isMemory r.addr r.len = true → s.mem.wf = true → s.dead = [] → ∃ t, exec (.memwr p r) s = .next t ∧
        ∀ a, t.mem.read a = if p * 2 ^ 42 + r.addr ≤ a ∧ a < p * 2 ^ 42 + r.addr + r.len
          then r.body.getD (a - (p * 2 ^ 42 + r.addr)) 0 else s.mem.read a) ∧
      (isMemory r.addr r.len = false → exec (.memwr p r) s = .next rejected)) ∧
    (ok (.memwr p r) = true → r.arg < 64 →
      (n.rangeXlate p (space n).1 (space n).2 r.addr r.len leafW = none →
        exec (.memwr p r) s = .next (answers p r 3 [] n)) ∧
      (∀ es t, n.rangeXlate p (space n).1 (space n).2 r.addr r.len leafW = some es →
        (es.all fun e => !leafCow e.2.leaf) = true → n.writeVa p (space n).1 (space n).2 r.addr r.body leafW = some t →
        exec (.memwr p r) s = .next (answers p r 0 [] t)) ∧
      (∀ es, n.rangeXlate p (space n).1 (space n).2 r.addr r.len leafW = some es →
        (es.any fun e => leafCow e.2.leaf && !n.cowQuiet p (space n).1 (space n).2 (e.1 * 65536)) = true →
        exec (.memwr p r) s = .next (if (n.pkg p).vwait.contains r then n
          else n.setPkg p { n.pkg p with vwait := (n.pkg p).vwait ++ [r] })))

/-- R26, R423, R452: HBM_SPLIT takes its first write of 64 or less and no other. A write of CLK.CODE of 8 or less is a request for the
die's clock in the window it is made in; one above 8 is discarded. That a discarded first write of HBM_SPLIT does not use up the one
write is the model's choice (log 52). -/
def DeviceWritesClaim : Prop :=
  ∀ (s : State) (p f : Nat) (v : W64),
    let k := s.pkg p
    let d := s.die f
    (k.homeSet = false → v.toNat % 128 ≤ 64 →
      exec (.hbmSplitWrite p v) s = .next (s.setPkg p { k with homeg := v.extractLsb' 0 7, homeSet := true })) ∧
    ((k.homeSet = true ∨ 64 < v.toNat % 128) → exec (.hbmSplitWrite p v) s = .next s) ∧
    (v.toNat % 16 ≤ 8 → exec (.clkCodeWrite f v) s = .next (s.setDie f { d with
      asked := v.extractLsb' 0 4, reqs := d.reqs ++ [⟨none, v.toNat % 16, s.window f⟩] })) ∧
    (8 < v.toNat % 16 → exec (.clkCodeWrite f v) s = .next s)

/-! Links, time, start-up, power. -/

/-- One end of a link that has dropped (R22, R23, R441): an UP port reads DOWN, is counted, and session 0 is told. -/
def endDrops (f i : Nat) (s : State) : State :=
  let d := s.die f
  let p := s.port f i
  if p.state = 1 then
    State.notify (s.setDie f { d with
      downs := if d.downs = 255 then 255 else d.downs + 1, ports := d.ports.put i { p.fresh with state := 0 } }) (f / 8)
      ⟨4, f % 8, i, 4 * p.width⟩
  else s

/-- R19, R22, R23, R369, R370, R375, R441, R446, R447: the links. A link that drops reads DOWN at both ends, the generation
advances, RESHARDs whose routes used it abort and other collectives lose it; one of which neither end is UP stays. A port that is
DOWN begins to train; one in training reads DOWN after 20 ms, comes UP with its far end, with a new generation, where that
trains too and both agree, and trains on where not; the external port of a closed axis reads IDLE, and one that its package's
start has left DOWN stays so (R448). An external port of a link with an emergency at either end comes UP at two lanes, its
width held where the emergency is its own die's (R453). Session 0 is told of every
change of a port's fields. A lane that fails asks for half the width, and takes down a link of two lanes. That both ends of a
link change at once (log 53), when a training begins and ends, the interposer's trainings, the generation's count at each
change, what each further failure halves (DEDUCED, log 36), and that faces cut off mid-link go on whole from the die they were
leaving (log 54), are the model's. -/
def LinkStepsClaim : Prop :=
  ∀ (s : State) (f g i a : Nat),
    let up := fun (f i : Nat) => (s.port f i).state = 1
    let e := if a < 3 then 3 + a else a % 3
    let q := s.port f e
    let late := q.since + 32000000 ≤ s.ticks (f / 8)
    let left := 3 ≤ e ∧ (s.pkg (f / 8)).bmode.getD 4 0 = 2
    let comes := fun (h g : Nat) =>
      let p := { (s.port h e).fresh with state := 1 }
      if 3 ≤ e ∧ ((s.die h).emerg = true ∨ (s.die g).emerg = true) then
        { p with width := 2, held := if (s.die h).emerg then p.held <|> some p.width else p.held } else p
    let l := 3 + a % 3
    (∀ (j : Nat) (p : LinkPort), s.changePort f j p =
      if p.state + 4 * p.width = (s.port f j).state + 4 * (s.port f j).width then s.setPort f j p
      else State.notify (s.setPort f j p) (f / 8) ⟨4, f % 8, j, p.state + 4 * p.width⟩) ∧
    (s.farEnd f i = some g → (up f i ∨ up g i) →
      let t := endDrops g i (endDrops f i s)
      exec (.linkDown f i) s = .next (reshardLinks { t with
        lgen := t.lgen + 1
        colls := t.colls.map fun c => { c with live := c.live.filter (· != linkName f g) }
        berms := t.berms.map fun m =>
          if m.carry.across && m.carry.path.head?.any fun h => linkName m.carry.at' h == linkName f g then
            { m with carry := { at' := m.carry.at', path := m.carry.path, data := m.carry.data } } else m })) ∧
    (s.farEnd f i = some g → ¬ up f i → ¬ up g i → exec (.linkDown f i) s = .next s) ∧
    (left → ∀ ok, exec (.linkTraining f a ok) s = .next s) ∧
    (¬ left → s.farEnd f e = none → ∀ ok, exec (.linkTraining f a ok) s = .next (s.changePort f e { q with state := 3 })) ∧
    (¬ left → s.farEnd f e = some g →
      (∀ ok, q.state = 2 → late → exec (.linkTraining f a ok) s = .next (s.changePort f e { q with state := 0 })) ∧
      (¬ (q.state = 2 ∧ late) → exec (.linkTraining f a false) s = .next s) ∧
      (q.state = 0 → exec (.linkTraining f a true) s = .next (s.changePort f e { q with state := 2, since := s.ticks (f / 8) })) ∧
      (q.state = 2 → ¬ late → f ≠ g → (s.port g e).state = 2 → s.agrees f g = true → s.agrees g f = true →
        let u := (s.changePort f e (comes f g)).changePort g e (comes g f)
        exec (.linkTraining f a true) s = .next { u with lgen := u.lgen + 1 }) ∧
      (q.state = 2 → ¬ late → ((s.port g e).state ≠ 2 ∨ s.agrees f g = false ∨ s.agrees g f = false) →
        exec (.linkTraining f a true) s = .next s)) ∧
    (up f l → s.widthAsked f l < 2 →
      exec (.laneFailure f a) s = .next (s.setDie f { s.die f with
        reqs := (s.die f).reqs ++ [⟨some l, s.widthAsked f l + 1, s.window f⟩] })) ∧
    (up f l → 2 ≤ s.widthAsked f l → exec (.laneFailure f a) s = exec (.linkDown f l) s) ∧
    (¬ up f l → exec (.laneFailure f a) s = .next s)

/-- R445, R446: a flit at an UP port, taken off the way where it came from. A good one of the SEQ expected is delivered, if it
carries a payload, and the next is expected; what it acknowledges leaves the replay buffer; a data flit is acknowledged by an idle
one where the replay buffer has room. A flit delivered before is dropped; one further on, or a bad one, is dropped with all that
follow until the replay, for which the far end sends its replay buffer again, and the sixteenth failure of one SEQ in a row
halves the port's width. When acknowledgements and replays are sent is the model's choice (log 54). -/
def FlitsReceivedClaim : Prop :=
  ∀ (s : State) (f a : Nat) (x : Flit),
    let i := 3 + a % 3
    let t := takeWire f i x s
    let p := t.port f i
    let good := crc32c (flitBytes x) == x.crc && x.kind.toNat < 3 && x.vc.toNat < 4 && x.rsv == 0
    let up := (s.port f i).state = 1
    (¬ up → exec (.flitReceive f a x) s = .next s) ∧
    (up → good = true → x.seq = p.next →
      let out := p.out.filter fun y => 2048 ≤ (x.ack - y.seq).toNat
      let u := t.setPort f i { p with
        next := p.next + 1, drop := false, fails := 0, acked := x.ack, out
        rx := if x.kind = 1 then p.rx ++ [(x.seq, x.vc, x.body)] else p.rx }
      exec (.flitReceive f a x) s = .next (if x.kind = 1 ∧ out.length < 512 then sendFlit f i 0 0 u else u)) ∧
    (up → good = true → x.seq ≠ p.next → exec (.flitReceive f a x) s
      = .next (if 2048 ≤ (x.seq - p.next).toNat ∨ p.drop = true then t
        else replayFrom f i (t.setPort f i { p with drop := true }))) ∧
    (up → good = false → x.seq ≠ p.next → p.fails ≠ 16 →
      exec (.flitReceive f a x) s = .next (replayFrom f i (t.setPort f i { p with drop := true }))) ∧
    (up → good = false → x.seq = p.next → p.fails < 15 →
      exec (.flitReceive f a x) s = .next (replayFrom f i (t.setPort f i { p with drop := true, fails := p.fails + 1 }))) ∧
    (up → good = false → x.seq = p.next → p.fails = 15 → exec (.flitReceive f a x) s
      = exec (.laneFailure f a) (replayFrom f i (t.setPort f i { p with drop := true, fails := 0 }))) ∧
    (∀ g, s.farEnd f i = some g → replayFrom f i s = s.setPort g i { s.port g i with wire := (s.port g i).out }) ∧
    (∀ (kind : BitVec 4) (body : BitVec 1952), ∃ y : Flit, y.seq = (s.port f i).sseq ∧ y.kind = kind ∧ y.body = body ∧
      y.ack = (s.port f i).next - 1 ∧ (kind.toNat < 3 → flitOk y = true) ∧
      sendFlit f i kind body s = s.setPort f i { s.port f i with
        sseq := (s.port f i).sseq + 1, out := (s.port f i).out ++ [y], wire := (s.port f i).wire ++ [y] })

/-- R423, R441, R452, R453: clocks and emergencies. A die's clock request of a window that has ended is applied by the link's
controller, unless either end is in an emergency, which cancels it and tells session 0. A temperature of 105 °C
begins an emergency: the clock reads CODE 0 and every request of the die is gone; below that it is only recorded. After 10 ms
below 95 °C the emergency ends, and the clock asked for last and the widths held before are asked for again, of a port that is not
UP too. Times in milliseconds are those of TBASE (log 3). That an emergency at either end cancels the requests of both dies of a link
is the model's (DEDUCED, log 36). -/
def PowerStepsClaim : Prop :=
  ∀ (s : State) (f a g : Nat),
    let d := s.die f
    let i := a % 6
    let r : Nat → Nat → ChangeReq := fun v w => ⟨none, v, w⟩
    (∀ v w, s.farEnd f i = some g → f < g → d.reqs = [r v w] → (s.die g).reqs = [] → w < s.window f →
      (d.emerg = false → (s.die g).emerg = false → exec (.changeWindow f a) s
        = .next (s.setDie f { d with code := BitVec.ofNat 4 v, reqs := [] })) ∧
      (d.emerg = true ∨ (s.die g).emerg = true → exec (.changeWindow f a) s
        = .next ((State.notify (s.setDie f { d with reqs := [] }) (f / 8) ⟨5, f % 8, 0, 2⟩).setDie g (s.die g)))) ∧
    (s.farEnd f i = some g → g < f → exec (.changeWindow f a) s = .next s) ∧
    (∀ t : BitVec 12, t.toNat < 1050 → exec (.thermalEmergency f t) s = .next (s.setDie f { d with
      temp := t, cool := if d.emerg ∧ t.toNat < 950 then (match d.cool with
        | some x => some x
        | none => some (s.ticks (f / 8))) else none })) ∧
    (∀ t : BitVec 12, 1050 ≤ t.toNat → d.emerg = false → ∃ u, exec (.thermalEmergency f t) s = .next u ∧
      (u.die f).temp = t ∧ (u.die f).emerg = true ∧ (u.die f).code = 0 ∧ (u.die f).reqs = [] ∧ u.mem = s.mem ∧
      u.cores = s.cores) ∧
    (∀ t, d.cool = some t → d.emerg = true → t + 16000000 ≤ s.ticks (f / 8) → ∃ u, exec (.emergencyExit f) s = .next u ∧
      (u.die f).emerg = false ∧ (u.die f).cool = none ∧
      (u.die f).reqs = d.reqs ++ ⟨none, d.asked.toNat, s.window f⟩ :: ([3, 4, 5].filterMap fun j =>
        match (s.port f j).held with
        | some v => if v ≠ (s.port f j).width then some ⟨some j, v, s.window f⟩ else none
        | none => none) ∧
      (∀ j, u.port f j = if 3 ≤ j ∧ j ≤ 5 then { s.port f j with held := none } else s.port f j) ∧
      (∀ g, g ≠ f → u.die g = s.die g) ∧ u.pkg (f / 8) = (s.pkg (f / 8)).notify ⟨6, f % 8, 0, 0⟩ ∧ u.mem = s.mem ∧
      u.cores = s.cores) ∧
    ((d.cool = none ∨ ∃ t, d.cool = some t ∧ s.ticks (f / 8) < t + 16000000) → exec (.emergencyExit f) s = .next s)

end Sys2Proof

/-! The statements. -/

open Sys2Proof Sys2Proof.Machine

/-- R30, R35, R46 to R56: every slot word that its slot's map can hold and that passes its checks is read back, with every
field at every value, from the word the encoder writes. -/
def Obligations.SlotWordRoundTrip : Prop :=
  ∀ (sl : Slot) (w : SlotWord), w.encodable sl = true → decodeSlot sl (encodeSlot w) = .ok w

/-- Headers and plain bundles are decoded back from the words the encoder writes: `HeaderRoundTripClaim` and `PlainBundleRoundTripClaim`. -/
def Obligations.BundleWordsRoundTrip : Prop :=
  HeaderRoundTripClaim ∧ PlainBundleRoundTripClaim

/-- Words that the spec writes out, one or more for each of the S, V, M, L, T and X maps, and what it says they hold
(the listings and examples of R61, R178, R196 to R212, R239, R277, R303, R349, R391, R396, R418). -/
def Obligations.SpecWordsDecode : Prop :=
  decodeSlot .s 0x1CF9521FFFFFFFFD
    = .ok ⟨.plain, .addi { rd := 5, ra := 9, fn := 0, imm := 0x1FFFFFFFFD }⟩ ∧
  decodeSlot .s 0xC0F800000000000A = .ok ⟨.plain, .loopb { rd := 0, fn := 0, tgt := 0x00A }⟩ ∧
  decodeSlot .s 0xD4F8003300000000 = .ok ⟨.plain, .fenceC { mask := 0x0006, sc := 3 }⟩ ∧
  decodeSlot .v0 0x06F82001400C0401
    = .ok ⟨⟨1, 0, 31⟩, .vadd ⟨4, 0, 5, 0, 6, 0, 0x08, 0, 0, 1⟩⟩ ∧
  decodeSlot .v0 0xE0F8000500060680
    = .ok ⟨.plain, .pmov { td := 0, rowd := 0, ta := 20, rowa := 0, port := 3, ty := 0x0D, rm := 0, sat := 0, step := 0 }⟩ ∧
  decodeSlot .m 0x08F8403290080000
    = .ok ⟨.plain, .mmaz { tc := 8, rga := 0, rgb := 1, fa := 0x12, fb := 0x12, ka := 0, kb := 1 }⟩ ∧
  decodeSlot .m 0x0CF8404828000000
    = .ok ⟨.plain, .mout { tc := 8, td := 9, kd := 0, ty := 0x0A, rm := 0, sat := 0, mx := 0 }⟩ ∧
  decodeSlot .l 0x24F8004000600000 = .ok ⟨.plain, .ldsc { reg := 1, ra := 0, imm := 0x3000, step := 0 }⟩ ∧
  decodeSlot .t 0x04F802C5A0C00680
    = .ok ⟨.plain, .stg { reg := 11, h := 1, ro := 13, cls := 0, sc := 3, off := 0xD0, step := 0 }⟩ ∧
  decodeSlot .x 0x12F9010000200001
    = .ok ⟨{ hold := 1, pn := 0, psel := 31 }, .send { lane := 1, ta := 1, rowa := 0, ra := 0, imm := 0x1000, step := 1 }⟩ ∧
  decodeSlot .x 0x80F91400000B1000
    = .ok ⟨.plain, .plq { q := 8, ra := 20, rb := 0, mask := 0x0001, sc := 3, fn := 1 }⟩ ∧
  decodeSlot .x 0x84FD980000000000 = .ok ⟨.plain, .plres { rd := 22, q := 0x18, fn := 0 }⟩ ∧
  decodeSlot .x 0x38FC869000000000 = .ok ⟨.plain, .ovl { half := 1, h := 2, ra := 3, rd := 9 }⟩ ∧
  decodeHeader 0x000000886E061902
    = some { kind := 0, sat := 1, sinc := 1, ssem := 13, sen := 1, wdec := 1, wthr := 3, wsem := 12, wen := 1
             mark := 0, pres := 0x02 }

/-- An entry of the agenda comes first, after its ticks. With nothing on it, the entries of die slots that the next tick asks
for come in that tick (R406). Else the step whose turn it is comes a tick later: where that is a placed core's issue, the
operation that the words at its PC decode to, where they are one plain bundle and no word is held, and the bundle's own issue
where they decode to none or a word is held. Whose turn it is, and that a step takes a tick, is the model's choice (log 1,
log 2). -/
def Obligations.StepRunsTheDecodedInstruction : Prop :=
  (∀ (s : State) (d : Nat) (i : Instr) (rest : List (Nat × Instr)), s.agenda = (d, i) :: rest →
    step s = exec i { s with agenda := rest, now := s.now + d }) ∧
  (∀ (s : State) (i : Instr) (is : List Instr), s.agenda = [] → dueSyncs { s with now := s.now + 1 } = i :: is →
    step s = exec i { s with now := s.now + 1, agenda := is.map fun i => (0, i) }) ∧
  (∀ (s : State) (c : Nat) (i : Instr), s.agenda = [] → dueSyncs { s with now := s.now + 1 } = [] →
    (nextSteps s)[s.turn % (nextSteps s).length]? = some (c, i) →
    step s = exec i { s with now := s.now + 1, turn := s.turn + 1, cur := c }) ∧
  (∀ (s : State) (k : Nat) (c : Nat) (q : Core), (s.cores.filter fun e => e.2.run == .placed)[k]? = some (c, q) →
    (nextSteps s)[k]? = some (c, coreIssue s c)) ∧
  (∀ (s : State) (c : Nat) (i : Instr), (s.core c).regs.held = [] →
    decodeBundle c ((s.core c).ispm.readRun (s.core c).pc.toNat 8) = some i → coreIssue s c = i) ∧
  (∀ (s : State) (c : Nat),
    (s.core c).regs.held ≠ [] ∨ decodeBundle c ((s.core c).ispm.readRun (s.core c).pc.toNat 8) = none →
    coreIssue s c = .bundleIssue c)

/-- A bundle issues as its words say: each enabled word has its effect on the state before the bundle: `BundleIssueIsTheOperationClaim` and `BundleIssuesClaim`. -/
def Obligations.BundlesIssue : Prop :=
  BundleIssueIsTheOperationClaim ∧ BundleIssuesClaim

/-- R26, R76 to R78, R104, R110, R115, R117, R230, R267, R312, R366, R397, R407, R444, R452: what the spec says the machine
holds at reset, register by register. Two clauses are the model's choice (log 1), since the spec gives these values at a
launch's entry: every TBANK field reads OFF (0xAAAA, R113), and every scalar register is zero (R98). -/
def Obligations.ResetState : Prop :=
  let z := State.reset
  (∀ c : Nat,
    let r := (z.core c).regs
    r.rmode = 1 ∧ r.seed = 0x6A09E667 ^^^ BitVec.ofNat 32 (c % 384) ∧ r.scout = 8 ∧ r.rrb = 0 ∧ escWord r = 0
      ∧ (z.core c).flags = 0 ∧ (z.core c).bconf = 0 ∧ (z.core c).corr = 0 ∧ (z.core c).uncorr = 0
      ∧ (z.core c).tbank = 0xAAAA) ∧
  (∀ (c : Nat) (n : BitVec 5), (z.core c).regs.rd n = 0) ∧
  (∀ p : Nat, (z.pkg p).homeg = 16 ∧ (z.pkg p).qerr = 0 ∧ ∀ n, (z.pkg p).qsem.read n = 0) ∧
  (∀ d : Nat, (z.die d).code = 8 ∧ (z.die d).pool = 4096 ∧ (z.die d).badhop = 0 ∧ (z.die d).recovs = 0
    ∧ (z.die d).aborts = 0) ∧
  (∀ d : Nat, (z.mdie d).straps = 0 ∧ (z.mdie d).sdrops = 0 ∧ (z.mdie d).plcmds = 0 ∧ (z.mdie d).pldrops = 0) ∧
  (∀ q n : Nat, z.sem q n = 0 ∧ (z.cluster q).barcs = 0 ∧ (z.cluster q).spovr = 0 ∧ (z.cluster q).semovf = 0) ∧
  Memory.wf z = true ∧ z.launches = []

/-- The invariant of memory: physical memory stays in its one canonical form, whatever step is taken from whatever state. -/
def Obligations.StepKeepsMemoryCanonical : Prop :=
  ∀ s s' : State, Memory.wf s = true → step s = .next s' → Memory.wf s' = true

/-- R122: DIV rounds toward zero, the remainder has the dividend's sign; a zero divisor gives the quotient of all ones and
the dividend as remainder, in both forms; the most negative value divided by −1 gives itself and a zero remainder. Neither
raises a trap or a flag: the bundle completes whatever the operands. -/
def Obligations.Division : Prop :=
  ∀ (s : State) (o : SReg),
    let a := s.begun.self.regs.rd o.ra
    let b := s.begun.self.regs.rd o.rb
    let quot : W64 :=
      if b = 0 then BitVec.allOnes 64
      else if o.fn = 1 then BitVec.ofNat 64 (a.toNat / b.toNat) else BitVec.ofInt 64 (a.toInt.tdiv b.toInt)
    let rest : W64 :=
      if b = 0 then a else if o.fn = 1 then BitVec.ofNat 64 (a.toNat % b.toNat) else BitVec.ofInt 64 (a.toInt.tmod b.toInt)
    (s.issues .s (.div o) 2 = true →
      exec (.div o) s = .next (s.leaves s.begun (s.begun.self.gets s.now o.rd quot 34) (s.self.pc + 2) 0)) ∧
    (s.issues .s (.rem o) 2 = true →
      exec (.rem o) s = .next (s.leaves s.begun (s.begun.self.gets s.now o.rd rest 34) (s.self.pc + 2) 0)) ∧
    (o.fn = 0 → a = 0x8000000000000000 → b = 0xFFFFFFFFFFFFFFFF → quot = a ∧ rest = 0) ∧
    (b = 0 → quot = 0xFFFFFFFFFFFFFFFF ∧ rest = a)

/-- The integer and predicate instructions complete with the results of their tables and change nothing else: `IntegerResultsClaim` and `PredicatesClaim`. -/
def Obligations.IntegerAndPredicateResults : Prop :=
  IntegerResultsClaim ∧ PredicatesClaim

/-- R87: underflow is detected before rounding. UF is raised exactly when the rounded result is not the value and the value is
not zero and below the smallest normal magnitude of the format; a result that is the value raises nothing. -/
def Obligations.UnderflowBeforeRounding : Prop :=
  ∀ f ∈ floatFormats, ∀ (x : XVal) (mode : Mode) (sat : Bool) (d : Nat), d < 2 ^ 16 →
    let (code, flags) := roundWith x (.flt f) mode sat d
    (∀ (neg : Bool) (m : Nat) (e : Int), x = .fin neg m e → m ≠ 0 →
      (flags &&& fUF ≠ 0 ↔ xeq (f.value code) x = false ∧ topExp m e < 1 - f.bias) ∧
      (xeq (f.value code) x = true → flags = 0)) ∧
    ((∀ (neg : Bool) (m : Nat) (e : Int), x ≠ .fin neg m e) → flags &&& fUF = 0)

/-- Values that a format holds convert to themselves; overflow results; when the generator draws: `HeldValuesRoundToThemselvesClaim` and `OverflowResultClaim` and `RoundingDrawsClaim`. -/
def Obligations.Rounding : Prop :=
  HeldValuesRoundToThemselvesClaim ∧ OverflowResultClaim ∧ RoundingDrawsClaim

/-- The scalar floating-point instructions complete with their results, rounded once, and their flags: `FloatResultsClaim` and `FloatSelectionsClaim`. -/
def Obligations.FloatInstructions : Prop :=
  FloatResultsClaim ∧ FloatSelectionsClaim

/-- Branches, LOOP and LOOPB complete: where control goes, the counts, the stage predicates, the loop buffer: `BranchesClaim` and `LoopSetUpClaim` and `LoopBackClaim`. -/
def Obligations.BranchesAndLoops : Prop :=
  BranchesClaim ∧ LoopSetUpClaim ∧ LoopBackClaim

/-- MFCR and MTCR complete for every control register, the tile banks included: `ControlRegistersClaim` and `TileBankWriteClaim`. -/
def Obligations.ControlRegisterInstructions : Prop :=
  ControlRegistersClaim ∧ TileBankWriteClaim

/-- TRAP takes its trap with no rollback; a page-class trap rolls the core back to its mark: `TrapInstructionClaim` and `PageTrapRollsBackClaim`. -/
def Obligations.TakingTraps : Prop :=
  TrapInstructionClaim ∧ PageTrapRollsBackClaim

/-- R138: XLAT and HREL. XLAT records its address; one that is not canonical is FAULTED at once, a hit of the handle TLB is
on its way for 24 cycles, a miss queues a walk; HREL makes its handle INVALID. Both discard what was on its way to the
handle. Neither traps. -/
def Obligations.Handles : Prop :=
  ∀ (s : State) (o : SReg),
    let b := s.begun
    let n := o.rd.toNat
    let va := b.self.regs.rd o.ra
    let a := dropWalk s.cur n b.acc
    let k := a.k
    let h := k.regs.handle n
    (s.issues .s (.xlat o) 2 = true → 2 ^ 56 ≤ va.toNat →
      exec (.xlat o) s = .next (s.leaves a.s { k with regs := k.regs.setHandle n { h with state := .faulted, va } }
        (s.self.pc + 2) 0)) ∧
    (s.issues .s (.xlat o) 2 = true → va.toNat < 2 ^ 56 →
      (∀ e ∈ k.htlb, e.covers (b.space s.cur).1 va.toNat = false) →
      exec (.xlat o) s = .next (s.leaves
        (a.s.queueWalk (coreDie s.cur) (b.space s.cur).1 (b.space s.cur).2 va (.handle s.cur n))
        { k with regs := k.regs.setHandle n { h with state := .pending, va } } (s.self.pc + 2) 0)) ∧
    (∀ e, s.issues .s (.xlat o) 2 = true → va.toNat < 2 ^ 56 →
      (k.htlb.find? fun e => e.covers (b.space s.cur).1 va.toNat) = some e →
      exec (.xlat o) s = .next (s.leaves a.s
        (({ k with
            regs := k.regs.setHandle n { h with state := .pending, va }
            htlb := e :: k.htlb.filter (· != e) } : Core).awaits (.scalar false) (.handle n e) [] 0 (s.now + 24))
        (s.self.pc + 2) 0)) ∧
    (s.issues .s (.hrel o) 2 = true →
      exec (.hrel o) s = .next (s.leaves a.s { k with regs := k.regs.setHandle n { h with state := .invalid } }
        (s.self.pc + 2) 0))

/-- The fences complete after their waits and their time, IFENCE once no overlay load is in flight, NOP at once: `FencesClaim` and `InstructionFenceClaim` and `NopHasNoEffectClaim`. -/
def Obligations.FencesAndNop : Prop :=
  FencesClaim ∧ InstructionFenceClaim ∧ NopHasNoEffectClaim

/-- The row instructions complete with the row, flags and latency of their tables; special values of the transcendentals: `RowResultsClaim` and `TranscendentalSpecialsClaim`. -/
def Obligations.RowInstructions : Prop :=
  RowResultsClaim ∧ TranscendentalSpecialsClaim

/-- VEXTR, PMOV and PTAKE complete; what the transform ports compute: `ElementsAndPortsClaim` and `PortFunctionsClaim`. -/
def Obligations.ElementsAndPorts : Prop :=
  ElementsAndPortsClaim ∧ PortFunctionsClaim

/-- The ring instructions complete; how an operand tile is fetched through the operand cache: `RingsClaim` and `OperandFetchClaim`. -/
def Obligations.RingsAndOperands : Prop :=
  RingsClaim ∧ OperandFetchClaim

/-- R191, R196 to R200, R211: MMA and MMAZ, with two configured rings that can give a tile, the matrix unit free, and the
64 lines full: each operand is the tile at its ring's head; both rings are popped; the accumulation is in flight for 8
cycles, 16 in FP32, from the old tile or from zeros, under the scale registers as R211 gives them at issue. What a line in
error that it reads leaves is the statement ScratchpadErrors. -/
def Obligations.MatrixIssue : Prop :=
  ∀ (s : State) (o : MMac) (i : Instr) (old : List Row),
    let k := s.begun.self
    let p := k.ring o.rga.toNat
    let q := k.ring o.rgb.toNat
    (i = .mma o ∧ old = k.rows (physTile k.regs.rrb o.tc)) ∨ (i = .mmaz o ∧ old = List.replicate 32 0) →
    s.issues .m i 2 = true → p.size ≠ 0 → q.size ≠ 0 → p.empty = false → q.empty = false → k.mma = none →
    linesReady s.begun (p.slotAddr p.head) 32 = true → linesReady s.begun (q.slotAddr q.head) 32 = true →
    let b := meetReads s.cur (spReads (s.begun.ctx .m) i) s.begun
    let (ta, a) := fetchTile (s.begun.ctx .m) o.rga.toNat { s.begun.acc with s := b }
    let (tb, a) := fetchTile (s.begun.ctx .m) o.rgb.toNat a
    exec i s = .next (s.leavesMark a.s
      { (a.k.setRing o.rga.toNat p.pop).setRing o.rgb.toNat q.pop with
        mma := some
          { tc := physTile k.regs.rrb o.tc, keep := true, fa := o.fa, fb := o.fb, a := ta, b := tb
            sa := k.regs.scale o.ka.toNat, sb := k.regs.scale o.kb.toNat, old, rings := [o.rga.toNat, o.rgb.toNat]
            due := s.now + (if o.fa = 0x08 then 16 else 8), seq := k.seq } }
      (s.self.pc + 2) 0)

/-- What an accumulation computes, in integers and by chunks of floats, and how an MMA retires: `IntegerAccumulationClaim` and `ChunkAccumulationClaim` and `MatrixRetiresClaim`. -/
def Obligations.Accumulation : Prop :=
  IntegerAccumulationClaim ∧ ChunkAccumulationClaim ∧ MatrixRetiresClaim

/-- MOUT, MOUTS and MZERO complete, and what lands of them: `MatrixOutputsClaim` and `MatrixOutputsLandClaim`. -/
def Obligations.MatrixOutputs : Prop :=
  MatrixOutputsClaim ∧ MatrixOutputsLandClaim

/-- The scratchpad loads and stores complete where they lie in one lane at their alignment, and trap where not: `ScratchpadLoadsClaim` and `ScratchpadErrorsClaim` and `ScratchpadStoresClaim` and `ScratchpadMisalignClaim`. -/
def Obligations.ScratchpadAccesses : Prop :=
  ScratchpadLoadsClaim ∧ ScratchpadErrorsClaim ∧ ScratchpadStoresClaim ∧ ScratchpadMisalignClaim

/-- The global loads and acquires of a readable page complete: `GlobalLoadsClaim` and `GlobalAcquiresClaim`. -/
def Obligations.GlobalReads : Prop :=
  GlobalLoadsClaim ∧ GlobalAcquiresClaim

/-- R280 to R283: an atomic on a page that is readable, writable, not copy-on-write and stored as delivered, with no earlier
access that must come first, no loose dirty byte of its line and no seepage: at the point of coherence the operand is replaced
by its new value in one step and a seepage record of its scope is left; the old value is on its way to the destination; the
line leaves the core's L1; the restart region ends. Errors of the granules reached are dealt with first (R450). R281 bounds
the return from below alone: that the old value is on its way for six cycles is the model's choice (log 40). -/
def Obligations.Atomics : Prop :=
  ∀ (s : State) (o : AFmt) (i : Instr), i ∈ [.aadd o, .amin o, .amax o, .aand o, .aor o, .axor o, .axchg o, .acas o,
      .afadd o] →
    let m := s.marked
    let k := m.self
    let n := (fmtOf o.ty).width / 8
    let off := ((k.regs.rd o.ro).toNat + o.off.toNat * n) % 2 ^ 64
    let (src, p) := (k.regs.handle o.h.toNat).page.at off
    let w := (implicitMark s.cur s.tried).self
    s.issues .t i 2 = true → pageReady k o.h off n n true true true = true → atomDown o (m.ctx .t) w = w →
    k.loadsBefore o.cls.toNat src p n = false → k.storesBefore o.cls.toNat src (p / 128) = false →
    m.seeps src p s.cur = none →
    let low := fun (r : BitVec 5) => (k.regs.rd r).toNat % 2 ^ (8 * n)
    let old := natOfBytes (m.delivered src p n)
    ∀ new fl, atomicResult (fmtOf o.ty) old (low o.rb) (low o.rc) i = some (new, fl) →
    exec i s = .next (s.leavesMark
      (((m.foundBy k.launch src p n).deliverTo src (placed p (bytesOf n (BitVec.ofNat 64 new)))).setSeep src p o.sc.toNat s.cur)
      (({ k with l1 := k.l1.filter fun e => !(e.src == src && e.line == p / 128) } : Core).awaits (.atomic (match i with | .afadd _ => true | _ => false))
        (k.scalarDest o.rd) [(intScalar (fmtOf o.ty) old).zeroExtend 1024] fl (s.now + 6)) (s.self.pc + 2) 0)

/-- The global stores to a writable page complete; what an access through a handle traps on, in order: `GlobalStoresClaim` and `HandleTrapsClaim` and `AtomicTrapsClaim`. -/
def Obligations.GlobalWritesAndHandleTraps : Prop :=
  GlobalStoresClaim ∧ HandleTrapsClaim ∧ AtomicTrapsClaim

/-- R284 to R287: LDSMP of a field whose descriptor has a layout to sample and whose pages are mapped and readable: the lines
are read through the cluster's sampler cache, where a stale line is a free value (log 21); the nearest channel vector, or the
trilinear combination of eight, is on its way to its row for 24 or 32 cycles. What walks gave for the access alone (R250) is
kept no longer. -/
def Obligations.SampledLoads : Prop :=
  ∀ (s : State) (o : QFmt),
    let x := s.begun.ctx .l
    let k := s.begun.self
    let d := s.begun.desc s.cur o.fd.toNat
    let vs := (sampleAt o d x).map (vectorVas o d (x.own d) x)
    s.issues .l (.ldsmp o) 2 = true → (s.cluster (coreCluster s.cur)).sampTo ≤ s.now → d.layout ≠ 2 → d.unset = false →
    (o.filt = 1 → d.fmt ∈ [0x08, 0x09, 0x0A]) →
    (∀ v ∈ vs.flatten, ∃ e, x.sampXlate v = some e ∧ leafR e.leaf = true) →
    ((s.launch k.launch).strict = false ∨ smpZeroed o x = []) →
    let places := vs.flatten.filterMap fun v => (x.sampXlate v).map fun e =>
      ((e.at (v - e.base)).1, (e.at (v - e.base)).2 / 128)
    let (lines, t) := sampLines k.launch (coreCluster s.cur) places s.begun
    let bytes := vs.map (vectorBytes x lines)
    let elem := fun (bs : List Byte) (i : Nat) =>
      (fmtOf d.fmt).value (Machine.elem (8 * d.es) (natOfBytes bs) i)
    let frac := fun (r : BitVec 5) => XVal.mk false ((k.regs.rd r).toNat % 65536) (-16)
    let row : Row := if o.filt = 0 then rowOfBytes (bytes.headD [])
      else rowOf (pack 32 ((List.range 32).map fun i =>
        if (bytes.headD []).length / d.es ≤ i then 0
        else encodeExact fp32 (trilerp (frac o.sx) (frac o.sy) (frac o.sz) (bytes.map fun bs => elem bs i))))
    let q := coreCluster s.cur
    let u := if (t.cluster q).got = [] then t
      else t.setCluster q { t.cluster q with got := dropGot (s.begun.space s.cur).1 vs.flatten (t.cluster q).got }
    exec (.ldsmp o) s = .next (s.leaves u (k.awaits .sample (k.rowDest o.td o.rowd) [row] 0
      (s.now + if o.filt = 0 then 24 else 32)) (s.self.pc + 2) 0)

/-- R313 to R315, R321, R336, R346, R378, R391: an engine push whose line is aligned in one lane, with room in its engine's
queue and, where it asks for a result, in its core's: the entry and the result slot are reserved, the line and the operand
taken, and the push joins the gated buffer; the engine sees it once it commits. A line in error reads zeros (the statement
ScratchpadErrors). -/
def Obligations.EnginePushes : Prop :=
  ∀ (s : State) (o : XCmd) (i : Instr) (q : Nat) (kind : Option Nat), i ∈ [.epush o, .cpy o, .cpyt o, .cpyf o, .cpyh o,
      .bxch o, .allred o, .rscat o, .agath o, .bcast o, .alltoall o, .reshard o, .plq o] → pushKind o i = some (q, kind) →
    let k := s.begun.self
    let a := (k.regs.rd o.ra).toNat
    let t := pushTarget s.cur q
    let res := o.fn.getLsbD 0
    s.issues .x i 2 = true → a % 128 = 0 → a < 2 ^ 24 → a % 2 ^ 21 + 128 ≤ 0x180000 → k.linesBusy a 128 = false →
    s.begun.roomIn q t k.launch ≠ 0 → (res = true → (k.elems.get [] q).length + k.resv.get 0 q < 16) →
    let line := s.begun.spView s.cur a
    let p : Push :=
      { q, core := s.cur, lid := k.launch, kind := kind.getD (line.toNat % 256), line, opnd := k.regs.rd o.rb
        mask := o.mask, sc := o.sc.toNat, res, scout := k.regs.scout.toNat }
    let b := meetReads s.cur [lineKey a] s.begun
    exec i s = .next (s.leaves (b.setEngq t ((b.engq t).reserve k.launch true))
      (gates (if res then { k with resv := k.resv.put q (k.resv.get 0 q + 1) } else k) [.push p]) (s.self.pc + 2) 0)

/-- R228, R322 to R324, R378, R396: the reads of the X slot give their word at issue and change nothing else. EPOP takes the
oldest element of its queue, which is an acquire and ends the restart region; with no element held and none reserved it
gives zero. R119 gives these results no latency: that they take one cycle is the model's choice (log 40). -/
def Obligations.StatusReads : Prop :=
  ∀ s : State,
    let k := s.begun.self
    (∀ i rd v, readWord s.begun i = some (rd, v) → s.issues .x i 2 = true →
      exec i s = .next (s.leaves s.begun (k.gets s.now rd v 1) (s.self.pc + 2) 0)) ∧
    (∀ (o : XPop) v vs, s.issues .x (.epop o) 2 = true → k.elems.get [] o.q.toNat = v :: vs →
      exec (.epop o) s = .next (s.leavesMark s.begun
        (({ k.dropClean with elems := k.elems.put o.q.toNat vs } : Core).gets s.now o.rd v 1) (s.self.pc + 2) 0)) ∧
    (∀ o : XPop, s.issues .x (.epop o) 2 = true → k.elems.get [] o.q.toNat = [] →
      (o.fn.getLsbD 0 = true ∨ k.resv.get 0 o.q.toNat = 0) →
      exec (.epop o) s = .next (s.leaves s.begun (k.gets s.now o.rd 0 1) (s.self.pc + 2) 0))

/-- SEMADD, SEMSET and SEMWAIT complete on legal operands and trap SEM_OVERFLOW on others: `SemaphoreOperationsClaim` and `SemaphoreOverflowClaim`. -/
def Obligations.SemaphoreOperations : Prop :=
  SemaphoreOperationsClaim ∧ SemaphoreOverflowClaim

/-- BARC and BARG arrive, complete once released, and when a barrier releases: `BarrierInstructionsClaim` and `ClusterBarrierReleasesClaim`. -/
def Obligations.Barriers : Prop :=
  BarrierInstructionsClaim ∧ ClusterBarrierReleasesClaim

/-- R418: OVL of a handle that is neither INVALID nor PENDING, with an address at a multiple of 8, into the other half, puts the
load on its way, its destination busy, and ends the restart region. The stores before it reach memory first. A load that
passes its checks ends 200 cycles and a cycle for
each two words later: its words then stand from TOFF on, the half's tag is its image's and the status word holds the CRC, NW
and 0; where the words have another CRC the half is cleared above the resident words, its tag goes and the status is 2. A half
that holds the tag already writes status 1 and keeps its words; a load that fails its checks clears the half above the
resident words and its tag, and writes a status of 3 or more. A load waits for the walk of a page that its TLB lacks. A body
with an index past its dictionary has words that the spec leaves open, and a CRC that differs from its header's (log 25). -/
def Obligations.OverlayLoads : Prop :=
  (∀ (s : State) (o : XOvl),
    let k := s.begun.self
    let va := (k.regs.handle o.h.toNat).va + k.regs.rd o.ra
    s.issues .x (.ovl o) 2 = true → (k.regs.handle o.h.toNat).state ≠ .invalid →
    (k.regs.handle o.h.toNat).state ≠ .pending → va.toNat % 8 = 0 → o.half.getLsbD 0 ≠ s.self.pc.getLsbD 12 →
    exec (.ovl o) s = .next (s.leavesMark s.begun
      { k with ovls := k.ovls ++ [⟨o.half.getLsbD 0, if o.rd = 0 then 0 else physScalar k.regs.rrb o.rd, va, 0, k.seq⟩] }
      (s.self.pc + 2) 0)) ∧
  (∀ (s₀ : State) (c : Nat) (o : OvlPend) (os : List OvlPend), (s₀.core c).ovls = o :: os →
    let s := if o.due = 0 then s₀.setCore c ((s₀.core c).queueDown o.seq fun _ => true) else s₀
    let k := s.core c
    let b := halfBase o.half
    let nres := (s.launch k.launch).desc.nres
    let waits := o.due = 0 ∧ ∃ e ∈ k.outq, e.seq ≤ o.seq ∧ ∃ src ws cl sc rel, e.eff = .store src ws cl sc rel
    let ends := fun (len : Nat) (f : Core → Core) (crc nw st : Nat) =>
      let u := ovlRead c o.va.toNat len s
      exec (.ovlEnd c) s₀ = .next (drain c (u.setCore c
        (({ f (u.core c) with ovls := (u.core c).ovls.drop 1, ibad := [] } : Core).landAt 0 (.scalar o.rd)
          [(BitVec.ofNat 64 (crc * 2 ^ 32 + nw * 2 ^ 16 + st)).zeroExtend 1024])))
    (waits → exec (.ovlEnd c) s₀ = .next (drain c s)) ∧
    (¬ waits →
    (∀ p, ovlRun c s o = .walk p →
      exec (.ovlEnd c) s₀ = .next (drain c
        (s.queueWalk (coreDie c) (s.space c).1 (s.space c).2 (BitVec.ofNat 64 (p * 65536)) (.overlay c)))) ∧
    (∀ h p, ovlRun c s o = .expand h p → o.due = 0 →
      exec (.ovlEnd c) s₀
        = .next (drain c (s.setCore c { k with ovls := { o with due := s.now + 200 + (h.nw + 1) / 2 } :: os }))) ∧
    (ovlRun c s o = .small 1 → ends 32 id 0 0 1) ∧
    (∀ st, 3 ≤ st → ovlRun c s o = .small st →
      ends (if st = 3 then 0 else 32)
        (fun k' => ({ k' with ispm := k.ispm.clearRange (b + nres) (b + 4096) } : Core).setTag o.half none) 0 0 st) ∧
    (∀ h p, ovlRun c s o = .expand h p → o.due ≠ 0 → o.due ≤ s.now → ovlCrc h p = h.crc →
      ends (p.stop - o.va.toNat)
        (fun k' => ({ k' with ispm := k.ispm.writeRun (b + h.toff) p.words } : Core).setTag o.half (some ⟨h.id, h.crc⟩))
        h.crc.toNat h.nw 0) ∧
    (∀ h p, ovlRun c s o = .expand h p → o.due ≠ 0 → o.due ≤ s.now → ovlCrc h p ≠ h.crc →
      ends (p.stop - o.va.toNat)
        (fun k' => ({ k' with ispm := (k.ispm.writeRun (b + h.toff) p.words).clearRange (b + nres) (b + 4096) }
          : Core).setTag o.half none)
        (ovlCrc h p).toNat h.nw 2))) ∧
  (∀ (h : OvlHeader) (p : OvlPart), (p.past = false → ovlCrc h p = crc32c (wordBytes p.words)) ∧
    (p.past = true → ovlCrc h p ≠ h.crc))

/-- R119, R153, R223, R274, R281, R286: a result that is due lands by the step of its kind and of no other: it is on its way no
more, its register takes the value, as does the shadow where a restart mark has passed since, and its flags are ORed in.
One that is not due stays. -/
def Obligations.ResultsLand : Prop :=
  ∀ (s : State) (c i : Nat) (l : Landing), (s.core c).land[i]? = some l →
    let k := s.core c
    (l.due ≤ s.now → exec (landing c i l.kind) s = .next (drain c (s.setCore c
      ((({ k with land := removeAt k.land i } : Core).landAt l.region l.dest l.val).orFlags l.flags)))) ∧
    (s.now < l.due → exec (landing c i l.kind) s = .next (drain c s)) ∧
    (∀ kind, landing c i kind ≠ landing c i l.kind → exec (landing c i kind) s = .next (drain c s)) ∧
    (∀ n v, l.dest = .scalar n → n ≠ 0 → l.val = [v] → l.due ≤ s.now → k.regs.x.wf = true → k.shadow.x.wf = true →
      ∃ t, exec (landing c i l.kind) s = .next t ∧ (t.core c).regs.x.read n = v.truncate 64 ∧
        (l.region < k.region → (t.core c).shadow.x.read n = v.truncate 64) ∧
        (k.region ≤ l.region → (t.core c).shadow = k.shadow) ∧ (t.core c).flags = k.flags ||| l.flags ∧
        (∀ m, m ≠ n → (t.core c).regs.x.read m = k.regs.x.read m) ∧ (t.core c).tile = k.tile ∧ t.mem = s.mem) ∧
    (∀ r n v, l.dest = .row r n → l.val = [v] → l.due ≤ s.now → k.tile.wf = true →
      ∃ t, exec (landing c i l.kind) s = .next t ∧ (t.core c).row r n = v ∧
        (∀ m, m ≠ r * 32 + n → (t.core c).tile.read m = k.tile.read m) ∧ (t.core c).regs = k.regs ∧
        (t.core c).flags = k.flags ||| l.flags ∧ t.mem = s.mem)

/-- R253, R274, R279, R290 to R293: a global load that is due, and that no load before it of its class or of its bytes still has
to take its value, returns. One that has its value lands it. One that has none takes all its bytes as they are then: errors of
the L1's lines that it meets are dealt with, and the lines with a byte that the core cannot give are read at the slice, counted
there, and fill the L1. -/
def Obligations.GlobalLoadsReturn : Prop :=
  ∀ (s : State) (c i : Nat) (l : LoadPend), (s.core c).loads[i]? = some l → l.due ≤ s.now →
    ((s.core c).loads.take i).all (fun e => e.val.isSome || (e.cls != l.cls && !(e.src == l.src && e.off < l.off + l.size
      && l.off < e.off + e.size))) = true →
    let k := s.core c
    let lands := fun (k' : Core) (bs : List Byte) =>
      let k' := ({ k' with loads := removeAt k'.loads i } : Core)
      (match l.dest with
      | .scale n => k'.landRegs l.region fun r => { r with kpend := r.kpend.filter fun p => p.k != n || l.seq ≤ p.seq }
      | _ => k').landAt l.region l.dest (rowsOfBytes (l.size / 128 + 1) bs)
    (∀ bs, l.val = some bs → exec (.globalLoadReturn c i) s = .next (drain c (s.setCore c (lands k bs)))) ∧
    (l.val = none →
      let (b, k1) := findL1 l.src (linesOf l.off l.size) s k
      let p := readLines k.launch l.src s.ctr (l.misses k1) { b with ctr := s.ctr + 1 } k1
      exec (.globalLoadReturn c i) s = .next (drain c
        (p.1.setCore c (lands p.2 ((List.range l.size).map fun j => returned b k1 l (l.off + j))))))

/-- R214, R219, R223, R290, R293: a committed effect that may perform reaches its place: bytes of scratchpad their bank, a
clearing of full bits the lines, a global store the point of coherence, where its bytes become clean in the L1 and a release
at CLUSTER scope or wider leaves a record. Every byte of memory that a store of plain bytes does not name is as before, where
none of the granules it writes holds an uncorrectable error. -/
def Obligations.StoresArrive : Prop :=
  ∀ (s : State) (c i : Nat) (o : OutEnt), (s.core c).outq[i]? = some o → (s.core c).mayPerform s.now i = true →
    let k := s.core c
    let cl := coreCluster c
    let b := s.setCore c { k with outq := removeAt k.outq i }
    (∀ a bs, o.eff = .sp a bs →
      exec (.storeReachesBank c i) s = .next (drain c (b.setCluster cl ((s.cluster cl).setSp a bs)))) ∧
    (∀ l n, o.eff = .spclr l n →
      exec (.storeReachesBank c i) s = .next (drain c (b.setCluster cl ((s.cluster cl).setFull l n false)))) ∧
    (∀ src ws cls sc rel, o.eff = .store src ws cls sc rel →
      let t := b.deliverTo src ws
      let t := t.setCore c ((t.core c).cleanBytes src ws)
      exec (.storeReachesPointOfCoherence c i) s = .next (drain c
        (if rel = true ∧ sc ≠ 0 then (nubNat (ws.map fun w => w.1 / 128)).foldl (fun t l => t.setSeep src (l * 128) sc c) t
          else t))) ∧
    (∀ src ws cls sc rel, o.eff = .store src ws cls sc rel → src.isPlain = true → s.mem.wf = true →
      (ws.all fun w => !s.dead.contains (w.1 / 256)) = true →
      ∃ t, exec (.storeReachesPointOfCoherence c i) s = .next t ∧
        (∀ a, (ws.all fun w => w.1 != a) = true → t.mem.read a = s.mem.read a) ∧
        (∀ a v, ws = [(a, v)] → t.mem.read a = v))

/-- SEND, RECV and RECVADD complete, and how a sent row arrives: `RowTransfersClaim` and `RowsArriveClaim`. -/
def Obligations.RowTransfers : Prop :=
  RowTransfersClaim ∧ RowsArriveClaim

/-- R32, R33, R147, R178, R211, R250: what else a core has on its way. The first waiting SAT = 1 signal, once everything up
to its bundle has performed, is added to its counter, which saturates, and what waited for it performs; where the counter
would not hold the sum, that is counted and a trap is due at the core's next bundle boundary, at once where the core has
retired END (log 40). A retained bank whose wake is over reads ON. A port's result that is due can be taken. A scale write
whose bundles have passed lands. A walk in the first 64 entries ends, for every miss that has joined it: a PENDING handle that
still holds its address is VALID with the leaf found, or FAULTED; errors of the tables it read are dealt with (R451). -/
def Obligations.CoreHousekeeping : Prop :=
  ∀ (s : State) (c : Nat),
    let k := s.core c
    (∀ g gs, k.sat = g :: gs → k.performedTo g.seq = true →
      let cl := coreCluster c
      let n := s.sem cl g.sem + g.inc
      let past := ((s.setCore c { k with sat := gs, satTrap := k.satTrap ++ [(g.sem, g.pc)] }).moveSem cl g.sem
        65535).countSemovf c
      (n ≤ 65535 → exec (.satSignalApply c) s = .next (drain c ((s.setCore c { k with sat := gs }).moveSem cl g.sem n))) ∧
      (65535 < n → k.run ≠ .ended → exec (.satSignalApply c) s = .next (drain c past)) ∧
      (65535 < n → k.run = .ended → exec (.satSignalApply c) s = .next (drain c (takeSatTrap c past)))) ∧
    (∃ t, exec (.bankWake c) s = .next t ∧ (∀ w ∈ k.waking, w.2 ≤ s.now → w.1 < 8 → bankCode (t.core c).tbank w.1 = 0) ∧
      (∀ b, b < 8 → (k.waking.all fun w => s.now < w.2 || w.1 != b) = true →
        bankCode (t.core c).tbank b = bankCode k.tbank b) ∧
      (t.core c).waking = k.waking.filter (fun w => s.now < w.2) ∧ (t.core c).regs = k.regs ∧ (t.core c).tile = k.tile) ∧
    (∀ port due row fl ws, (k.regs.port port).wait = (due, row, fl) :: ws → due ≤ s.now →
      let p := k.regs.port port
      exec (.portResultReady c port) s = .next (s.setCore c { k with
        regs := k.regs.setPort port { p with wait := ws, outs := p.outs ++ [row] }, flags := k.flags ||| fl })) ∧
    (∀ p, k.regs.kpend = [p] → p.left = 0 →
      exec (.ldscWriteLand c) s
        = .next (s.setCore c { k with
            regs := { k.regs with kpend := [], k := k.regs.k.write p.k p.val }
            bad := k.bad.filter fun b => b.reg != .scale p.k })) ∧
    (∀ f i w h va, (s.die f).walks[i]? = some w → i < 64 → w.who = [(.handle c h, va)] →
      let d := s.die f
      let t := (s.setDie f { d with walks := removeAt d.walks i }).meetWalk (diePkg f) w.root w.va.toNat
      let hd := k.regs.handle h
      (hd.state = .pending → hd.va = va → s.walk (diePkg f) w.space w.root va.toNat = none →
        exec (.walkEnd f i) s
          = .next (t.setCore c { k with regs := k.regs.setHandle h { hd with state := .faulted } })) ∧
      (∀ x, hd.state = .pending → hd.va = va → s.walk (diePkg f) w.space w.root va.toNat = some x →
        exec (.walkEnd f i) s = .next (t.setCore c { k with
          regs := k.regs.setHandle h { hd with state := .valid, page := x }
          htlb := tlbPut 256 k.htlb x })) ∧
      ((hd.state ≠ .pending ∨ hd.va ≠ va) → exec (.walkEnd f i) s = .next t)) ∧
    (∀ f i w, (s.die f).walks[i]? = some w → i < 64 →
      exec (.walkEnd f i) s = .next (w.who.foldl
        (fun t q => walkDone w.space t q.1 q.2 (s.walk (diePkg f) w.space w.root q.2.toNat))
        ((s.setDie f { s.die f with walks := removeAt (s.die f).walks i }).meetWalk (diePkg f) w.root w.va.toNat)))

/-- CPY, CPYF and CPYT commands run: statuses, addresses of runs, the time buffer: `CopyCommandsClaim` and `CopyRunAddressesClaim` and `TimedCopiesClaim`. -/
def Obligations.CopyCommands : Prop :=
  CopyCommandsClaim ∧ CopyRunAddressesClaim ∧ TimedCopiesClaim

/-- R219, R335: CPYH at the head of a queue. A line outside its limits ends BAD_FIELD, a sub-block that reaches above its lane
RANGE; else the three phases run, T, H and W in order, each reading everything before it writes, each line written is set full
in the last phase that writes it, and it ends with its count of lanes. With WAITF a phase first waits for the lines it reads that
no earlier phase of the command writes (DEDUCED, log 17). That nothing comes between the phases is the model's choice (log 2), and
so is that bits of LANES beyond the lane grid count for nothing (log 60). -/
def Obligations.LaneHalos : Prop :=
  ∀ (s : State) (cl : Nat) (p : Push) (ps : List Push),
    let t := copyQueue cl
    let q := s.engq t
    let m := q.running.length
    let taken := s.setEngq t { q with entries := ps }
    let r := p.line
    let fits := lineNum r 16 4 + cpyhBytes r ≤ 0x180000
    let k := s.cluster cl
    let after := [0, 1, 2].foldl (fun (u : State) phase =>
      filledBy cl (cpyhFills r phase) (u.setCluster cl (cpyhPhase r (u.cluster cl) phase))) taken
    q.entries = p :: ps → p.kind = 4 → m < 4 →
    lineOrd r = false → lineFl r < 8 → (lineSig r = true → sclOk s p.lid (clusterDie cl) r = true) →
    (cpyhOk r = false → exec (.cpyhCommand cl m) s = .next (ended cl p 0x03 0 false taken)) ∧
    (cpyhOk r = true → ¬ fits → exec (.cpyhCommand cl m) s = .next (ended cl p 0x06 0 false taken)) ∧
    (cpyhOk r = true → fits → lineWaitf r = false → (∀ phase < 3, fillable cl (cpyhFills r phase) s) →
      exec (.cpyhCommand cl m) s = .next (ended cl p 0x01 (cpyhLanes r).length false after)) ∧
    (cpyhOk r = true → fits → cpyhWaits r 0 k = true →
      exec (.cpyhCommand cl m) s
        = .next (s.setEngq t { q with entries := ps, running := q.running ++ [{ push := p }] })) ∧
    (∀ phase, cpyhWaits r phase k = true ↔ lineWaitf r = true ∧ ∃ l ∈ cpyhPhaseLines r phase false,
      (∀ j < phase, l ∉ cpyhPhaseLines r j true) ∧ k.full.read l = 0) ∧
    (∀ phase l, l ∈ cpyhFills r phase ↔ l ∈ cpyhPhaseLines r phase true ∧ ∀ j, phase < j → j < 3 → l ∉ cpyhPhaseLines r j true) ∧
    (k.full.wf = true → ∀ phase < 3, ∀ l ∈ cpyhPhaseLines r phase true, (after.cluster cl).full.read l = 1) ∧
    (∀ (c : Cluster) (phase : Nat),
      let cs := (cpyhLanes r).flatMap (cpyhCopies r phase)
      (cpyhPhase r c phase).sp = (cs.foldl (fun q e => q.setSp e.2
        ((List.range (lineNum r 26 2 * lineNum r 28 1)).map fun i => c.spByte (e.1 + i))) c).sp)

/-- BXCH commands run; how a face is read, sent, written and counted: `BermCommandsClaim` and `FacesAreSentClaim` and `FacesArriveClaim`. -/
def Obligations.BermExchanges : Prop :=
  BermCommandsClaim ∧ FacesAreSentClaim ∧ FacesArriveClaim

/-- Collectives are posted, matched and granted their staging rows: `CollectivesMatchClaim` and `StagingGrantsClaim`. -/
def Obligations.CollectivesMatch : Prop :=
  CollectivesMatchClaim ∧ StagingGrantsClaim

/-- R22, R23, R356, R357: a packet whose link is live, with none of its chunk and tree before it on that link, reaches its router,
at once within a package. The router takes the first hop of its ROUTE and one from NHOP, and leaves the header's other bits as
they are. FWD sends it on by the port named, END hands it to the die's engine as control, a reserved operation and a route that
has run out are counted; DLV hands its payload to the die's engine, whose chunk ORs in its flags where it is audited. Over an
external link it is first cut into flits, where the replay buffer has room, and reaches its router once the far port has
delivered them (log 32, log 54). SLUICE_PACKET answers a next state for every state and place. -/
def Obligations.SluicePackets : Prop :=
  (∀ (s : State) (i : Nat), ∃ t, exec (.sluicePacket i) s = .next t) ∧
  (∀ (s : State) (i : Nat) (p : Packet), s.packets[i]? = some p →
    let same := fun (q : Packet) => q.frm == p.frm && q.peer == p.peer && q.cid == p.cid && q.chunk == p.chunk && q.tree == p.tree
    let t := { s with packets := removeAt s.packets i }
    let port := p.route.toNat % 8
    let op := p.route.toNat / 8 % 8
    let d := s.die p.peer
    let bad := t.setDie p.peer { d with badhop := if d.badhop = 0xFFFF then d.badhop else d.badhop + 1 }
    let p' : Packet := { p with hdr := shiftHeader p.hdr }
    let ready := s.joined p.frm p.peer = true ∧ (s.packets.take i).any same = false
    (¬ ready → exec (.sluicePacket i) s = .next s) ∧
    (ready → s.external p.frm p.peer = none →
      (p.nhop = 0 → exec (.sluicePacket i) s = .next bad) ∧
      (p.nhop ≠ 0 → op = 4 → exec (.sluicePacket i) s
        = .next (t.setDie p.peer { d with control := d.control ++ [(p'.hdr, p.data)] })) ∧
      (p.nhop ≠ 0 → 5 ≤ op → exec (.sluicePacket i) s = .next bad) ∧
      (p.nhop ≠ 0 → op = 0 → port < 6 → exec (.sluicePacket i) s = .next { t with packets := t.packets ++
        [{ p' with frm := p.peer, peer := s.neighbour p.peer (port / 2) (port % 2 == 0) }] }) ∧
      (p.nhop ≠ 0 → op = 0 → 6 ≤ port → exec (.sluicePacket i) s = .next bad) ∧
      (p.nhop ≠ 0 → op = 1 → exec (.sluicePacket i) s = .next (handPart true p' t)) ∧
      (p.nhop ≠ 0 → op = 3 → port < 6 →
        let u := handPart false p' t
        exec (.sluicePacket i) s = .next { u with packets := u.packets ++
          [{ p' with frm := p.peer, peer := u.neighbour p.peer (port / 2) (port % 2 == 0) }] }) ∧
      (∀ n c r, p.nhop ≠ 0 → op = 2 → (numbered 0 s.colls).find? (fun e => e.2.started && p'.isOf e.2) = some (n, c) →
        c.runs.find? (fun r => r.chunk == p'.chunk && r.tree == p'.tree) = some r →
        let r' : ChunkRun := { r with
          afl := if p'.aud then r.afl ||| p'.afl else r.afl
          at' := r.at'.map fun m => if m.die = p.peer then
            { m with res := m.res ++ [⟨p.src, p'.eoff, p'.wire, p'.scales, p.data⟩] } else m }
        exec (.sluicePacket i) s
          = .next (t.setColl n { c with runs := c.runs.map fun x => if x.chunk == r.chunk then r' else x }))) ∧
    (∀ a, ready → s.external p.frm p.peer = some a →
      (p.cut = none → exec (.sluicePacket i) s = .next (match sendPacket p.frm (3 + a) p.hdr p.data s with
        | some (q, u) => { u with packets := replaceAt s.packets i { p with cut := some q } }
        | none => s)) ∧
      (∀ q, p.cut = some q → takePacket p.peer (3 + a) q s = none → exec (.sluicePacket i) s = .next s) ∧
      (∀ q hdr data u, p.cut = some q → takePacket p.peer (3 + a) q s = some (hdr, data, u) →
        exec (.sluicePacket i) s
          = .next (routePacket { p with hdr, data, cut := none } { u with packets := removeAt s.packets i })))) ∧
  (∀ (p : Packet),
    let p' : Packet := { p with hdr := shiftHeader p.hdr }
    p'.route = p.route >>> 6 ∧ p'.nhop = p.nhop - 1 ∧ p'.hdr >>> 76 = p.hdr >>> 76)

/-- How a chunk finishes at a member, and how a collective recovers from a lost link: `ChunksFinishClaim` and `TreesRecoverClaim`. -/
def Obligations.ChunksAndRecovery : Prop :=
  ChunksFinishClaim ∧ TreesRecoverClaim

/-- How a RESHARD moves its rows, ends when aborted, and commits at its tick: `ReshardRowsClaim` and `ReshardAbortsClaim` and `ReshardCommitsClaim`. -/
def Obligations.Resharding : Prop :=
  ReshardRowsClaim ∧ ReshardAbortsClaim ∧ ReshardCommitsClaim

/-- R380, R381, R392 to R395: an entry of a posting-list engine's queue that may start is taken. A command of no kind that the
engine knows ends with BAD_KIND; one whose header, slot or own fields are outside their limits with BAD_FIELD, with nothing
counted; a QUERY or a CHECK that runs to its end with the status and the counts that it comes to. Each end writes its record
where it may, gives its increment and its element. A command whose wait is not over keeps its slot. That a command is one step, that
one which waits starts afresh after its wait, the status that stands of several (logs 35, 59), and that a command of no known
kind writes no record, are the model's (DEDUCED, log 35). -/
def Obligations.PostingListCommands : Prop :=
  ∀ (s : State) (m j : Nat) (p : Push),
    let t := pleQueue m
    let q := s.engq t
    let n := q.running.length
    let held := s.setEngq t { q with entries := removeAt q.entries j, running := q.running ++ [{ push := p }] }
    let r := p.line
    let f := coreDie p.core
    let head := lineFl r < 8 && (!lineSig r || sclOk s (partKey p.lid f) f r) && lineSlot r < s.slotsOf m p.lid
    let ends := fun (i : Instr) (u : State) (st : Nat) (z : Bool) (tally : Tally) =>
      exec i s = .next (pleEnd m n p st z tally u)
    q.entries[j]? = some p → pleMayStart s m j p = true →
    (p.kind ≠ 0x30 → p.kind ≠ 0x31 → ends (.query m (n + j)) held 0x02 false {}) ∧
    (p.kind = 0x30 → (head = false ∨ queryOk r = false) → ends (.query m (n + j)) held 0x03 false {}) ∧
    (p.kind = 0x31 → (head = false ∨ checkOk r = false) → ends (.check m (n + j)) held 0x03 false {}) ∧
    (p.kind = 0x30 → head = true → queryOk r = true →
      (∀ u st z tally, runQuery m p held = .ends u st z tally → ends (.query m (n + j)) u st z tally) ∧
      (∀ u, runQuery m p held = .waits u → exec (.query m (n + j)) s = .next u)) ∧
    (p.kind = 0x31 → head = true → checkOk r = true →
      (∀ u st z tally, runCheck m p held = .ends u st z tally → ends (.check m (n + j)) u st z tally) ∧
      (∀ u, runCheck m p held = .waits u → exec (.check m (n + j)) s = .next u)) ∧
    (∀ u st z tally, lineRec r = 0 →
      let v := (pleCtx u m p).release u
      pleEnd m n p st z tally u
        = pleClose m p (endStatus st z) tally (v.setEngq t { v.engq t with running := removeAt (v.engq t).running n }))

/-- What a posting block decodes to, and how documents are ranked: `PostingBlocksClaim` and `RankingClaim`. -/
def Obligations.PostingsAndRanking : Prop :=
  PostingBlocksClaim ∧ RankingClaim

/-- R404, R406: the operations of a control slot that wait for nothing or for a value. NOP and FENCE complete, as everything that
earlier words wrote has performed by then. WAITSEM waits until its queue semaphore has reached C, and takes C off it where B
is 1; SIGSEM adds C, which saturates, and the waits of the package's queues are tested; WAITTIME waits until TBASE reaches V; STAMP writes TBASE, and a page that cannot be
written puts the queue in FAULT; SIGCL adds to the semaphore of a placed launch's cluster, one of a launch that is not there
is counted in QERR. -/
def Obligations.QueueWords : Prop :=
  ∀ (s : State) (q : Nat),
    let b := beginWord q s
    let x := (b.queue q).ctrl
    let p := q / 64
    let v := ((b.pkg p).qsem.read x.a).toNat
    let at' := fun (n : Nat) => atControl q b && x.opc == n
    (at' 0x00 = true → exec (.pumphouseNop q) s = .next (slotDone q b)) ∧
    (at' 0x0A = true → exec (.fence q) s = .next (slotDone q b)) ∧
    (at' 0x02 = true → v < x.c → exec (.waitsem q) s = .next (slotWaits q b)) ∧
    (at' 0x02 = true → x.c ≤ v → x.b % 2 = 0 → exec (.waitsem q) s = .next (slotDone q b)) ∧
    (at' 0x02 = true → x.c ≤ v → x.b % 2 = 1 → exec (.waitsem q) s = .next (slotDone q
      (b.setPkg p { b.pkg p with qsem := (b.pkg p).qsem.write x.a (BitVec.ofNat 32 (v - x.c)) }))) ∧
    (at' 0x03 = true → v + x.c ≤ 0xFFFFFFFF → exec (.sigsem q) s = .next (slotDone q (testQueues p
      (b.setPkg p { b.pkg p with qsem := (b.pkg p).qsem.write x.a (BitVec.ofNat 32 (v + x.c)) })))) ∧
    (at' 0x03 = true → 0xFFFFFFFF < v + x.c → exec (.sigsem q) s = .next (slotDone q (State.addQerr (testQueues p
      (b.setPkg p { b.pkg p with qsem := (b.pkg p).qsem.write x.a 0xFFFFFFFF })) p 1))) ∧
    (at' 0x05 = true → (b.tbase p).toNat < x.v.toNat → exec (.waittime q) s = .next (slotWaits q b)) ∧
    (at' 0x05 = true → x.v.toNat ≤ (b.tbase p).toNat → exec (.waittime q) s = .next (slotDone q b)) ∧
    (at' 0x0B = true → ∀ t, b.writeVa p q ((b.queue q).root.toNat * 8192) x.v.toNat (bytesOf 8 (b.tbase p)) leafW = some t →
      exec (.stamp q) s = .next (slotDone q t)) ∧
    (at' 0x0B = true → b.writeVa p q ((b.queue q).root.toNat * 8192) x.v.toNat (bytesOf 8 (b.tbase p)) leafW = none →
      exec (.stamp q) s = .next (b.queueFault q)) ∧
    (at' 0x04 = true →
      let k := b.launch (p * 65536 + x.v.toNat % 65536)
      (k.desc.cmask.getLsbD x.b = true → k.phase = .placed →
        exec (.sigcl q) s = .next (slotDone q (b.engineInc (p * 48 + x.b) x.a x.c))) ∧
      (k.desc.cmask.getLsbD x.b = true → k.phase = .saved →
        exec (.sigcl q) s = .next (slotDone q (b.savedInc (p * 65536 + x.v.toNat % 65536) (p * 48 + x.b) x.a x.c))) ∧
      ((k.desc.cmask.getLsbD x.b = false ∨ (k.phase ≠ .placed ∧ k.phase ≠ .saved)) →
        exec (.sigcl q) s = .next (slotDone q (b.addQerr p 1))))

/-- R252, R399, R404, R408 to R410, R419, R420, R428: the operations of a control slot on launches and pages. LAUNCH admits or refuses
what its descriptor says, or puts its queue in FAULT where no descriptor can be read; it waits until the launch is placed.
PREEMPT begins the drain of a placed launch. SNAP orders its pages for the next crest barrier and waits for that; KILL
begins the kill and waits for its end; one of a launch that is not there completes with no effect, which is the model's
choice (log 24). INVAL removes translations and waits for the accesses that used them; of a page that is not mapped it puts its
queue in FAULT. What the reads of LAUNCH and SNAP find in error is replaced and counted (R451). That a kill ends a launch that
holds no cluster at once and begins and ends in two steps, what a refusal tells the host, and the order of an INVAL and the
write-downs it waits for, are the model's (DEDUCED, logs 12, 13, 14, 43). -/
def Obligations.QueueLaunchWords : Prop :=
  ∀ (s : State) (q : Nat),
    let b := beginWord q s
    let k := b.queue q
    let x := k.ctrl
    let p := q / 64
    let root := k.root.toNat * 8192
    let l := p * 65536 + x.v.toNat % 65536
    let at' := fun (n : Nat) => atControl q b && x.opc == n
    let held := fun (t : State) (l : Nat) => [LPhase.waiting, .placed, .saved].contains (t.launch l).phase
    let admits := fun (t : State) (l : Nat) => slotWaits q (t.setQueue q { t.queue q with admitted := some l })
    (at' 0x01 = true → k.admitted = none →
      let u := launchReads q x.v.toNat b
      (readLaunch b q x.v.toNat = .unread → exec (.launch q) s = .next (u.queueFault q)) ∧
      (∀ l r, readLaunch b q x.v.toNat = .refused l r → exec (.launch q) s = .next (slotDone q (u.complete l r 0x05 0))) ∧
      (∀ l r, readLaunch b q x.v.toNat = .admitted l r → exec (.launch q) s = .next (admits
        (u.setLaunch l { r with readyAt := some (max r.desc.start.toNat (u.tbase p).toNat) }) l))) ∧
    (∀ l, at' 0x01 = true → k.admitted = some l →
      ((b.launch l).phase = .waiting → exec (.launch q) s = .next (slotWaits q b)) ∧
      ((b.launch l).phase ≠ .waiting → exec (.launch q) s = .next (slotDone q b))) ∧
    (at' 0x06 = true → (b.launch l).desc.fabric = false →
      ((b.launch l).phase = .placed → (b.launch l).drain = none → exec (.preempt q) s
        = .next (slotDone q (b.setLaunch l { b.launch l with drain := some (b.ticks p) }))) ∧
      ((b.launch l).phase ≠ .placed → exec (.preempt q) s = .next (slotDone q b))) ∧
    (at' 0x07 = true → k.admitted = none →
      let l := p * 65536 + x.b
      (b.vaBytes p q root x.v.toNat (8 * x.c) (fun _ => true) = none → exec (.snap q) s = .next (b.queueFault q)) ∧
      (∀ bs, b.vaBytes p q root x.v.toNat (8 * x.c) (fun _ => true) = some bs →
        let u := b.afterRead p q root x.v.toNat (8 * x.c)
        ((u.launch l).phase = .none ∨ (u.launch l).phase = .ended → exec (.snap q) s = .next (slotDone q u)) ∧
        ((u.launch l).phase ≠ .none → (u.launch l).phase ≠ .ended → exec (.snap q) s = .next (admits (u.setLaunch l { u.launch l with
          snaps := (u.launch l).snaps ++ [{ queue := q, pages := (List.range x.c).map fun i => byteNum bs (8 * i) 8 }] }) l)))) ∧
    (∀ n, at' 0x07 = true → k.admitted = some n →
      let some' := (b.launch (p * 65536 + x.b)).snaps.any fun n => n.queue == q
      exec (.snap q) s = .next (if some' then slotWaits q b else slotDone q b)) ∧
    (at' 0x09 = true → k.admitted = none →
      let t := b.kill l 0x02 0
      exec (.kill q) s = .next (if held t l then admits t l else slotDone q t)) ∧
    (∀ n, at' 0x09 = true → k.admitted = some n → exec (.kill q) s
      = .next (if held b l then slotWaits q b else slotDone q b)) ∧
    (at' 0x08 = true → k.inval = none →
      let lo := x.v.toNat
      let hi := lo + 65536 * x.c
      let xs := b.held q lo hi
      let t := (b.flushPages xs).invalidate q lo hi
      (b.walk p q root lo = none → exec (.inval q) s = .next (b.queueFault q)) ∧
      (b.walk p q root lo ≠ none → exec (.inval q) s = .next (if t.quiet xs then slotDone q (t.rewalk q)
        else slotWaits q (t.setQueue q { t.queue q with inval := some xs })))) ∧
    (∀ xs, at' 0x08 = true → k.inval = some xs →
      exec (.inval q) s = .next (if b.quiet xs then slotDone q (b.rewalk q) else slotWaits q b))

/-- R405, R406: the next die slot of a word that is no SYNC word is sent, after its control slot. A command line that cannot be read puts
the queue in FAULT; a command for a launch that is not there, or that places nothing where the slot sends it, is counted in QERR;
one whose engine queue has no room waits; any other enters that queue as its launch's command, and the word goes on.
A command for a saved launch joins what is saved of it. The slots of a SYNC word are sent in one step, each held for the word's
tick, which the largest skew to its dies fixes; they enter their queues together at that tick, in the step that comes first of the
tick; one that arrives later enters then, which is counted. That entry has a step of its own (log 2), and how long a slot travels, a
free value (log 26), are the model's choices. -/
def Obligations.DieSlots : Prop :=
  (∀ (s : State) (q d : Nat) (ds : List Nat),
    let b := beginWord q s
    let k := b.queue q
    let n := (headerDies (k.word.headD 0)).length
    let x := k.slotAt (n - k.dies.length)
    let p := q / 64
    let line := b.vaBytes p q (k.root.toNat * 8192) x.va 128 leafR
    let u := b.afterRead p q (k.root.toNat * 8192) x.va 128
    let l := b.launch (p * 65536 + x.lid)
    let goes := fun (t : State) => if ds = [] then
        t.setQueue q { t.queue q with
          head := (t.queue q).head + BitVec.ofNat 32 (t.queue q).word.length, word := [], dies := [], blocked := false
          since := t.ticks p, en := !(t.queue q).ending, mapped := (t.queue q).mapped && !(t.queue q).ending, ending := false }
      else t.setQueue q { t.queue q with dies := ds, blocked := false }
    (k.en && !k.bad && k.mapped && !k.word.isEmpty && k.ctlDone) = true → k.dies = d :: ds →
    (headerSync (k.word.headD 0) = false → k.tick = none →
      (line = none → exec (.dieSlot q) s = .next (b.queueFault q)) ∧
      (line ≠ none → ((l.phase ≠ .placed ∧ l.phase ≠ .saved) ∨ slotHome l.desc.cmask d x = false) →
        exec (.dieSlot q) s = .next (goes (u.addQerr p 1))) ∧
      (∀ bs, line = some bs → l.phase = .placed → slotHome l.desc.cmask d x = true →
        let e := slotPush q d x (rowOfBytes bs)
        (u.roomIn e.q (pushTarget e.core e.q) e.lid = 0 → exec (.dieSlot q) s = .next (slotWaits q u)) ∧
        (u.roomIn e.q (pushTarget e.core e.q) e.lid ≠ 0 → exec (.dieSlot q) s = .next (goes (u.enqueue e)))) ∧
      (∀ bs, line = some bs → l.phase = .saved → slotHome l.desc.cmask d x = true →
        exec (.dieSlot q) s = .next (goes (u.savedPush (slotPush q d x (rowOfBytes bs)))))) ∧
    (∀ bs, headerSync (k.word.headD 0) = true → k.dies.length ≤ n →
      let skew := (k.dies.map fun d => ((b.pkg p).skew.read d).toNat).foldl max 0
      let tick := k.tick.getD (b.tbase p + BitVec.ofNat 64 (skew + 16))
      let v := b.setQueue q { k with tick := some tick }
      let e := slotPush q d x (rowOfBytes bs)
      let w := v.afterRead p q (k.root.toNat * 8192) x.va 128
      let t := w.setEngq (pushTarget e.core e.q) ((w.engq (pushTarget e.core e.q)).reserve e.lid true)
      let y : SyncSlot := { tick, arrive := t.tbase p + (Config.slotTravel d).zeroExtend 64, entry := e }
      let t := goes (t.setPkg p { t.pkg p with syncs := (t.pkg p).syncs ++ [y] })
      v.vaBytes p q (k.root.toNat * 8192) x.va 128 leafR = some bs → l.phase = .placed → slotHome l.desc.cmask d x = true →
      w.roomIn e.q (pushTarget e.core e.q) e.lid ≠ 0 →
      exec (.dieSlot q) s = if ds = [] then .next t else exec (.dieSlot q) t)) ∧
  (∀ (s : State) (p i : Nat) (y : SyncSlot), (s.pkg p).syncs[i]? = some y →
    let k := s.pkg p
    let due := fun (z : SyncSlot) => max z.tick.toNat z.arrive.toNat ≤ (s.tbase p).toNat
    (¬ due y → exec (.syncSlotEntry p i) s = .next s) ∧
    (due y → exec (.syncSlotEntry p i) s
      = .next ((k.syncs.filter fun z => due z).foldl (enterSync p)
        (s.setPkg p { k with syncs := k.syncs.filter fun z => ¬ due z }))) ∧
    ((s.launch y.entry.lid).phase = .placed →
      enterSync p s y = (if y.tick.toNat < y.arrive.toNat then s.addQerr p 1 else s).enterPush y.entry))

/-- QRING_WRITE, QPTR_TAIL_WRITE, QUEUE_ENABLE, QUEUE_DISABLE and QUEUE_MAPPING complete: the registers written, the queues mapped: `QueueRegistersClaim` and `QueueSlotsClaim`. -/
def Obligations.Queues : Prop :=
  QueueRegistersClaim ∧ QueueSlotsClaim

/-- A launch is placed with its cores entered, and ends once they have halted: `LaunchesArePlacedClaim` and `LaunchesEndClaim`. -/
def Obligations.LaunchesArePlacedAndEnd : Prop :=
  LaunchesArePlacedClaim ∧ LaunchesEndClaim

/-- R420 to R422, R425: pre-emption and the watchdog. A placed launch with PRE that stands in the way of a ready one of a higher
priority, or that the host asks it of (log 7), begins to drain, unless it drains already. While its time to drain is not over nothing halts; once it is over and its
cores are all stopped and idle with no command of it running or on its way, its context is saved and its resources freed; a saved
launch that its package chooses is put back. A launch whose running time is over traps on every core and is killed. The time is
counted in ticks of the package's TBASE (log 3); what stands in the way of a launch is the model's reading (DEDUCED, log 18), and
so are what of a core a save takes along (log 9) and the steps of a kill (log 43). -/
def Obligations.PreemptionSteps : Prop :=
  ∀ (s : State) (l : Nat),
    let x := s.launch l
    let inWay := s.launches.any fun e => launchPkg e.1 == launchPkg l && s.launchReady e.1 && !s.fits e.1
      && x.desc.pri < e.2.desc.pri && s.blocks l e.2.desc
    let cs := (s.parts l).flatMap s.placedCores
    (∀ host, x.phase = .placed → x.desc.fabric = false → x.drain = none →
      (host = true ∨ (x.desc.pre = true ∧ inWay = true)) →
      exec (.launchDrain ⟨l, host⟩) s = .next (s.setLaunch l { x with drain := some (s.ticks (launchPkg l)) })) ∧
    ((x.desc.pre = false ∨ inWay = false) → exec (.launchDrain ⟨l, false⟩) s = .next s) ∧
    ((x.phase ≠ .placed ∨ x.desc.pre = false ∨ x.drain = none ∨ ∃ t, x.drain = some t ∧ s.ticks (launchPkg l) < t + 1600 * x.desc.drain) →
      exec (.drainTimeout l) s = .next s) ∧
    (∀ t, x.phase = .placed → x.desc.pre = true → x.drain = some t → t + 1600 * x.desc.drain ≤ s.ticks (launchPkg l) → x.doom = none →
      s.halted l = false → (cs.all fun c => [RunSt.stopped, .ended, .halted].contains (s.core c).run && (s.core c).idle && !s.walking c) = true →
      (s.engqs.any fun q => q.2.running.any fun r => (s.parts l).contains r.push.lid) = false →
      (s.berms.any fun m => (s.parts l).contains (m.dst / 8 * 65536 + m.lid)) = false →
      exec (.drainTimeout l) s = .next ((s.parts l).foldl savePart (s.withdraw (s.parts l)))) ∧
    (s.chosen l = true → x.phase = .saved →
      exec (.launchResume l) s = .next ((s.parts l).foldl (resumePart (s.entryDelay l)) s)) ∧
    ((s.chosen l = false ∨ x.phase ≠ .saved) → exec (.launchResume l) s = .next s) ∧
    (let late := x.phase = .placed ∧ x.desc.wdog ≠ 0 ∧ x.doom = none ∧ s.halted l = false ∧
        1600 * x.desc.wdog < x.ran + (s.ticks (launchPkg l) - x.since)
     (¬ late → exec (.watchdog l) s = .next s) ∧
     (late → exec (.watchdog l) s = .next (((((s.parts l).filter fun m => (s.launch m).phase == .placed).flatMap
        s.placedCores).foldl (fun s c =>
        if (s.core c).run = .placed then takeTrap c 7 .watchdog 0 0 (returnWait c s) else s) s).kill l 0x03 0x14)))

/-- R269, R424, R426, R427: a trapped core goes on. The host's answer RESUME reissues the bundle reported, its answer SKIP issues the next
one, and HANDLE_REVOKED resumes by itself: the core is placed again, its record says so, and a restart mark is taken there. After
the trap of a SAT = 1 signal both go on at the continuation PC; a core that had retired END has no bundle to issue. A
page-class trap cannot be skipped. The answer KILL kills the core's launch. A write to a copy-on-write page resumes once
the page has been copied; where no frame is free the trap goes to the host. The values of STATE tested and written outside the host's
case (DEDUCED, log 11), an answer kept for a core whose launch is saved (DEDUCED, log 30) and that SKIP gives up the release of a
barrier (DESIGN CHOICE, log 47) are the model's. -/
def Obligations.TrapAnswers : Prop :=
  ∀ (s : State) (c : Nat),
    let k := s.core c
    let goes := fun (t : State) (pc : BitVec 13) => takeMark c pc (t.setCore c { t.core c with
      pc, run := if (t.core c).fin then .ended else .placed, ready := max (t.core c).ready (t.now + 1)
      trap := { (t.core c).trap with state := 2, ans := 0 } })
    let signal := k.trap.code = 0x0E ∧ k.trap.w2.getLsbD 63 = true
    let n := 1 + presCount (readHeader (k.ispm.read k.pc.toNat)).pres
    (k.run = .trapped → (k.trap.state = 1 ∨ k.trap.ans = 1 ∨ k.trap.code = 0x08) →
      exec (.trapResume c) s = .next (goes s k.pc)) ∧
    (k.run = .trapped → (k.trap.state = 1 ∨ k.trap.ans = 2) → signal → exec (.trapSkip c) s = .next (goes s k.pc)) ∧
    (k.run = .trapped → (k.trap.state = 1 ∨ k.trap.ans = 2) → (k.trap.code < 0x08 ∨ 0x0B < k.trap.code) → ¬ signal →
      k.pc.toNat % 4096 + n ≤ 4095 →
      exec (.trapSkip c) s = .next (goes (s.setCore c { k with pass := none, passed := none }) (k.pc + BitVec.ofNat 13 n))) ∧
    (8 ≤ k.trap.code → k.trap.code ≤ 11 → exec (.trapSkip c) s = .next s) ∧
    (k.run = .trapped → k.trap.state = 1 → exec (.trapAnswerKill c) s = .next
      ((s.setCore c { k with trap := { k.trap with state := 2 } }).kill k.launch 0x02 k.trap.code)) ∧
    (k.run ≠ .trapped → exec (.trapResume c) s = .next s ∧ exec (.trapSkip c) s = .next s ∧
      exec (.trapAnswerKill c) s = .next s ∧ exec (.cowResolve c) s = .next s) ∧
    (k.run = .trapped → k.trap.state = 0 → k.trap.code = 0x0B →
      let space := (s.space c).1
      let root := (s.space c).2
      let va := k.trap.w1.toNat
      let r := s.resolveCow (corePkg c) space root va
      (s.cowQuiet (corePkg c) space root va = false → exec (.cowResolve c) s = .next s) ∧
      (s.cowQuiet (corePkg c) space root va = true → r.2 ≠ .noFrame →
        exec (.cowResolve c) s = .next (goes r.1 (r.1.core c).pc)) ∧
      (s.cowQuiet (corePkg c) space root va = true → r.2 = .noFrame → exec (.cowResolve c) s
        = .next (State.notify (r.1.setCore c { r.1.core c with trap := { (r.1.core c).trap with state := 1 } }) (corePkg c)
          ⟨2, gcore c, (r.1.core c).trap.code, 0⟩)))

/-- Host messages: their sequence, register accesses and memory accesses: `MessageSequenceClaim` and `MessagesClaim`. -/
def Obligations.HostMessages : Prop :=
  MessageSequenceClaim ∧ MessagesClaim

/-- R449: the expected message of a session that asks for attestation. With ARG 0 its answer is the 32 bytes of MEAS, the 32 of
the nonce, PART_ID and PART, a byte for each of the steps 0 to 6, nine zeros, and the SM2 signature over these 96 bytes; with
ARG 1 the 64-byte public key. The signature and the key are free values (DESIGN CHOICE, log 28), and so is STEPPING in PART_ID
(DESIGN CHOICE, log 27): the spec gives no value of theirs. -/
def Obligations.Attestation : Prop :=
  ∀ (s : State) (p : Nat) (r : VvReq),
    let n := noteSession p r s
    let ok := fun (i : Instr) => (message i).any fun m => m.2.2
    (s.pkg p).up = true → r.sess ≤ 255 → r.seq = ((n.pkg p).sess.get {} r.sess).next.toNat →
    (ok (.attestReport p r) = true →
      let bs := bytesOf 32 (n.pkg p).meas ++ r.body ++ bytesOf 8 ((pkgReg n p 0x00).getD 0) ++ bytesOf 8 ((pkgReg n p 0x08).getD 0)
        ++ ((List.range 7).map fun i => BitVec.ofNat 8 ((n.pkg p).bmode.getD i 0)) ++ List.replicate 9 0
      exec (.attestReport p r) s = .next (answers p r 0 (bs ++ bytesOf 64 (Config.sm2Sign p (natOfBytes bs))) n)) ∧
    (ok (.attestPublicKey p r) = true →
      exec (.attestPublicKey p r) s = .next (answers p r 0 (bytesOf 64 (Config.sm2Key p)) n))

/-- Links drop, train and narrow; flits are delivered in order: `LinkStepsClaim` and `FlitsReceivedClaim`. -/
def Obligations.Links : Prop :=
  LinkStepsClaim ∧ FlitsReceivedClaim

/-- HBM_SPLIT and CLK.CODE take writes; clock changes and thermal emergencies: `DeviceWritesClaim` and `PowerStepsClaim`. -/
def Obligations.ClocksAndPower : Prop :=
  DeviceWritesClaim ∧ PowerStepsClaim

/-- R111, R444, R448, R450, R451: time, start-up and scrubbing. A time message sets TSTAT, locked within 80 ticks, and where the servo
adjusts, at most once in 1,024 ticks, TBASE skips or doubles one increment; the loss of the master unlocks it. A start
runs its steps in order, each recorded in flash, in the form that the record of the runs before calls for; a failed step ends
the start; the first sets the brick mode, memory training writes HBM_SPLIT, PTP lock sets TBASE forward and TSTAT to what it leaves,
the last one makes the package ready. One that breaks off within a step leaves that step's START alone in flash; after it, and after
a failed one, and where a start is begun anew at any time, the package is as at reset but for its flash and its place in the
fabric, and memory stands. How the servo moves TBASE, that a start takes one step at a time and a ready package another only when begun
anew, what TOPO is before the first step (DEDUCED, log 37), and that a discarded HBM_SPLIT leaves the one write (DESIGN CHOICE, log 52),
are the model's. Scrubbing looks at a granule of
its own memory die: one with a correctable error is corrected and counted, one with no error is left. -/
def Obligations.TimeAndStartup : Prop :=
  ∀ (s : State) (p : Nat),
    let k := s.pkg p
    (∀ port off, let u := { k with offset := off, mport := port % 2 == 1, locked := off.toInt.natAbs ≤ 80 }
      (exec (.ptpMessage p port off false) s = .next (s.setPkg p u)) ∧
      (off = 0 ∨ s.now + 1 < k.lastAdj + 1024 → exec (.ptpMessage p port off true) s = .next (s.setPkg p u)) ∧
      (off ≠ 0 → k.lastAdj + 1024 ≤ s.now + 1 → ∃ t, exec (.ptpMessage p port off true) s = .next t ∧ t.now = s.now + 1 ∧
        t.tbase p = (if off.toInt < 0 then s.tbase p + 2 else s.tbase p) ∧ (t.pkg p).lastAdj = s.now + 1 ∧
        (t.pkg p).offset = off ∧ ∀ q, q ≠ p → t.tbase q = s.tbase q + 1)) ∧
    (exec (.ptpMasterLoss p) s = .next (s.setPkg p { k with locked := false })) ∧
    (let anew := fun (t : State) (flash : List BootEntry) =>
      (t.pkg p).up = false ∧ (t.pkg p).bstep = 0 ∧ (t.pkg p).bmode = [] ∧ (t.pkg p).flash = flash ∧ (t.pkg p).topo = k.topo ∧
      t.tbase p = 0 ∧ (∀ q, q / 64 = p → t.queue q = {}) ∧ (∀ l, l / 65536 = p → t.launch l = {}) ∧ (s.colls = [] → t.mem = s.mem)
     (∀ dg ok v, v.again = true → ∃ t, exec (.boot p dg ok v) s = .next t ∧ anew t k.flash) ∧
     (∀ dg ok v, v.again = false → k.up = true → exec (.boot p dg ok v) s = .next s) ∧
     (∀ dg v, v.again = false → k.up = false →
      let n := k.bstep
      let form := stepForm k.flash n
      let b := { k with flash := k.flash ++ [⟨n, 0, dg⟩, ⟨n, 1, dg⟩], bmode := k.bmode ++ [form], bstep := n + 1 }
      let split := v.split.toNat % 128
      let ahead := (s.tbase p).toNat - v.time.toNat
      (form = 2 → ∀ ok, exec (.boot p dg ok v) s = .next (s.setPkg p { k with bmode := k.bmode ++ [2], bstep := n + 1 })) ∧
      (form ≠ 2 → v.lost = true → ∀ ok, ∃ t, exec (.boot p dg ok v) s = .next t ∧ anew t (k.flash ++ [⟨n, 0, dg⟩])) ∧
      (form ≠ 2 → v.lost = false → ∃ t, exec (.boot p dg false v) s = .next t ∧ anew t (k.flash ++ [⟨n, 0, dg⟩, ⟨n, 2, dg⟩])) ∧
      (form ≠ 2 → v.lost = false →
        (n = 0 → exec (.boot p dg true v) s = .next (s.setPkg p { b with topo := bootTopo p v.topo })) ∧
        (n = 1 → exec (.boot p dg true v) s = .next (s.setPkg p { b with
          meas := Config.sm3 (k.meas.toNat + 2 ^ 256 * dg.toNat) 64 })) ∧
        (n = 2 → k.homeSet = false → split ≤ 64 → exec (.boot p dg true v) s = .next (s.setPkg p { b with
          homeg := v.split.extractLsb' 0 7, homeSet := true, frames := v.frames.map fun f => ⟨f.1, f.2⟩ })) ∧
        (n = 2 → (k.homeSet = true ∨ 64 < split) → exec (.boot p dg true v) s = .next (s.setPkg p { b with
          frames := v.frames.map fun f => ⟨f.1, f.2⟩ })) ∧
        (n = 5 → exec (.boot p dg true v) s = .next (s.setPkg p { b with
          toff := if (s.tbase p).toNat < v.time.toNat then v.time - BitVec.ofNat 64 s.now else k.toff
          offset := BitVec.ofNat 32 (min 0x7FFFFFFF ahead), locked := ahead ≤ 80, mport := v.port })) ∧
        (n = 6 → exec (.boot p dg true v) s = .next (s.setPkg p { b with up := true })) ∧
        (6 < n → exec (.boot p dg true v) s = .next (s.setPkg p b))))) ∧
    (∀ m pa, s.homeDie (pa / 256 * 256) = m →
      let x := s.mdie m
      (s.dead.contains (pa / 256) = false → s.weak.contains (pa / 256) = true → exec (.scrub m pa) s
        = .next { s.setMdie m { x with ecorr := x.ecorr + 1 } with weak := s.weak.filter (· != pa / 256) }) ∧
      (s.dead.contains (pa / 256) = false → s.weak.contains (pa / 256) = false → exec (.scrub m pa) s = .next s) ∧
      (s.dead.contains (pa / 256) = true → ∃ t, exec (.scrub m pa) s = .next t ∧ t.dead.contains (pa / 256) = false ∧
        (t.mdie m).euncorr = x.euncorr + 1 ∧ ∀ j, j < 256 → t.mem.read (pa / 256 * 256 + j) = 0))

/-- R62, R118, R227, R271, R272, R295: the frame of what follows a bundle's effect. Performing what may perform of a core's
committed releases and pushes takes them off that core's queue and changes no byte of memory or of a scratchpad, and no cluster
but the core's own; of its cluster's cores it lets waiting bundles pass their tests, which then issue in turn, and changes
nothing else of them. A restart mark also commits what is gated: of its core it changes that buffer, the L1, the waiting signals,
the values of loads on their way, which are taken before a store that comes after them enters the L1, and the mark itself, whose shadow is the registers as they stand. That bundles which pass issue next, each as an entry of the agenda, is the model's
choice (log 2). -/
def Obligations.RetirementFrame : Prop :=
  ∀ (s : State) (c : Nat) (pc : BitVec 13),
    let t := drain c s
    let u := takeMark c pc s
    let issues := fun (v : State) => ∃ l : List (Nat × Instr), v.agenda = l ++ s.agenda ∧
      ∀ e ∈ l, ∃ d, coreCluster d = coreCluster c ∧ e = (0, .bundleIssue d)
    { t with clusters := s.clusters, engqs := s.engqs, cores := s.cores, agenda := s.agenda } = s ∧
    { u with
      clusters := s.clusters, engqs := s.engqs, cores := s.cores, agenda := s.agenda, ctr := s.ctr, mem := s.mem, dead := s.dead
      weak := s.weak, mdies := s.mdies, launches := s.launches } = s ∧
    (s.dead = [] → u.mem = s.mem) ∧
    (((s.core c).loads.all fun l => l.val.isSome) = true →
      { u with clusters := s.clusters, engqs := s.engqs, cores := s.cores, agenda := s.agenda, ctr := s.ctr } = s) ∧
    issues t ∧ issues u ∧
    (∀ d, coreCluster d ≠ coreCluster c → t.core d = s.core d ∧ u.core d = s.core d) ∧
    (∀ d, d ≠ c → { t.core d with waiting := (s.core d).waiting, granted := (s.core d).granted } = s.core d ∧
      { u.core d with waiting := (s.core d).waiting, granted := (s.core d).granted } = s.core d) ∧
    (let k := s.core c
     { t.core c with outq := k.outq, waiting := k.waiting, granted := k.granted } = k ∧
     { u.core c with
       l1 := k.l1, outq := k.outq, gated := k.gated, sat := k.sat, shadow := k.shadow, mark := k.mark, region := k.region
       markSeq := k.markSeq, decr := k.decr, waiting := k.waiting, granted := k.granted, loads := k.loads } = k ∧
     ((u.core c).loads.map fun l => { l with val := none }) = (k.loads.map fun l => { l with val := none }) ∧
     (∀ (i : Nat) (l : LoadPend) (bs : List Byte), k.loads[i]? = some l → l.val = some bs → (u.core c).loads[i]? = some l) ∧
     (u.core c).shadow = k.regs ∧ (u.core c).mark = pc ∧ (u.core c).gated = [] ∧ (u.core c).decr = [] ∧
     (u.core c).region = k.region + 1) ∧
    (∀ n, n ≠ coreCluster c → t.cluster n = s.cluster n ∧ u.cluster n = s.cluster n) ∧
    (∀ n, (t.cluster n).sp = (s.cluster n).sp ∧ (u.cluster n).sp = (s.cluster n).sp)
end

