-- ==== Sys2Proof/Laws/Decode.lean ====
section
/-! SUPPORT. Reading an operand format gives back what was written in it, format by format (R46 to R56). -/

namespace Sys2Proof

/-- A field of a word as a number. -/
theorem field_toNat {w : Nat} (b : BitVec w) (lo n : Nat) : (field b lo n).toNat = b.toNat / 2 ^ lo % 2 ^ n := by
  simp [field, BitVec.extractLsb'_toNat, Nat.shiftRight_eq_div_pow]

/-- Format SReg. -/
@[simp] theorem unSReg_en (o : SReg) : unSReg (enSReg o) = some o := by
  obtain ⟨rd, ra, rb, fn⟩ := o
  have := rd.isLt; have := ra.isLt; have := rb.isLt; have := fn.isLt
  simp [unSReg, enSReg, ← BitVec.toNat_inj, field_toNat, place]
  omega

/-- Format SImm. -/
@[simp] theorem unSImm_en (o : SImm) : unSImm (enSImm o) = some o := by
  obtain ⟨rd, ra, fn, imm⟩ := o
  have := rd.isLt; have := ra.isLt; have := fn.isLt; have := imm.isLt
  simp [unSImm, enSImm, ← BitVec.toNat_inj, field_toNat, place]
  omega

/-- Format SWide. -/
@[simp] theorem unSWide_en (o : SWide) : unSWide (enSWide o) = some o := by
  obtain ⟨rd, imm⟩ := o
  have := rd.isLt; have := imm.isLt
  simp [unSWide, enSWide, ← BitVec.toNat_inj, field_toNat, place]
  omega

/-- Format SFloat. -/
@[simp] theorem unSFloat_en (o : SFloat) : unSFloat (enSFloat o) = some o := by
  obtain ⟨rd, ra, rb, ty, tys, rm, sat⟩ := o
  have := rd.isLt; have := ra.isLt; have := rb.isLt; have := ty.isLt; have := tys.isLt; have := rm.isLt; have := sat.isLt
  simp [unSFloat, enSFloat, ← BitVec.toNat_inj, field_toNat, place]
  omega

/-- Format SPred. -/
@[simp] theorem unSPred_en (o : SPred) : unSPred (enSPred o) = some o := by
  obtain ⟨pd, pa, pb, tt⟩ := o
  have := pd.isLt; have := pa.isLt; have := pb.isLt; have := tt.isLt
  simp [unSPred, enSPred, ← BitVec.toNat_inj, field_toNat, place]
  omega

/-- Format SBranch. -/
@[simp] theorem unSBranch_en (o : SBranch) : unSBranch (enSBranch o) = some o := by
  obtain ⟨rd, fn, tgt⟩ := o
  have := rd.isLt; have := fn.isLt; have := tgt.isLt
  simp [unSBranch, enSBranch, ← BitVec.toNat_inj, field_toNat, place]
  omega

/-- Format SFence. -/
@[simp] theorem unSFence_en (o : SFence) : unSFence (enSFence o) = some o := by
  obtain ⟨mask, sc⟩ := o
  have := mask.isLt; have := sc.isLt
  simp [unSFence, enSFence, ← BitVec.toNat_inj, field_toNat, place]
  omega

/-- Format SCtl. -/
@[simp] theorem unSCtl_en (o : SCtl) : unSCtl (enSCtl o) = some o := by
  obtain ⟨rd, ra, cr⟩ := o
  have := rd.isLt; have := ra.isLt; have := cr.isLt
  simp [unSCtl, enSCtl, ← BitVec.toNat_inj, field_toNat, place]
  omega

/-- Format VThree. -/
@[simp] theorem unVThree_en (o : VThree) : unVThree (enVThree o) = some o := by
  obtain ⟨td, rowd, ta, rowa, tb, rowb, ty, rm, sat, step⟩ := o
  have := td.isLt; have := rowd.isLt; have := ta.isLt; have := rowa.isLt; have := tb.isLt; have := rowb.isLt; have := ty.isLt; have := rm.isLt; have := sat.isLt; have := step.isLt
  simp [unVThree, enVThree, ← BitVec.toNat_inj, field_toNat, place]
  omega

/-- Format VScalar. -/
@[simp] theorem unVScalar_en (o : VScalar) : unVScalar (enVScalar o) = some o := by
  obtain ⟨td, rowd, ta, rowa, sb, idx, ty, rm, sat, step⟩ := o
  have := td.isLt; have := rowd.isLt; have := ta.isLt; have := rowa.isLt; have := sb.isLt; have := idx.isLt; have := ty.isLt; have := rm.isLt; have := sat.isLt; have := step.isLt
  simp [unVScalar, enVScalar, ← BitVec.toNat_inj, field_toNat, place]
  omega

/-- Format VConv. -/
@[simp] theorem unVConv_en (o : VConv) : unVConv (enVConv o) = some o := by
  obtain ⟨td, rowd, ta, rowa, tys, ty, rm, sat, step⟩ := o
  have := td.isLt; have := rowd.isLt; have := ta.isLt; have := rowa.isLt; have := tys.isLt; have := ty.isLt; have := rm.isLt; have := sat.isLt; have := step.isLt
  simp [unVConv, enVConv, ← BitVec.toNat_inj, field_toNat, place]
  omega

/-- Format VPort. -/
@[simp] theorem unVPort_en (o : VPort) : unVPort (enVPort o) = some o := by
  obtain ⟨td, rowd, ta, rowa, port, ty, rm, sat, step⟩ := o
  have := td.isLt; have := rowd.isLt; have := ta.isLt; have := rowa.isLt; have := port.isLt; have := ty.isLt; have := rm.isLt; have := sat.isLt; have := step.isLt
  simp [unVPort, enVPort, ← BitVec.toNat_inj, field_toNat, place]
  omega

/-- Format MMac. -/
@[simp] theorem unMMac_en (o : MMac) : unMMac (enMMac o) = some o := by
  obtain ⟨tc, rga, rgb, fa, fb, ka, kb⟩ := o
  have := tc.isLt; have := rga.isLt; have := rgb.isLt; have := fa.isLt; have := fb.isLt; have := ka.isLt; have := kb.isLt
  simp [unMMac, enMMac, ← BitVec.toNat_inj, field_toNat, place]
  omega

/-- Format MOut. -/
@[simp] theorem unMOut_en (o : MOut) : unMOut (enMOut o) = some o := by
  obtain ⟨tc, td, kd, ty, rm, sat, mx⟩ := o
  have := tc.isLt; have := td.isLt; have := kd.isLt; have := ty.isLt; have := rm.isLt; have := sat.isLt; have := mx.isLt
  simp [unMOut, enMOut, ← BitVec.toNat_inj, field_toNat, place]
  omega

/-- Format MOuts. -/
@[simp] theorem unMOuts_en (o : MOuts) : unMOuts (enMOuts o) = some o := by
  obtain ⟨tc, ra, imm, ty, rm, sat, mx⟩ := o
  have := tc.isLt; have := ra.isLt; have := imm.isLt; have := ty.isLt; have := rm.isLt; have := sat.isLt; have := mx.isLt
  simp [unMOuts, enMOuts, ← BitVec.toNat_inj, field_toNat, place]
  omega

/-- Format MRing. -/
@[simp] theorem unMRing_en (o : MRing) : unMRing (enMRing o) = some o := by
  obtain ⟨ring, rd, ra, rb, fn⟩ := o
  have := ring.isLt; have := rd.isLt; have := ra.isLt; have := rb.isLt; have := fn.isLt
  simp [unMRing, enMRing, ← BitVec.toNat_inj, field_toNat, place]
  omega

/-- Format GFmt. -/
@[simp] theorem unGFmt_en (o : GFmt) : unGFmt (enGFmt o) = some o := by
  obtain ⟨reg, h, ro, cls, sc, off, step⟩ := o
  have := reg.isLt; have := h.isLt; have := ro.isLt; have := cls.isLt; have := sc.isLt; have := off.isLt; have := step.isLt
  simp [unGFmt, enGFmt, ← BitVec.toNat_inj, field_toNat, place]
  omega

/-- Format PFmt. -/
@[simp] theorem unPFmt_en (o : PFmt) : unPFmt (enPFmt o) = some o := by
  obtain ⟨reg, ra, imm, step⟩ := o
  have := reg.isLt; have := ra.isLt; have := imm.isLt; have := step.isLt
  simp [unPFmt, enPFmt, ← BitVec.toNat_inj, field_toNat, place]
  omega

/-- Format AFmt. -/
@[simp] theorem unAFmt_en (o : AFmt) : unAFmt (enAFmt o) = some o := by
  obtain ⟨rd, rb, rc, h, ro, cls, sc, ty, off⟩ := o
  have := rd.isLt; have := rb.isLt; have := rc.isLt; have := h.isLt; have := ro.isLt; have := cls.isLt; have := sc.isLt; have := ty.isLt; have := off.isLt
  simp [unAFmt, enAFmt, ← BitVec.toNat_inj, field_toNat, place]
  omega

/-- Format QFmt. -/
@[simp] theorem unQFmt_en (o : QFmt) : unQFmt (enQFmt o) = some o := by
  obtain ⟨td, rowd, fd, sx, sy, sz, filt, amode, step⟩ := o
  have := td.isLt; have := rowd.isLt; have := fd.isLt; have := sx.isLt; have := sy.isLt; have := sz.isLt; have := filt.isLt; have := amode.isLt; have := step.isLt
  simp [unQFmt, enQFmt, ← BitVec.toNat_inj, field_toNat, place]
  omega

/-- Format XCmd. -/
@[simp] theorem unXCmd_en (o : XCmd) : unXCmd (enXCmd o) = some o := by
  obtain ⟨q, ra, rb, mask, sc, fn⟩ := o
  have := q.isLt; have := ra.isLt; have := rb.isLt; have := mask.isLt; have := sc.isLt; have := fn.isLt
  simp [unXCmd, enXCmd, ← BitVec.toNat_inj, field_toNat, place]
  omega

/-- Format XPop. -/
@[simp] theorem unXPop_en (o : XPop) : unXPop (enXPop o) = some o := by
  obtain ⟨rd, q, fn⟩ := o
  have := rd.isLt; have := q.isLt; have := fn.isLt
  simp [unXPop, enXPop, ← BitVec.toNat_inj, field_toNat, place]
  omega

/-- Format XSem. -/
@[simp] theorem unXSem_en (o : XSem) : unXSem (enXSem o) = some o := by
  obtain ⟨sem, ra, imm, fn, rd⟩ := o
  have := sem.isLt; have := ra.isLt; have := imm.isLt; have := fn.isLt; have := rd.isLt
  simp [unXSem, enXSem, ← BitVec.toNat_inj, field_toNat, place]
  omega

/-- Format XP2p. -/
@[simp] theorem unXP2p_en (o : XP2p) : unXP2p (enXP2p o) = some o := by
  obtain ⟨lane, ta, rowa, ra, imm, step⟩ := o
  have := lane.isLt; have := ta.isLt; have := rowa.isLt; have := ra.isLt; have := imm.isLt; have := step.isLt
  simp [unXP2p, enXP2p, ← BitVec.toNat_inj, field_toNat, place]
  omega

/-- Format XOvl. -/
@[simp] theorem unXOvl_en (o : XOvl) : unXOvl (enXOvl o) = some o := by
  obtain ⟨half, h, ra, rd⟩ := o
  have := half.isLt; have := h.isLt; have := ra.isLt; have := rd.isLt
  simp [unXOvl, enXOvl, ← BitVec.toNat_inj, field_toNat, place]
  omega

end Sys2Proof
end

