-- ==== Sys2Proof/Laws/Store.lean ====
section
/-! SUPPORT. Laws of the two kinds of table: a read after a write, and the canonical form kept by every operation. -/

namespace Sys2Proof

/-! Reads after writes. -/

theorem Store.wfFrom_cons {w : Nat} (b : Option Nat) (a : Nat) (v : BitVec w) (t : Store w) :
    Store.wfFrom b ((a, v) :: t) = true ↔
      (∀ l, b = some l → l < a) ∧ v ≠ 0 ∧ Store.wfFrom (some a) t = true := by
  cases b <;> simp [Store.wfFrom, and_assoc]

/-- A bound below the least number may be lowered. -/
theorem Store.wfFrom_mono {w : Nat} {a b : Nat} {t : Store w} (h : Store.wfFrom (some a) t = true) (hab : b ≤ a) :
    Store.wfFrom (some b) t = true := by
  cases t with
  | nil => rfl
  | cons e t =>
    rw [Store.wfFrom_cons] at h ⊢
    exact ⟨fun l hl => by have := h.1 a rfl; injection hl; omega, h.2.1, h.2.2⟩

/-- The bound may be dropped. -/
theorem Store.wf_of_wfFrom {w : Nat} {b : Option Nat} {t : Store w} (h : Store.wfFrom b t = true) : t.wf = true := by
  cases t with
  | nil => rfl
  | cons e t =>
    rw [Store.wfFrom_cons] at h
    rw [Store.wf, Store.wfFrom_cons]
    exact ⟨fun l hl => by simp at hl, h.2.1, h.2.2⟩

/-- Nothing is listed at or below a bound. -/
theorem Store.read_of_le {w : Nat} {a k : Nat} {t : Store w} (h : Store.wfFrom (some a) t = true) (hk : k ≤ a) :
    t.read k = 0 := by
  induction t generalizing a with
  | nil => rfl
  | cons e t ih =>
    rw [Store.wfFrom_cons] at h
    have ha := h.1 a rfl
    have hne : (e.1 == k) = false := by simp; omega
    rw [show Store.read (e :: t) k = if e.1 == k then e.2 else Store.read t k from rfl, hne]
    exact ih h.2.2 (by omega)

/-- A write keeps the canonical form above a bound. -/
theorem Store.wfFrom_write {w : Nat} {b : Option Nat} {t : Store w} (h : Store.wfFrom b t = true) (k : Nat)
    (hk : ∀ l, b = some l → l < k) (v : BitVec w) : Store.wfFrom b (t.write k v) = true := by
  induction t generalizing b with
  | nil =>
    by_cases hv : v = 0
    · simp [Store.write, hv, Store.wfFrom]
    · have : (v == 0) = false := by simpa using hv
      simp only [Store.write, this]
      exact (Store.wfFrom_cons ..).2 ⟨hk, hv, rfl⟩
  | cons e t ih =>
    obtain ⟨a, x⟩ := e
    have h' := (Store.wfFrom_cons ..).1 h
    simp only [Store.write]
    split
    · by_cases hv : v = 0
      · simpa [hv] using h
      · have : (v == 0) = false := by simpa using hv
        simp only [this]
        exact (Store.wfFrom_cons ..).2 ⟨hk, hv, (Store.wfFrom_cons ..).2
          ⟨fun l hl => by injection hl; omega, h'.2.1, h'.2.2⟩⟩
    · split
      · rename_i hka
        have hka : k = a := by simpa using hka
        subst hka
        by_cases hv : v = 0
        · simp only [hv, beq_self_eq_true, if_true]
          cases b with
          | none => exact Store.wf_of_wfFrom h'.2.2
          | some l => exact Store.wfFrom_mono h'.2.2 (by have := hk l rfl; omega)
        · have : (v == 0) = false := by simpa using hv
          simp only [this]
          exact (Store.wfFrom_cons ..).2 ⟨hk, hv, h'.2.2⟩
      · rename_i h1 h2
        have h2 : k ≠ a := by simpa using h2
        exact (Store.wfFrom_cons ..).2 ⟨h'.1, h'.2.1, ih h'.2.2 (fun l hl => by injection hl; omega)⟩

/-- A write keeps the canonical form. -/
theorem Store.wf_write {w : Nat} {t : Store w} (h : t.wf = true) (k : Nat) (v : BitVec w) : (t.write k v).wf = true :=
  Store.wfFrom_write h k (fun _ hl => by cases hl) v

/-- A write of a run keeps the canonical form. -/
theorem Store.wf_writeRun {w : Nat} (vs : List (BitVec w)) {t : Store w} (h : t.wf = true) (k : Nat) :
    (t.writeRun k vs).wf = true := by
  induction vs generalizing t k with
  | nil => exact h
  | cons v vs ih => exact ih (Store.wf_write h k v) (k + 1)

/-- What is left of a table in canonical form is in canonical form. -/
theorem Store.wfFrom_filter {w : Nat} (p : Nat × BitVec w → Bool) {b : Option Nat} {t : Store w}
    (h : Store.wfFrom b t = true) : Store.wfFrom b (t.filter p) = true := by
  induction t generalizing b with
  | nil => exact h
  | cons e t ih =>
    obtain ⟨a, x⟩ := e
    have h' := (Store.wfFrom_cons ..).1 h
    rw [List.filter_cons]
    split
    · exact (Store.wfFrom_cons ..).2 ⟨h'.1, h'.2.1, ih h'.2.2⟩
    · apply ih
      cases b with
      | none => exact Store.wf_of_wfFrom h'.2.2
      | some l => exact Store.wfFrom_mono h'.2.2 (by have := h'.1 l rfl; omega)

/-- Clearing a range keeps the canonical form. -/
theorem Store.wf_clearRange {w : Nat} {t : Store w} (h : t.wf = true) (lo hi : Nat) : (t.clearRange lo hi).wf = true :=
  Store.wfFrom_filter _ h

/-- A number that was written reads as what was written. -/
theorem Store.read_write_same {w : Nat} {b : Option Nat} {t : Store w} (h : Store.wfFrom b t = true) (k : Nat)
    (v : BitVec w) : (t.write k v).read k = v := by
  induction t generalizing b with
  | nil =>
    simp only [Store.write]
    split
    · rename_i hv
      exact (eq_of_beq hv).symm
    · simp [Store.read]
  | cons e t ih =>
    obtain ⟨a, x⟩ := e
    have h' := (Store.wfFrom_cons ..).1 h
    simp only [Store.write]
    split
    · rename_i hka
      split
      · rename_i hv
        have hne : (a == k) = false := by simp; omega
        rw [eq_of_beq hv]
        simp only [Store.read, hne]
        exact Store.read_of_le h'.2.2 (by omega)
      · simp [Store.read]
    · split
      · rename_i hka
        have hka : k = a := by simpa using hka
        subst hka
        split
        · rename_i hv
          rw [eq_of_beq hv]
          exact Store.read_of_le h'.2.2 (Nat.le_refl _)
        · simp [Store.read]
      · rename_i h1 h2
        have hne : (a == k) = false := by simp at h2 ⊢; omega
        simp only [Store.read, hne]
        exact ih h'.2.2

/-- Every other number reads as before a write. -/
theorem Store.read_write_other {w : Nat} {t : Store w} {k j : Nat} (hj : j ≠ k) (v : BitVec w) :
    (t.write k v).read j = t.read j := by
  have hkj : (k == j) = false := by simp; omega
  induction t with
  | nil =>
    simp only [Store.write]
    split <;> simp [Store.read, hkj]
  | cons e t ih =>
    obtain ⟨a, x⟩ := e
    simp only [Store.write]
    split
    · split
      · rfl
      · simp [Store.read, hkj]
    · split
      · rename_i hka
        have hka : k = a := by simpa using hka
        subst hka
        split <;> simp [Store.read, hkj]
      · simp only [Store.read, ih]

/-- A cleared number reads zero, every other number as before. -/
theorem Store.read_clearRange {w : Nat} (t : Store w) (lo hi k : Nat) :
    (t.clearRange lo hi).read k = if lo ≤ k ∧ k < hi then 0 else t.read k := by
  induction t with
  | nil => simp [Store.clearRange, Store.read]
  | cons e t ih =>
    obtain ⟨a, x⟩ := e
    simp only [Store.clearRange, List.filter_cons] at ih ⊢
    by_cases hak : a = k
    · subst hak
      by_cases hr : lo ≤ a ∧ a < hi
      · have hd : (decide (a < lo) || decide (hi ≤ a)) = false := by simp; omega
        simp only [hd]
        simpa [hr] using ih
      · have hd : (decide (a < lo) || decide (hi ≤ a)) = true := by simp; omega
        simp [hd, hr, Store.read]
    · have hne : (a == k) = false := by simpa using hak
      by_cases hd : (decide (a < lo) || decide (hi ≤ a)) = true
      · simp only [hd, if_true, Store.read, hne]
        exact ih
      · simp only [hd, Store.read, hne]
        exact ih

/-! Tables of records. -/

@[simp] theorem Tab.find_put_same {α : Type} (t : Tab α) (k : Nat) (v : α) : (t.put k v).find k = some v := by
  induction t with
  | nil => simp [Tab.put, Tab.find]
  | cons e t ih =>
    obtain ⟨a, x⟩ := e
    simp only [Tab.put]
    split
    · simp [Tab.find]
    · split
      · simp [Tab.find]
      · rename_i h1 h2
        have hne : (a == k) = false := by simp at h2 ⊢; omega
        simp [Tab.find, hne, ih]

theorem Tab.find_put_other {α : Type} (t : Tab α) {k j : Nat} (h : j ≠ k) (v : α) : (t.put k v).find j = t.find j := by
  have hkj : (k == j) = false := by simp; omega
  induction t with
  | nil => simp [Tab.put, Tab.find, hkj]
  | cons e t ih =>
    obtain ⟨a, x⟩ := e
    simp only [Tab.put]
    split
    · simp [Tab.find, hkj]
    · split
      · rename_i hka
        have hka : k = a := by simpa using hka
        subst hka
        simp [Tab.find, hkj]
      · simp [Tab.find, ih]

@[simp] theorem Tab.get_put_same {α : Type} (t : Tab α) (d : α) (k : Nat) (v : α) : (t.put k v).get d k = v := by
  simp [Tab.get]

theorem Tab.get_put_other {α : Type} (t : Tab α) (d : α) {k j : Nat} (h : j ≠ k) (v : α) :
    (t.put k v).get d j = t.get d j := by
  simp [Tab.get, Tab.find_put_other t h]

/-- The later of two records put at one number is what stays. -/
@[simp] theorem Tab.put_put {α : Type} (t : Tab α) (k : Nat) (v w : α) : (t.put k v).put k w = t.put k w := by
  induction t with
  | nil => simp [Tab.put]
  | cons e t ih =>
    obtain ⟨a, x⟩ := e
    simp only [Tab.put]
    split
    · simp [Tab.put]
    · split
      · simp [Tab.put]
      · rename_i h1 h2
        simp only [Tab.put, h1, h2, if_false, ih]
        simp

end Sys2Proof
end

