-- ==== Sys2Proof/Laws/State.lean ====
section
/-! SUPPORT. The small laws of State: what each update leaves, field by field and record by record, true by `rfl`; what an
update of a numbered record does to the records. -/

namespace Sys2Proof.Machine

variable (s : State) (n m : Nat)

/-! What `setCore` leaves. -/

@[simp] theorem State.setCore_now (k : Core) : (s.setCore n k).now = s.now := rfl
@[simp] theorem State.setCore_cur (k : Core) : (s.setCore n k).cur = s.cur := rfl
@[simp] theorem State.setCore_turn (k : Core) : (s.setCore n k).turn = s.turn := rfl
@[simp] theorem State.setCore_ctr (k : Core) : (s.setCore n k).ctr = s.ctr := rfl
@[simp] theorem State.setCore_lgen (k : Core) : (s.setCore n k).lgen = s.lgen := rfl
@[simp] theorem State.setCore_agenda (k : Core) : (s.setCore n k).agenda = s.agenda := rfl
@[simp] theorem State.setCore_mem (k : Core) : (s.setCore n k).mem = s.mem := rfl
@[simp] theorem State.setCore_dead (k : Core) : (s.setCore n k).dead = s.dead := rfl
@[simp] theorem State.setCore_weak (k : Core) : (s.setCore n k).weak = s.weak := rfl
@[simp] theorem State.setCore_clusters (k : Core) : (s.setCore n k).clusters = s.clusters := rfl
@[simp] theorem State.setCore_dies (k : Core) : (s.setCore n k).dies = s.dies := rfl
@[simp] theorem State.setCore_mdies (k : Core) : (s.setCore n k).mdies = s.mdies := rfl
@[simp] theorem State.setCore_pkgs (k : Core) : (s.setCore n k).pkgs = s.pkgs := rfl
@[simp] theorem State.setCore_queues (k : Core) : (s.setCore n k).queues = s.queues := rfl
@[simp] theorem State.setCore_launches (k : Core) : (s.setCore n k).launches = s.launches := rfl
@[simp] theorem State.setCore_engqs (k : Core) : (s.setCore n k).engqs = s.engqs := rfl
@[simp] theorem State.setCore_berms (k : Core) : (s.setCore n k).berms = s.berms := rfl
@[simp] theorem State.setCore_colls (k : Core) : (s.setCore n k).colls = s.colls := rfl
@[simp] theorem State.setCore_packets (k : Core) : (s.setCore n k).packets = s.packets := rfl
@[simp] theorem State.setCore_cluster (k : Core) : (s.setCore n k).cluster m = s.cluster m := rfl
@[simp] theorem State.setCore_die (k : Core) : (s.setCore n k).die m = s.die m := rfl
@[simp] theorem State.setCore_mdie (k : Core) : (s.setCore n k).mdie m = s.mdie m := rfl
@[simp] theorem State.setCore_pkg (k : Core) : (s.setCore n k).pkg m = s.pkg m := rfl
@[simp] theorem State.setCore_queue (k : Core) : (s.setCore n k).queue m = s.queue m := rfl
@[simp] theorem State.setCore_launch (k : Core) : (s.setCore n k).launch m = s.launch m := rfl
@[simp] theorem State.setCore_engq (k : Core) : (s.setCore n k).engq m = s.engq m := rfl
@[simp] theorem State.setCore_same (k : Core) : (s.setCore n k).core n = k := Tab.get_put_same ..
theorem State.setCore_other (k : Core) (h : m ≠ n) : (s.setCore n k).core m = s.core m := Tab.get_put_other _ _ h _
@[simp] theorem State.setCore_twice (k j : Core) : (s.setCore n k).setCore n j = s.setCore n j := by
  simp [State.setCore]

/-! What `setCluster` leaves. -/

@[simp] theorem State.setCluster_now (k : Cluster) : (s.setCluster n k).now = s.now := rfl
@[simp] theorem State.setCluster_cur (k : Cluster) : (s.setCluster n k).cur = s.cur := rfl
@[simp] theorem State.setCluster_turn (k : Cluster) : (s.setCluster n k).turn = s.turn := rfl
@[simp] theorem State.setCluster_ctr (k : Cluster) : (s.setCluster n k).ctr = s.ctr := rfl
@[simp] theorem State.setCluster_lgen (k : Cluster) : (s.setCluster n k).lgen = s.lgen := rfl
@[simp] theorem State.setCluster_agenda (k : Cluster) : (s.setCluster n k).agenda = s.agenda := rfl
@[simp] theorem State.setCluster_mem (k : Cluster) : (s.setCluster n k).mem = s.mem := rfl
@[simp] theorem State.setCluster_dead (k : Cluster) : (s.setCluster n k).dead = s.dead := rfl
@[simp] theorem State.setCluster_weak (k : Cluster) : (s.setCluster n k).weak = s.weak := rfl
@[simp] theorem State.setCluster_cores (k : Cluster) : (s.setCluster n k).cores = s.cores := rfl
@[simp] theorem State.setCluster_dies (k : Cluster) : (s.setCluster n k).dies = s.dies := rfl
@[simp] theorem State.setCluster_mdies (k : Cluster) : (s.setCluster n k).mdies = s.mdies := rfl
@[simp] theorem State.setCluster_pkgs (k : Cluster) : (s.setCluster n k).pkgs = s.pkgs := rfl
@[simp] theorem State.setCluster_queues (k : Cluster) : (s.setCluster n k).queues = s.queues := rfl
@[simp] theorem State.setCluster_launches (k : Cluster) : (s.setCluster n k).launches = s.launches := rfl
@[simp] theorem State.setCluster_engqs (k : Cluster) : (s.setCluster n k).engqs = s.engqs := rfl
@[simp] theorem State.setCluster_berms (k : Cluster) : (s.setCluster n k).berms = s.berms := rfl
@[simp] theorem State.setCluster_colls (k : Cluster) : (s.setCluster n k).colls = s.colls := rfl
@[simp] theorem State.setCluster_packets (k : Cluster) : (s.setCluster n k).packets = s.packets := rfl
@[simp] theorem State.setCluster_core (k : Cluster) : (s.setCluster n k).core m = s.core m := rfl
@[simp] theorem State.setCluster_die (k : Cluster) : (s.setCluster n k).die m = s.die m := rfl
@[simp] theorem State.setCluster_mdie (k : Cluster) : (s.setCluster n k).mdie m = s.mdie m := rfl
@[simp] theorem State.setCluster_pkg (k : Cluster) : (s.setCluster n k).pkg m = s.pkg m := rfl
@[simp] theorem State.setCluster_queue (k : Cluster) : (s.setCluster n k).queue m = s.queue m := rfl
@[simp] theorem State.setCluster_launch (k : Cluster) : (s.setCluster n k).launch m = s.launch m := rfl
@[simp] theorem State.setCluster_engq (k : Cluster) : (s.setCluster n k).engq m = s.engq m := rfl
@[simp] theorem State.setCluster_same (k : Cluster) : (s.setCluster n k).cluster n = k := Tab.get_put_same ..
theorem State.setCluster_other (k : Cluster) (h : m ≠ n) : (s.setCluster n k).cluster m = s.cluster m := Tab.get_put_other _ _ h _
@[simp] theorem State.setCluster_twice (k j : Cluster) : (s.setCluster n k).setCluster n j = s.setCluster n j := by
  simp [State.setCluster]

/-! What `setDie` leaves. -/

@[simp] theorem State.setDie_now (k : Die) : (s.setDie n k).now = s.now := rfl
@[simp] theorem State.setDie_cur (k : Die) : (s.setDie n k).cur = s.cur := rfl
@[simp] theorem State.setDie_turn (k : Die) : (s.setDie n k).turn = s.turn := rfl
@[simp] theorem State.setDie_ctr (k : Die) : (s.setDie n k).ctr = s.ctr := rfl
@[simp] theorem State.setDie_lgen (k : Die) : (s.setDie n k).lgen = s.lgen := rfl
@[simp] theorem State.setDie_agenda (k : Die) : (s.setDie n k).agenda = s.agenda := rfl
@[simp] theorem State.setDie_mem (k : Die) : (s.setDie n k).mem = s.mem := rfl
@[simp] theorem State.setDie_dead (k : Die) : (s.setDie n k).dead = s.dead := rfl
@[simp] theorem State.setDie_weak (k : Die) : (s.setDie n k).weak = s.weak := rfl
@[simp] theorem State.setDie_cores (k : Die) : (s.setDie n k).cores = s.cores := rfl
@[simp] theorem State.setDie_clusters (k : Die) : (s.setDie n k).clusters = s.clusters := rfl
@[simp] theorem State.setDie_mdies (k : Die) : (s.setDie n k).mdies = s.mdies := rfl
@[simp] theorem State.setDie_pkgs (k : Die) : (s.setDie n k).pkgs = s.pkgs := rfl
@[simp] theorem State.setDie_queues (k : Die) : (s.setDie n k).queues = s.queues := rfl
@[simp] theorem State.setDie_launches (k : Die) : (s.setDie n k).launches = s.launches := rfl
@[simp] theorem State.setDie_engqs (k : Die) : (s.setDie n k).engqs = s.engqs := rfl
@[simp] theorem State.setDie_berms (k : Die) : (s.setDie n k).berms = s.berms := rfl
@[simp] theorem State.setDie_colls (k : Die) : (s.setDie n k).colls = s.colls := rfl
@[simp] theorem State.setDie_packets (k : Die) : (s.setDie n k).packets = s.packets := rfl
@[simp] theorem State.setDie_core (k : Die) : (s.setDie n k).core m = s.core m := rfl
@[simp] theorem State.setDie_cluster (k : Die) : (s.setDie n k).cluster m = s.cluster m := rfl
@[simp] theorem State.setDie_mdie (k : Die) : (s.setDie n k).mdie m = s.mdie m := rfl
@[simp] theorem State.setDie_pkg (k : Die) : (s.setDie n k).pkg m = s.pkg m := rfl
@[simp] theorem State.setDie_queue (k : Die) : (s.setDie n k).queue m = s.queue m := rfl
@[simp] theorem State.setDie_launch (k : Die) : (s.setDie n k).launch m = s.launch m := rfl
@[simp] theorem State.setDie_engq (k : Die) : (s.setDie n k).engq m = s.engq m := rfl
@[simp] theorem State.setDie_same (k : Die) : (s.setDie n k).die n = k := Tab.get_put_same ..
theorem State.setDie_other (k : Die) (h : m ≠ n) : (s.setDie n k).die m = s.die m := Tab.get_put_other _ _ h _
@[simp] theorem State.setDie_twice (k j : Die) : (s.setDie n k).setDie n j = s.setDie n j := by
  simp [State.setDie]

/-! What `setMdie` leaves. -/

@[simp] theorem State.setMdie_now (k : MemDie) : (s.setMdie n k).now = s.now := rfl
@[simp] theorem State.setMdie_cur (k : MemDie) : (s.setMdie n k).cur = s.cur := rfl
@[simp] theorem State.setMdie_turn (k : MemDie) : (s.setMdie n k).turn = s.turn := rfl
@[simp] theorem State.setMdie_ctr (k : MemDie) : (s.setMdie n k).ctr = s.ctr := rfl
@[simp] theorem State.setMdie_lgen (k : MemDie) : (s.setMdie n k).lgen = s.lgen := rfl
@[simp] theorem State.setMdie_agenda (k : MemDie) : (s.setMdie n k).agenda = s.agenda := rfl
@[simp] theorem State.setMdie_mem (k : MemDie) : (s.setMdie n k).mem = s.mem := rfl
@[simp] theorem State.setMdie_dead (k : MemDie) : (s.setMdie n k).dead = s.dead := rfl
@[simp] theorem State.setMdie_weak (k : MemDie) : (s.setMdie n k).weak = s.weak := rfl
@[simp] theorem State.setMdie_cores (k : MemDie) : (s.setMdie n k).cores = s.cores := rfl
@[simp] theorem State.setMdie_clusters (k : MemDie) : (s.setMdie n k).clusters = s.clusters := rfl
@[simp] theorem State.setMdie_dies (k : MemDie) : (s.setMdie n k).dies = s.dies := rfl
@[simp] theorem State.setMdie_pkgs (k : MemDie) : (s.setMdie n k).pkgs = s.pkgs := rfl
@[simp] theorem State.setMdie_queues (k : MemDie) : (s.setMdie n k).queues = s.queues := rfl
@[simp] theorem State.setMdie_launches (k : MemDie) : (s.setMdie n k).launches = s.launches := rfl
@[simp] theorem State.setMdie_engqs (k : MemDie) : (s.setMdie n k).engqs = s.engqs := rfl
@[simp] theorem State.setMdie_berms (k : MemDie) : (s.setMdie n k).berms = s.berms := rfl
@[simp] theorem State.setMdie_colls (k : MemDie) : (s.setMdie n k).colls = s.colls := rfl
@[simp] theorem State.setMdie_packets (k : MemDie) : (s.setMdie n k).packets = s.packets := rfl
@[simp] theorem State.setMdie_core (k : MemDie) : (s.setMdie n k).core m = s.core m := rfl
@[simp] theorem State.setMdie_cluster (k : MemDie) : (s.setMdie n k).cluster m = s.cluster m := rfl
@[simp] theorem State.setMdie_die (k : MemDie) : (s.setMdie n k).die m = s.die m := rfl
@[simp] theorem State.setMdie_pkg (k : MemDie) : (s.setMdie n k).pkg m = s.pkg m := rfl
@[simp] theorem State.setMdie_queue (k : MemDie) : (s.setMdie n k).queue m = s.queue m := rfl
@[simp] theorem State.setMdie_launch (k : MemDie) : (s.setMdie n k).launch m = s.launch m := rfl
@[simp] theorem State.setMdie_engq (k : MemDie) : (s.setMdie n k).engq m = s.engq m := rfl
@[simp] theorem State.setMdie_same (k : MemDie) : (s.setMdie n k).mdie n = k := Tab.get_put_same ..
theorem State.setMdie_other (k : MemDie) (h : m ≠ n) : (s.setMdie n k).mdie m = s.mdie m := Tab.get_put_other _ _ h _
@[simp] theorem State.setMdie_twice (k j : MemDie) : (s.setMdie n k).setMdie n j = s.setMdie n j := by
  simp [State.setMdie]

/-! What `setPkg` leaves. -/

@[simp] theorem State.setPkg_now (k : Pkg) : (s.setPkg n k).now = s.now := rfl
@[simp] theorem State.setPkg_cur (k : Pkg) : (s.setPkg n k).cur = s.cur := rfl
@[simp] theorem State.setPkg_turn (k : Pkg) : (s.setPkg n k).turn = s.turn := rfl
@[simp] theorem State.setPkg_ctr (k : Pkg) : (s.setPkg n k).ctr = s.ctr := rfl
@[simp] theorem State.setPkg_lgen (k : Pkg) : (s.setPkg n k).lgen = s.lgen := rfl
@[simp] theorem State.setPkg_agenda (k : Pkg) : (s.setPkg n k).agenda = s.agenda := rfl
@[simp] theorem State.setPkg_mem (k : Pkg) : (s.setPkg n k).mem = s.mem := rfl
@[simp] theorem State.setPkg_dead (k : Pkg) : (s.setPkg n k).dead = s.dead := rfl
@[simp] theorem State.setPkg_weak (k : Pkg) : (s.setPkg n k).weak = s.weak := rfl
@[simp] theorem State.setPkg_cores (k : Pkg) : (s.setPkg n k).cores = s.cores := rfl
@[simp] theorem State.setPkg_clusters (k : Pkg) : (s.setPkg n k).clusters = s.clusters := rfl
@[simp] theorem State.setPkg_dies (k : Pkg) : (s.setPkg n k).dies = s.dies := rfl
@[simp] theorem State.setPkg_mdies (k : Pkg) : (s.setPkg n k).mdies = s.mdies := rfl
@[simp] theorem State.setPkg_queues (k : Pkg) : (s.setPkg n k).queues = s.queues := rfl
@[simp] theorem State.setPkg_launches (k : Pkg) : (s.setPkg n k).launches = s.launches := rfl
@[simp] theorem State.setPkg_engqs (k : Pkg) : (s.setPkg n k).engqs = s.engqs := rfl
@[simp] theorem State.setPkg_berms (k : Pkg) : (s.setPkg n k).berms = s.berms := rfl
@[simp] theorem State.setPkg_colls (k : Pkg) : (s.setPkg n k).colls = s.colls := rfl
@[simp] theorem State.setPkg_packets (k : Pkg) : (s.setPkg n k).packets = s.packets := rfl
@[simp] theorem State.setPkg_core (k : Pkg) : (s.setPkg n k).core m = s.core m := rfl
@[simp] theorem State.setPkg_cluster (k : Pkg) : (s.setPkg n k).cluster m = s.cluster m := rfl
@[simp] theorem State.setPkg_die (k : Pkg) : (s.setPkg n k).die m = s.die m := rfl
@[simp] theorem State.setPkg_mdie (k : Pkg) : (s.setPkg n k).mdie m = s.mdie m := rfl
@[simp] theorem State.setPkg_queue (k : Pkg) : (s.setPkg n k).queue m = s.queue m := rfl
@[simp] theorem State.setPkg_launch (k : Pkg) : (s.setPkg n k).launch m = s.launch m := rfl
@[simp] theorem State.setPkg_engq (k : Pkg) : (s.setPkg n k).engq m = s.engq m := rfl
@[simp] theorem State.setPkg_same (k : Pkg) : (s.setPkg n k).pkg n = k := Tab.get_put_same ..
theorem State.setPkg_other (k : Pkg) (h : m ≠ n) : (s.setPkg n k).pkg m = s.pkg m := Tab.get_put_other _ _ h _
@[simp] theorem State.setPkg_twice (k j : Pkg) : (s.setPkg n k).setPkg n j = s.setPkg n j := by
  simp [State.setPkg]

/-! What `setQueue` leaves. -/

@[simp] theorem State.setQueue_now (k : Queue) : (s.setQueue n k).now = s.now := rfl
@[simp] theorem State.setQueue_cur (k : Queue) : (s.setQueue n k).cur = s.cur := rfl
@[simp] theorem State.setQueue_turn (k : Queue) : (s.setQueue n k).turn = s.turn := rfl
@[simp] theorem State.setQueue_ctr (k : Queue) : (s.setQueue n k).ctr = s.ctr := rfl
@[simp] theorem State.setQueue_lgen (k : Queue) : (s.setQueue n k).lgen = s.lgen := rfl
@[simp] theorem State.setQueue_agenda (k : Queue) : (s.setQueue n k).agenda = s.agenda := rfl
@[simp] theorem State.setQueue_mem (k : Queue) : (s.setQueue n k).mem = s.mem := rfl
@[simp] theorem State.setQueue_dead (k : Queue) : (s.setQueue n k).dead = s.dead := rfl
@[simp] theorem State.setQueue_weak (k : Queue) : (s.setQueue n k).weak = s.weak := rfl
@[simp] theorem State.setQueue_cores (k : Queue) : (s.setQueue n k).cores = s.cores := rfl
@[simp] theorem State.setQueue_clusters (k : Queue) : (s.setQueue n k).clusters = s.clusters := rfl
@[simp] theorem State.setQueue_dies (k : Queue) : (s.setQueue n k).dies = s.dies := rfl
@[simp] theorem State.setQueue_mdies (k : Queue) : (s.setQueue n k).mdies = s.mdies := rfl
@[simp] theorem State.setQueue_pkgs (k : Queue) : (s.setQueue n k).pkgs = s.pkgs := rfl
@[simp] theorem State.setQueue_launches (k : Queue) : (s.setQueue n k).launches = s.launches := rfl
@[simp] theorem State.setQueue_engqs (k : Queue) : (s.setQueue n k).engqs = s.engqs := rfl
@[simp] theorem State.setQueue_berms (k : Queue) : (s.setQueue n k).berms = s.berms := rfl
@[simp] theorem State.setQueue_colls (k : Queue) : (s.setQueue n k).colls = s.colls := rfl
@[simp] theorem State.setQueue_packets (k : Queue) : (s.setQueue n k).packets = s.packets := rfl
@[simp] theorem State.setQueue_core (k : Queue) : (s.setQueue n k).core m = s.core m := rfl
@[simp] theorem State.setQueue_cluster (k : Queue) : (s.setQueue n k).cluster m = s.cluster m := rfl
@[simp] theorem State.setQueue_die (k : Queue) : (s.setQueue n k).die m = s.die m := rfl
@[simp] theorem State.setQueue_mdie (k : Queue) : (s.setQueue n k).mdie m = s.mdie m := rfl
@[simp] theorem State.setQueue_pkg (k : Queue) : (s.setQueue n k).pkg m = s.pkg m := rfl
@[simp] theorem State.setQueue_launch (k : Queue) : (s.setQueue n k).launch m = s.launch m := rfl
@[simp] theorem State.setQueue_engq (k : Queue) : (s.setQueue n k).engq m = s.engq m := rfl
@[simp] theorem State.setQueue_same (k : Queue) : (s.setQueue n k).queue n = k := Tab.get_put_same ..
theorem State.setQueue_other (k : Queue) (h : m ≠ n) : (s.setQueue n k).queue m = s.queue m := Tab.get_put_other _ _ h _
@[simp] theorem State.setQueue_twice (k j : Queue) : (s.setQueue n k).setQueue n j = s.setQueue n j := by
  simp [State.setQueue]

/-! What `setLaunch` leaves. -/

@[simp] theorem State.setLaunch_now (k : Launch) : (s.setLaunch n k).now = s.now := rfl
@[simp] theorem State.setLaunch_cur (k : Launch) : (s.setLaunch n k).cur = s.cur := rfl
@[simp] theorem State.setLaunch_turn (k : Launch) : (s.setLaunch n k).turn = s.turn := rfl
@[simp] theorem State.setLaunch_ctr (k : Launch) : (s.setLaunch n k).ctr = s.ctr := rfl
@[simp] theorem State.setLaunch_lgen (k : Launch) : (s.setLaunch n k).lgen = s.lgen := rfl
@[simp] theorem State.setLaunch_agenda (k : Launch) : (s.setLaunch n k).agenda = s.agenda := rfl
@[simp] theorem State.setLaunch_mem (k : Launch) : (s.setLaunch n k).mem = s.mem := rfl
@[simp] theorem State.setLaunch_dead (k : Launch) : (s.setLaunch n k).dead = s.dead := rfl
@[simp] theorem State.setLaunch_weak (k : Launch) : (s.setLaunch n k).weak = s.weak := rfl
@[simp] theorem State.setLaunch_cores (k : Launch) : (s.setLaunch n k).cores = s.cores := rfl
@[simp] theorem State.setLaunch_clusters (k : Launch) : (s.setLaunch n k).clusters = s.clusters := rfl
@[simp] theorem State.setLaunch_dies (k : Launch) : (s.setLaunch n k).dies = s.dies := rfl
@[simp] theorem State.setLaunch_mdies (k : Launch) : (s.setLaunch n k).mdies = s.mdies := rfl
@[simp] theorem State.setLaunch_pkgs (k : Launch) : (s.setLaunch n k).pkgs = s.pkgs := rfl
@[simp] theorem State.setLaunch_queues (k : Launch) : (s.setLaunch n k).queues = s.queues := rfl
@[simp] theorem State.setLaunch_engqs (k : Launch) : (s.setLaunch n k).engqs = s.engqs := rfl
@[simp] theorem State.setLaunch_berms (k : Launch) : (s.setLaunch n k).berms = s.berms := rfl
@[simp] theorem State.setLaunch_colls (k : Launch) : (s.setLaunch n k).colls = s.colls := rfl
@[simp] theorem State.setLaunch_packets (k : Launch) : (s.setLaunch n k).packets = s.packets := rfl
@[simp] theorem State.setLaunch_core (k : Launch) : (s.setLaunch n k).core m = s.core m := rfl
@[simp] theorem State.setLaunch_cluster (k : Launch) : (s.setLaunch n k).cluster m = s.cluster m := rfl
@[simp] theorem State.setLaunch_die (k : Launch) : (s.setLaunch n k).die m = s.die m := rfl
@[simp] theorem State.setLaunch_mdie (k : Launch) : (s.setLaunch n k).mdie m = s.mdie m := rfl
@[simp] theorem State.setLaunch_pkg (k : Launch) : (s.setLaunch n k).pkg m = s.pkg m := rfl
@[simp] theorem State.setLaunch_queue (k : Launch) : (s.setLaunch n k).queue m = s.queue m := rfl
@[simp] theorem State.setLaunch_engq (k : Launch) : (s.setLaunch n k).engq m = s.engq m := rfl
@[simp] theorem State.setLaunch_same (k : Launch) : (s.setLaunch n k).launch n = k := Tab.get_put_same ..
theorem State.setLaunch_other (k : Launch) (h : m ≠ n) : (s.setLaunch n k).launch m = s.launch m := Tab.get_put_other _ _ h _
@[simp] theorem State.setLaunch_twice (k j : Launch) : (s.setLaunch n k).setLaunch n j = s.setLaunch n j := by
  simp [State.setLaunch]

/-! What `setEngq` leaves. -/

@[simp] theorem State.setEngq_now (k : EngQueue) : (s.setEngq n k).now = s.now := rfl
@[simp] theorem State.setEngq_cur (k : EngQueue) : (s.setEngq n k).cur = s.cur := rfl
@[simp] theorem State.setEngq_turn (k : EngQueue) : (s.setEngq n k).turn = s.turn := rfl
@[simp] theorem State.setEngq_ctr (k : EngQueue) : (s.setEngq n k).ctr = s.ctr := rfl
@[simp] theorem State.setEngq_lgen (k : EngQueue) : (s.setEngq n k).lgen = s.lgen := rfl
@[simp] theorem State.setEngq_agenda (k : EngQueue) : (s.setEngq n k).agenda = s.agenda := rfl
@[simp] theorem State.setEngq_mem (k : EngQueue) : (s.setEngq n k).mem = s.mem := rfl
@[simp] theorem State.setEngq_dead (k : EngQueue) : (s.setEngq n k).dead = s.dead := rfl
@[simp] theorem State.setEngq_weak (k : EngQueue) : (s.setEngq n k).weak = s.weak := rfl
@[simp] theorem State.setEngq_cores (k : EngQueue) : (s.setEngq n k).cores = s.cores := rfl
@[simp] theorem State.setEngq_clusters (k : EngQueue) : (s.setEngq n k).clusters = s.clusters := rfl
@[simp] theorem State.setEngq_dies (k : EngQueue) : (s.setEngq n k).dies = s.dies := rfl
@[simp] theorem State.setEngq_mdies (k : EngQueue) : (s.setEngq n k).mdies = s.mdies := rfl
@[simp] theorem State.setEngq_pkgs (k : EngQueue) : (s.setEngq n k).pkgs = s.pkgs := rfl
@[simp] theorem State.setEngq_queues (k : EngQueue) : (s.setEngq n k).queues = s.queues := rfl
@[simp] theorem State.setEngq_launches (k : EngQueue) : (s.setEngq n k).launches = s.launches := rfl
@[simp] theorem State.setEngq_berms (k : EngQueue) : (s.setEngq n k).berms = s.berms := rfl
@[simp] theorem State.setEngq_colls (k : EngQueue) : (s.setEngq n k).colls = s.colls := rfl
@[simp] theorem State.setEngq_packets (k : EngQueue) : (s.setEngq n k).packets = s.packets := rfl
@[simp] theorem State.setEngq_core (k : EngQueue) : (s.setEngq n k).core m = s.core m := rfl
@[simp] theorem State.setEngq_cluster (k : EngQueue) : (s.setEngq n k).cluster m = s.cluster m := rfl
@[simp] theorem State.setEngq_die (k : EngQueue) : (s.setEngq n k).die m = s.die m := rfl
@[simp] theorem State.setEngq_mdie (k : EngQueue) : (s.setEngq n k).mdie m = s.mdie m := rfl
@[simp] theorem State.setEngq_pkg (k : EngQueue) : (s.setEngq n k).pkg m = s.pkg m := rfl
@[simp] theorem State.setEngq_queue (k : EngQueue) : (s.setEngq n k).queue m = s.queue m := rfl
@[simp] theorem State.setEngq_launch (k : EngQueue) : (s.setEngq n k).launch m = s.launch m := rfl
@[simp] theorem State.setEngq_same (k : EngQueue) : (s.setEngq n k).engq n = k := Tab.get_put_same ..
theorem State.setEngq_other (k : EngQueue) (h : m ≠ n) : (s.setEngq n k).engq m = s.engq m := Tab.get_put_other _ _ h _
@[simp] theorem State.setEngq_twice (k j : EngQueue) : (s.setEngq n k).setEngq n j = s.setEngq n j := by
  simp [State.setEngq]

/-! Sums of these. -/

@[simp] theorem State.setByte_core (a : Nat) (b : Byte) : (s.setByte a b).core n = s.core n := rfl
@[simp] theorem State.setByte_cluster (a : Nat) (b : Byte) : (s.setByte a b).cluster n = s.cluster n := rfl
@[simp] theorem State.notify_mem (x : Note) : (s.notify n x).mem = s.mem := rfl
@[simp] theorem State.notify_core (x : Note) : (s.notify n x).core m = s.core m := rfl
@[simp] theorem State.setSem_core (k v : Nat) : (s.setSem n k v).core m = s.core m := rfl
@[simp] theorem State.setSem_mem (k v : Nat) : (s.setSem n k v).mem = s.mem := rfl
@[simp] theorem State.setAdm_core (k v : Nat) : (s.setAdm n k v).core m = s.core m := rfl
@[simp] theorem State.setAdm_mem (k v : Nat) : (s.setAdm n k v).mem = s.mem := rfl
@[simp] theorem State.addSem_core (k v : Nat) : (s.addSem n k v).core m = s.core m := rfl
@[simp] theorem State.addSem_mem (k v : Nat) : (s.addSem n k v).mem = s.mem := rfl

/-! Registers. -/

/-- `s0` reads zero. -/
@[simp] theorem Regs.rd_zero (r : Regs) : r.rd 0 = 0 := rfl
/-- A write of `s0` is discarded. -/
@[simp] theorem Regs.wrPhys_zero (r : Regs) (v : W64) : r.wrPhys 0 v = r := rfl

end Sys2Proof.Machine
end

