-- ==== Sys2Proof/Laws/Issue.lean ====
section
/-! SUPPORT. What the issue of a plain bundle does, said once: where `State.issues` holds and the operation's own checks
pass, the step of a slot instruction is its effect, retired, with what it releases drained. -/

namespace Sys2Proof.Machine

/-- The step of a slot instruction is its issue as a plain bundle in the first slot whose map holds it. -/
theorem exec_slot {i : Instr} {sl : Slot} (h : i.slots.head? = some sl) (s : State) :
    exec i s = .next (issueOne sl i s) := by
  cases i <;> first
    | (injection h with h; subst h; rfl)
    | cases h

/-- One issued word has no other word to lose its destination to. -/
theorem dropCount_one (b : BitVec 5) (w : IWord) : dropCount b [w] = 0 := by
  simp [dropCount]

theorem bconf_same (v : BitVec 32) : BitVec.ofNat 32 (min 0xFFFFFFFF (v.toNat + 0)) = v := by
  have := v.isLt
  rw [Nat.add_zero, Nat.min_eq_right (by omega), BitVec.ofNat_toNat, BitVec.setWidth_eq]

theorem corr_same (v : BitVec 16) : BitVec.ofNat 16 (min 0xFFFF v.toNat) = v := by
  have := v.isLt
  rw [Nat.min_eq_right (by omega), BitVec.ofNat_toNat, BitVec.setWidth_eq]

/-- With no bad word there is nothing to correct. -/
theorem correctRead_none (ws en : List IWord) (k : Core) (h : k.bad = []) : correctRead ws en k = k := by
  cases k
  simp only at h
  subst h
  simpa [correctRead] using fun _ => corr_same _

/-- Scale writes that land change the scale registers and what waits for them. -/
theorem landScales_eq (r : Regs) : ∃ t, landScales r = { r with k := t, kpend := r.kpend.filter fun p => p.left != 0 } := by
  unfold landScales
  generalize r.kpend.filter (fun p => p.left == 0) = l
  suffices ∀ q : Regs, ∃ t, l.foldl (fun r p => { r with k := r.k.write p.k p.val }) q = { q with k := t } from
    (this _).imp fun t h => h.trans rfl
  induction l with
  | nil => exact fun q => ⟨q.k, rfl⟩
  | cons p l ih => exact fun q => (ih { q with k := q.k.write p.k p.val }).imp fun t h => h.trans rfl

@[simp] theorem landScales_rrb (r : Regs) : (landScales r).rrb = r.rrb := by
  obtain ⟨t, h⟩ := landScales_eq r; rw [h]
@[simp] theorem landScales_held (r : Regs) : (landScales r).held = r.held := by
  obtain ⟨t, h⟩ := landScales_eq r; rw [h]
@[simp] theorem landScales_seed (r : Regs) : (landScales r).seed = r.seed := by
  obtain ⟨t, h⟩ := landScales_eq r; rw [h]

/-- Scale writes that land change nothing of a core but its scale registers and the check bits of those. -/
theorem landScales_core (k : Core) : ∃ bad, k.landScales = { k with regs := landScales k.regs, bad } := ⟨_, rfl⟩

@[simp] theorem landScales_regs (k : Core) : k.landScales.regs = landScales k.regs := rfl
@[simp] theorem landScales_pc (k : Core) : k.landScales.pc = k.pc := rfl
@[simp] theorem landScales_gated (k : Core) : k.landScales.gated = k.gated := rfl
@[simp] theorem landScales_run (k : Core) : k.landScales.run = k.run := rfl
@[simp] theorem landScales_ready (k : Core) : k.landScales.ready = k.ready := rfl
@[simp] theorem landScales_satTrap (k : Core) : k.landScales.satTrap = k.satTrap := rfl
@[simp] theorem landScales_granted (k : Core) : k.landScales.granted = k.granted := rfl
@[simp] theorem landScales_tileOn (k : Core) : k.landScales.tileOn = k.tileOn := rfl
@[simp] theorem landScales_isBusy (k : Core) : k.landScales.isBusy = k.isBusy := rfl

/-- The current core once its scale writes have landed. -/
theorem landed_self (s : State) : (s.landed s.cur).self = s.self.landScales := by
  simp [State.landed, State.self]

/-! Reads of scratchpad lines that hold an error change no core and no launch that a bundle is judged by. -/

@[simp] theorem meetReads_core (c d : Nat) (ls : List Nat) (s : State) : (meetReads c ls s).core d = s.core d := by
  unfold meetReads State.addZeroed; dsimp only; split <;> simp
@[simp] theorem meetReads_now (c : Nat) (ls : List Nat) (s : State) : (meetReads c ls s).now = s.now := by
  unfold meetReads State.addZeroed; dsimp only; split <;> simp
@[simp] theorem meetReads_cur (c : Nat) (ls : List Nat) (s : State) : (meetReads c ls s).cur = s.cur := by
  unfold meetReads State.addZeroed; dsimp only; split <;> simp
@[simp] theorem meetReads_nil (c : Nat) (s : State) : meetReads c [] s = s := by
  simp [meetReads, Cluster.badLines, nubNat]

theorem landed_cur (s : State) (c : Nat) : (s.landed c).cur = s.cur := rfl

/-- The context of the one word of a plain bundle. -/
theorem ctxs_one (s : State) (sl : Slot) (i : Instr) :
    ctxs s.cur s (s.self.pc + 2) [⟨sl, ⟨.plain, i⟩⟩] = [(⟨sl, ⟨.plain, i⟩⟩, s.ctx sl)] := by
  simp [ctxs, ctxOf, State.ctx, State.self]

/-- The header of the plain bundle of a slot. -/
theorem presCount_plain (sl : Slot) : presCount (BitVec.ofNat 7 (2 ^ sl.num)) = 1 := by cases sl <;> decide

theorem presCount_header (sl : Slot) : presCount (Header.plain (BitVec.ofNat 7 (2 ^ sl.num))).pres = 1 := presCount_plain sl

/-- The fetch of a plain operation that passes its checks. -/
theorem fetchPlain_ok {k : Core} {sl : Slot} {i : Instr} (hs : i.slots.contains sl = true)
    (hw : SlotWord.wf ⟨.plain, i⟩ = true) (hp : k.pc.toNat % 4096 + 1 ≤ 4095) (hh : k.regs.held = [])
    (ht : tileTrap k ⟨.plain, i⟩ = none) :
    fetchPlain sl i k = .ok (Header.plain (BitVec.ofNat 7 (2 ^ sl.num)), [⟨sl, ⟨.plain, i⟩⟩]) := by
  have hpw : plainWord sl i = .ok ⟨.plain, i⟩ := by
    simp only [SlotWord.wf, Bool.and_eq_true] at hw
    have hs' : sl ∈ i.slots := by simpa using hs
    simp [plainWord, hs', hw.1, hw.2]
  have hr : ¬ 4095 < k.pc.toNat % 4096 + presCount (BitVec.ofNat 7 (2 ^ sl.num)) := by
    rw [presCount_plain]; omega
  have hsw : ∀ p, slotWords k (BitVec.ofNat 7 (2 ^ sl.num))
      (fun _ _ => (encodeSlot ⟨.plain, i⟩, plainWord sl i)) Slot.all p = .ok [⟨sl, ⟨.plain, i⟩⟩] := by
    intro p
    rw [hpw]
    cases sl <;> simp [slotWords, Slot.all, slotWord, ht, hh, Tab.find, Slot.num]
  simp only [fetchPlain, fetchWords, Header.plain, hr, if_false, hsw]
  simp [conflict]

/-- Tiles that are on trap nothing. -/
theorem tileTrap_none {k : Core} {i : Instr}
    (h : (regReads k.regs.rrb i ++ regWrites k.regs.rrb i).all k.tileOn = true) : tileTrap k ⟨.plain, i⟩ = none := by
  have hall : ∀ r ∈ regReads k.regs.rrb i ++ regWrites k.regs.rrb i, k.tileOn r = true := List.all_eq_true.1 h
  have h1 : ((regReads k.regs.rrb i ++ regWrites k.regs.rrb i).filterMap Reg.tileOf).any
      (fun t => 128 ≤ t && !k.ecc) = false := by
    rw [List.any_eq_false]
    intro t ht
    obtain ⟨r, hr, hrt⟩ := List.mem_filterMap.1 ht
    have := hall r hr
    simp only [Core.tileOn, hrt] at this
    by_cases h128 : t < 128
    · simp; omega
    · simp only [h128, if_false] at this
      simp [this]
  have h2 : ((regReads k.regs.rrb i ++ regWrites k.regs.rrb i).filterMap Reg.tileOf).any
      (fun t => t < 128 && bankCode k.tbank (t / 16) == 2) = false := by
    rw [List.any_eq_false]
    intro t ht
    obtain ⟨r, hr, hrt⟩ := List.mem_filterMap.1 ht
    have := hall r hr
    simp only [Core.tileOn, hrt] at this
    by_cases h128 : t < 128
    · simp only [h128, if_true, Bool.and_eq_true, beq_iff_eq] at this
      simp [this.1]
    · simp [h128]
  simp only [tileTrap, h1, h2]
  rfl

/-- Tiles that are on and awake make no bundle wait. -/
theorem wakeBanks_none {s : State} {sl : Slot} {i : Instr} (c : Nat)
    (h : (regReads (s.core c).regs.rrb i ++ regWrites (s.core c).regs.rrb i).all (s.core c).tileOn = true) :
    wakeBanks c [⟨sl, ⟨.plain, i⟩⟩] s = none := by
  have hall : ∀ b ∈ namedBanks (s.core c) [⟨sl, ⟨.plain, i⟩⟩],
      bankCode (s.core c).tbank b = 0 ∧ (s.core c).waking.any (fun w => w.1 == b) = false := by
    intro b hb
    simp only [namedBanks, List.flatMap_cons, List.flatMap_nil, List.append_nil] at hb
    obtain ⟨r, hr, hrb⟩ := List.mem_filterMap.1 hb
    have ht := List.all_eq_true.1 h r hr
    cases hrt : r.tileOf with
    | none => simp [hrt] at hrb
    | some t =>
      simp only [hrt, tileBank] at hrb
      simp only [Core.tileOn, hrt] at ht
      by_cases h128 : t < 128
      · simp only [h128, if_true, Option.some.injEq] at hrb
        simp only [h128, if_true, Bool.and_eq_true, beq_iff_eq, Bool.not_eq_true'] at ht
        subst hrb
        exact ht
      · simp [h128] at hrb
  have h1 : (namedBanks (s.core c) [⟨sl, ⟨.plain, i⟩⟩]).filter
      (fun b => bankCode (s.core c).tbank b == 1 && !(s.core c).waking.any fun w => w.1 == b) = [] := by
    rw [List.filter_eq_nil_iff]
    intro b hb
    simp [(hall b hb).1]
  have h2 : (s.core c).waking.any (fun w => (namedBanks (s.core c) [⟨sl, ⟨.plain, i⟩⟩]).contains w.1) = false := by
    rw [List.any_eq_false]
    intro w hw hc
    have hb : w.1 ∈ namedBanks (s.core c) [⟨sl, ⟨.plain, i⟩⟩] := by simpa using hc
    have := (hall w.1 hb).2
    rw [List.any_eq_false] at this
    exact this w hw (by simp)
  simp only [wakeBanks, h1, h2, List.isEmpty_nil]
  rfl

/-! Operations that take no mark before their bundle, whatever their operands. -/

theorem fenceTime_none {i : Instr} (h : ∀ x, marksBefore x i = false) (p : Pkg) (x : Ctx) : fenceTime p i = none := by
  have h := h x
  unfold fenceTime
  split <;> first | rfl | (simp [marksBefore] at h)

theorem barrierOf_none {i : Instr} {x : Ctx} (h : marksBefore x i = false) (sl : Slot) :
    barrierOf [⟨sl, ⟨.plain, i⟩⟩] = none := by
  simp only [barrierOf, List.findSome?]
  cases i <;> simp_all [marksBefore]

/-- An operation that is neither a SEMWAIT nor an LDSMP waits for no semaphore and no walk. -/
theorem semWaits_none {i : Instr} (h : ∀ o, i ≠ .semwait o) (sl : Slot) (x : Ctx) :
    semWaits [(⟨sl, ⟨.plain, i⟩⟩, x)] = [] := by
  simp only [semWaits, List.filterMap_cons, List.filterMap_nil]

theorem walksBefore_none {i : Instr} (h : ∀ o, i ≠ .ldsmp o) (x : Ctx) (s : State) : walksBefore x i s = s := by
  cases i <;> first | rfl | exact absurd rfl (h _)

/-- A retired plain bundle that writes no control register. -/
theorem retire_plain (pres : BitVec 7) (sl : Slot) (i : Instr) (before : Core) (a : Acc) (hm : a.mtcr = none)
    (hh : a.k.regs.held = []) (hb : a.k.bad = []) :
    retire (Header.plain pres) [⟨sl, ⟨.plain, i⟩⟩] [⟨sl, ⟨.plain, i⟩⟩] before a
      = ({ a.k with regs := { a.k.regs with seed := a.rnd.seed } } : Core).retired a.s.now a.next a.bubble := by
  obtain ⟨s, k, rnd, next, bubble, relHeld, mtcr, mark⟩ := a
  simp only at hm hh hb
  subst hm
  have hheld : (if relHeld || (Header.plain pres).kind == 1 then []
      else heldAfter (Header.plain pres).pres [⟨sl, ⟨.plain, i⟩⟩] k.regs.held) = k.regs.held := by
    rw [hh]
    cases relHeld <;> by_cases hx : pres.getLsbD sl.num = true <;> simp [Header.plain, heldAfter, Ctl.plain, Tab.drop, hx]
  simp only [retire, dropCount_one, bconf_same, hheld, Core.retired, hb, List.filter_nil]

/-- The header of the plain bundle of a slot. -/
abbrev plainHeader (sl : Slot) : Header := Header.plain (BitVec.ofNat 7 (2 ^ sl.num))

/-- A state whose current core's record has been written once more as it is. -/
def State.touched (s : State) : Prop := s.setCore s.cur s.self = s

theorem tried_touched (s : State) : s.tried.touched := by
  simp [State.touched, State.tried, State.self]

theorem begun_cur (s : State) : s.begun.cur = s.cur := rfl

/-- No check of the one word of a plain bundle fails. -/
theorem firstTrap_none {b : State} {sl : Slot} {i : Instr} (hbad : b.self.bad = [])
    (hp : slotProbe none (b.ctx sl) i = .go) (hans : slotAnswer (b.ctx sl) i = .go)
    (hadm : ∀ o, i = .semadd o → admits b (coreCluster b.cur) o.sem.toNat 0 0 (semVal o (b.ctx sl)) = true) :
    wordProbe [⟨sl, ⟨.plain, i⟩⟩] (⟨sl, ⟨.plain, i⟩⟩, b.ctx sl) = .go ∧
    firstTrap b.cur (plainHeader sl) [⟨sl, ⟨.plain, i⟩⟩] [⟨sl, ⟨.plain, i⟩⟩] [(⟨sl, ⟨.plain, i⟩⟩, b.ctx sl)] b = none := by
  have hv : v0Of [⟨sl, ⟨.plain, i⟩⟩] ⟨sl, ⟨.plain, i⟩⟩ = none := by cases sl <;> rfl
  have hw : wordProbe [⟨sl, ⟨.plain, i⟩⟩] (⟨sl, ⟨.plain, i⟩⟩, b.ctx sl) = .go := by
    have : badRead (b.ctx sl).k ⟨sl, ⟨.plain, i⟩⟩ = none := by
      rw [show (b.ctx sl).k = b.self from rfl, badRead, hbad]
      rfl
    simp only [wordProbe, this, hv, hp]
  refine ⟨hw, ?_⟩
  have hoff : offTrap (b.core b.cur) [⟨sl, ⟨.plain, i⟩⟩] [⟨sl, ⟨.plain, i⟩⟩] = none := by
    simp [offTrap]
  have hst : wordStop [⟨sl, ⟨.plain, i⟩⟩] (⟨sl, ⟨.plain, i⟩⟩, b.ctx sl) = .go := by
    simp only [wordStop, hw, hans]
    cases isAtomic i <;> rfl
  have hno : slotStop (b.core b.cur) [⟨sl, ⟨.plain, i⟩⟩] [⟨sl, ⟨.plain, i⟩⟩] [(⟨sl, ⟨.plain, i⟩⟩, b.ctx sl)] = none := by
    simp only [slotStop, hoff, slotTrap, List.findSome?, hst, earlierTrap]
    rfl
  have hans' : slotTrap (fun w => slotAnswer w.2 w.1.word.op)
      (List.filter (fun w => isAtomic w.1.word.op) [(⟨sl, ⟨.plain, i⟩⟩, b.ctx sl)]) = none := by
    cases ha : isAtomic i <;> simp [slotTrap, ha, hans]
  simp only [firstTrap, hno, hans', Header.plain]
  cases i with
  | semadd o =>
    have := hadm o rfl
    simp [semWaits, takenFrom, this]
  | _ => simp [List.findSome?]

/-- What the issue of a plain bundle of one operation comes to, once nothing stops it: the effect on the state `b` with the
errors of the scratchpad lines that it reads met, retired; then the mark it asks for; then, of a scratchpad write of class 0,
the write-downs of earlier bundles. `m` is the state before the scale writes have landed. -/
def plainIssue (m b : State) (sl : Slot) (i : Instr) : State :=
  let a := slotEffect i (b.ctx sl) { b.acc with s := meetReads m.cur (spReads (b.ctx sl) i) b }
  let u := a.s.setCore m.cur (retire (plainHeader sl) [⟨sl, ⟨.plain, i⟩⟩] [⟨sl, ⟨.plain, i⟩⟩] m.self a)
  let v := if a.mark || isAtomic i then takeMark m.cur a.next u else u
  if zeroStore i then v.setCore m.cur ((v.core m.cur).queueDown (m.self.seq - 1) fun e => e.cls.getLsbD 0) else v

/-- The issue proper of the plain bundle of an operation whose own checks pass, at a state `m` whose scale writes have still
to land: its effect on the state after they have, retired. -/
theorem issueNow_plain {m b : State} (hb : m.landed m.cur = b) {sl : Slot} {i : Instr} (ht : m.touched)
    (hbad : b.self.bad = []) (hp : slotProbe none (b.ctx sl) i = .go) (hans : slotAnswer (b.ctx sl) i = .go)
    (hda : downAtomic (b.ctx sl) m.self i = m.self)
    (hadm : ∀ o, i = .semadd o → admits b (coreCluster b.cur) o.sem.toNat 0 0 (semVal o (b.ctx sl)) = true) :
    issueNow m.cur (plainHeader sl) [⟨sl, ⟨.plain, i⟩⟩] [⟨sl, ⟨.plain, i⟩⟩] (m.self.pc + 2) [] m = plainIssue m b sl i := by
  have hs : b.self = m.self.landScales := by rw [← hb]; exact landed_self m
  have hcur : b.cur = m.cur := by rw [← hb]; rfl
  have hpc : b.self.pc = m.self.pc := by rw [hs]; rfl
  have hseed : b.self.regs.seed = m.self.regs.seed := by rw [hs]; exact landScales_seed _
  have hc : correctRead [⟨sl, ⟨.plain, i⟩⟩] [⟨sl, ⟨.plain, i⟩⟩] (b.core m.cur) = b.self := by
    rw [show b.core m.cur = b.self by rw [State.self, hcur]]
    exact correctRead_none _ _ _ hbad
  have hx : ctxs m.cur b (m.self.pc + 2) [⟨sl, ⟨.plain, i⟩⟩] = [(⟨sl, ⟨.plain, i⟩⟩, b.ctx sl)] := by
    rw [← hpc, ← hcur]; exact ctxs_one b sl i
  have hft := (firstTrap_none hbad hp hans hadm).2
  rw [hcur] at hft
  have ha : ({ s := meetReads m.cur (spReads (b.ctx sl) i) b, k := b.self, rnd := ⟨m.self.regs.seed, 0⟩
               next := m.self.pc + 2, bubble := 0, relHeld := false, mtcr := none, mark := false } : Acc)
      = { b.acc with s := meetReads m.cur (spReads (b.ctx sl) i) b } := by
    simp only [State.acc, hpc, hseed]
  have hd' : atomDowns [(⟨sl, ⟨.plain, i⟩⟩, b.ctx sl)] m.self = m.self := by simpa [atomDowns] using hda
  simp only [issueNow, show ((plainHeader sl).mark == 1) = false from rfl, Bool.false_eq_true, if_false, headerPass,
    List.foldl_nil, show m.core m.cur = m.self from rfl, show m.setCore m.cur m.self = m from ht, hb, hx, hft, hd', bne_self_eq_false, List.flatMap_cons, List.flatMap_nil, List.append_nil,
    meetReads_core, hc, headerSignal, satSignal, show ((plainHeader sl).sen == 1) = false from rfl, Bool.false_and,
    List.foldl_cons, show ((plainHeader sl).kind == 1) = false from rfl, List.any_cons, List.any_nil, Bool.or_false, ha,
    plainIssue]

/-- What `State.issues` says, part by part. -/
theorem issues_parts {s : State} {sl : Slot} {i : Instr} {room : Nat} (h : s.issues sl i room = true) :
    s.begun.self.run = .placed ∧ s.begun.self.ready ≤ s.now ∧ s.begun.self.satTrap = [] ∧ s.begun.self.granted = none
      ∧ s.begun.self.regs.held = [] ∧ s.begun.self.bad = [] ∧ i.slots.contains sl = true
      ∧ SlotWord.wf ⟨.plain, i⟩ = true ∧ s.begun.self.pc.toNat % 4096 + room ≤ 4095
      ∧ (regReads s.begun.self.regs.rrb i ++ regWrites s.begun.self.regs.rrb i).all s.begun.self.tileOn = true
      ∧ (regReads s.begun.self.regs.rrb i ++ regWrites s.begun.self.regs.rrb i).any s.begun.self.isBusy = false
      ∧ s.begun.self.gated.length + gateNeed i ≤ 64 := by
  simp only [State.issues, Bool.and_eq_true, decide_eq_true_eq, Bool.not_eq_true', beq_iff_eq, Option.isNone_iff_eq_none,
    List.isEmpty_iff] at h
  obtain ⟨⟨⟨⟨⟨⟨⟨⟨⟨⟨⟨h1, h2⟩, h3⟩, h4⟩, h5⟩, h6⟩, h7⟩, h8⟩, h9⟩, h10⟩, h11⟩, h12⟩ := h
  exact ⟨h1, h2, h3, h4, h5, h6, h7, h8, h9, h10, h11, h12⟩

/-- The core of `State.begun`. -/
theorem begun_self (s : State) : s.begun.self = ({ s.self with waiting := [] } : Core).landScales := by
  have h := landed_self s.tried
  rw [show s.tried.cur = s.cur from rfl] at h
  rw [State.begun, h]
  simp [State.tried, State.self]

theorem tried_self (s : State) : s.tried.self = { s.self with waiting := [] } := by
  simp [State.tried, State.self]

/-- Landing scale writes changes nothing that a tile or a busy register is judged by. -/
theorem begun_tileOn (s : State) : s.begun.self.tileOn = s.tried.self.tileOn := by
  rw [begun_self, tried_self, landScales_tileOn]
theorem begun_rrb (s : State) : s.begun.self.regs.rrb = s.tried.self.regs.rrb := by
  rw [begun_self, tried_self]; exact landScales_rrb _
theorem begun_pc (s : State) : s.begun.self.pc = s.tried.self.pc := by rw [begun_self, tried_self, landScales_pc]

theorem fallsThrough_begun (s : State) (h : Header) (en : List IWord) :
    fallsThrough s.begun.self h en = fallsThrough s.tried.self h en := by
  have hl : ∀ o, loopTaken o s.begun.self.regs = loopTaken o s.tried.self.regs := by
    intro o
    rw [begun_self, tried_self, landScales_regs]
    obtain ⟨t, h⟩ := landScales_eq s.self.regs
    rw [show ({ s.self with waiting := [] } : Core).regs = s.self.regs from rfl, h]
    rfl
  simp only [fallsThrough, hl]

/-- A placed core whose last bundle has issued fetches. -/
theorem issueWith_tried {s : State} (get : Core → Except (Nat × Trap × W64) (Header × List IWord))
    (hrun : s.self.run = .placed) (hready : s.self.ready ≤ s.now) (hsat : s.self.satTrap = [])
    (hgr : s.self.granted = none) :
    issueWith s.cur get s = (match get s.tried.self with
      | .error (slot, t, w) => takeTrap s.cur slot t w 0 s.tried
      | .ok (h, ws) => tryIssue s.cur h ws false s.tried) := by
  have hc : ((s.core s.cur).run != .placed || decide (s.now < (s.core s.cur).ready)) = false := by
    rw [show (s.core s.cur).run = .placed from hrun]
    simpa using show (s.core s.cur).ready ≤ s.now from hready
  have hgr' : (s.core s.cur).granted = none := hgr
  have hb : s.takeBack s.cur = s := by simp [State.takeBack, hgr']
  have ht : (s.takeBack s.cur).setCore s.cur { (s.takeBack s.cur).core s.cur with waiting := [] } = s.tried := by
    rw [hb]; rfl
  have hs : (!(s.core s.cur).satTrap.isEmpty) = false := by rw [show (s.core s.cur).satTrap = [] from hsat]; rfl
  unfold issueWith
  dsimp only
  rw [hc, if_neg (by simp), ht, hs, if_neg (by simp), show (s.core s.cur).granted.isSome = false by rw [hgr']; rfl,
    show (s.core s.cur).granted.getD [] = [] by rw [hgr']; rfl]
  rfl

/-- A bundle that a placed core fetches whole is tried. -/
theorem issueOne_fetched {s : State} {sl : Slot} {i : Instr} {room : Nat} (h : s.issues sl i room = true)
    (hr : 1 ≤ room) :
    issueOne sl i s = drain s.cur (tryIssue s.cur (plainHeader sl) [⟨sl, ⟨.plain, i⟩⟩] false s.tried) := by
  obtain ⟨h1, h2, h3, h3', h4, h5, h6, h7, h8, h9, -, -⟩ := issues_parts h
  rw [begun_self] at h1 h2 h3 h3' h4
  rw [begun_pc] at h8
  have ht : (regReads s.tried.self.regs.rrb i ++ regWrites s.tried.self.regs.rrb i).all s.tried.self.tileOn = true := by
    rw [← begun_tileOn, ← begun_rrb]; exact h9
  have hf := fetchPlain_ok (sl := sl) (k := s.tried.self) h6 h7 (by omega)
    (by rw [tried_self]; simpa using h4) (tileTrap_none ht)
  rw [issueOne, issueWith_tried _ h1 h2 h3 h3', hf]

/-- A plain bundle that finds nothing to wait for issues. `s` is the state at which it is tried, `m` the state after the mark
that its operation may take, and `b` that state with its scale writes landed. -/
theorem tryIssue_plain {s m b : State} {sl : Slot} {i : Instr}
    (hm : (if marksAlways i || marksBefore ((s.landed m.cur).ctx sl) i then implicitMark m.cur s else s) = m)
    (hsc : s.cur = m.cur) (hb : m.landed m.cur = b) (hpc : s.self.pc = m.self.pc)
    (hwk : wakeBanks m.cur [⟨sl, ⟨.plain, i⟩⟩] s = none) (ht : m.touched) (hbad : b.self.bad = [])
    (h10 : (regReads b.self.regs.rrb i ++ regWrites b.self.regs.rrb i).any b.self.isBusy = false)
    (h11 : b.self.gated.length + gateNeed i ≤ 64) (hd : downBefore m.self i = m.self)
    (hda : downAtomic (b.ctx sl) m.self i = m.self) (hwl : walksBefore (b.ctx sl) i m = m)
    (hp : slotProbe none (b.ctx sl) i = .go)
    (hans : slotAnswer (b.ctx sl) i = .go)
    (hadm : ∀ o, i = .semadd o → admits b (coreCluster b.cur) o.sem.toNat 0 0 (semVal o (b.ctx sl)) = true)
    (hf : ¬ (fallsThrough m.self (plainHeader sl) [⟨sl, ⟨.plain, i⟩⟩] = true ∧ 4095 < m.self.pc.toNat % 4096 + 2))
    (hfh : fenceHold m.cur [⟨sl, ⟨.plain, i⟩⟩] m = none) (hba : barrierOf [⟨sl, ⟨.plain, i⟩⟩] = none)
    (hsw : semWaits [(⟨sl, ⟨.plain, i⟩⟩, b.ctx sl)] = []) :
    tryIssue m.cur (plainHeader sl) [⟨sl, ⟨.plain, i⟩⟩] false s = plainIssue m b sl i := by
  have hs : b.self = m.self.landScales := by rw [← hb]; exact landed_self m
  have hcur : b.cur = m.cur := by rw [← hb]; rfl
  have hi := issueNow_plain hb (sl := sl) (i := i) ht hbad hp hans hda hadm
  have hw := (firstTrap_none (b := b) (sl := sl) (i := i) hbad hp hans hadm).1
  have hctx : ∀ (u : State), u.cur = m.cur → u.self.pc = m.self.pc →
      ctxs m.cur (u.landed m.cur) (m.self.pc + 2) [⟨sl, ⟨.plain, i⟩⟩] = [(⟨sl, ⟨.plain, i⟩⟩, (u.landed m.cur).ctx sl)] := by
    intro u hu hup
    have h := ctxs_one (u.landed m.cur) sl i
    rw [landed_cur, ← hu, landed_self, landScales_pc, hup] at h
    rw [← hu]
    exact h
  have hxs := hctx s hsc hpc
  have hxm := hctx m rfl rfl
  rw [hb] at hxm
  have hnext : (s.core m.cur).pc + 1 + BitVec.ofNat 13 (presCount (plainHeader sl).pres) = m.self.pc + 2 := by
    rw [presCount_header, show s.core m.cur = s.self by rw [State.self, hsc], hpc, BitVec.add_assoc]; rfl
  have hen : ∀ t : State, [(⟨sl, ⟨.plain, i⟩⟩ : IWord)].filter (fun w => w.enabled (t.core m.cur)) = [⟨sl, ⟨.plain, i⟩⟩] :=
    fun _ => rfl
  have hpb : predsBusy (s.core m.cur) [⟨sl, ⟨.plain, i⟩⟩] = false := by simp [predsBusy, Ctl.plain]
  have hbusy : regsBusy m.self [⟨sl, ⟨.plain, i⟩⟩] = false := by
    rw [hs] at h10
    simpa [regsBusy, Core.isBusy, Core.busy] using h10
  have hneed : bundleNeed (plainHeader sl) [⟨sl, ⟨.plain, i⟩⟩] = gateNeed i := by
    simp [bundleNeed, Header.plain]
  have hroom : ¬ 64 < (m.core m.cur).gated.length + gateNeed i := by
    rw [hs] at h11
    exact Nat.not_lt.2 h11
  have hft : ¬ (fallsThrough (m.core m.cur) (plainHeader sl) [⟨sl, ⟨.plain, i⟩⟩] = true
      ∧ 4095 < (m.core m.cur).pc.toNat % 4096 + 1 + presCount (plainHeader sl).pres) := by
    rw [presCount_header]
    exact hf
  have hprep : prepare m.cur [⟨sl, ⟨.plain, i⟩⟩] [⟨sl, ⟨.plain, i⟩⟩] (m.self.pc + 2) s = m := by
    simp only [prepare, hxs, List.any_cons, List.any_nil, Bool.or_false, hm, hb, hxm, List.foldl_cons, List.foldl_nil,
      show m.core m.cur = m.self from rfl, hd, show m.setCore m.cur m.self = m from ht, hbusy, Bool.false_eq_true, if_false,
      hwl]
  unfold tryIssue
  rw [hwk]
  simp only [hpb, Bool.false_eq_true, if_false, hen, hnext, hprep, hb, hxm, List.map_cons, List.map_nil, hw, hneed, hroom,
    show regsBusy (m.core m.cur) [⟨sl, ⟨.plain, i⟩⟩] = false from hbusy, List.any_cons, List.any_nil, Probe.isStall,
    Bool.or_false, Bool.or_self, decide_false, hfh, Bool.and_eq_true, decide_eq_true_eq,
    hft, hba, hsw, headerWait, show ((plainHeader sl).wen == 1) = false from rfl,
    List.append_nil, List.isEmpty_nil, if_true]
  exact hi

/-- An operation asks for nothing before its bundle issues: no mark, no semaphore, no write-down, no walk; and no check of
its own stops it; it ends no region by a scratchpad write of class 0. -/
structure Quiet (s : State) (sl : Slot) (i : Instr) : Prop where
  always : marksAlways i = false
  before : ∀ x, marksBefore x i = false
  semwait : ∀ o, i ≠ .semwait o
  down : downBefore s.tried.self i = s.tried.self
  zero : zeroStore i = false
  walks : walksBefore (s.begun.ctx sl) i s.tried = s.tried
  probe : slotProbe none (s.begun.ctx sl) i = .go
  answer : slotAnswer (s.begun.ctx sl) i = .go

/-- The step of an operation that takes no mark before its bundle, where nothing stands in its way: its effect, retired,
and what it releases drained. -/
theorem exec_plain {s : State} {sl : Slot} {i : Instr} {room : Nat} (h0 : i.slots.head? = some sl)
    (h : s.issues sl i room = true) (hr : 1 ≤ room)
    (hf : fallsThrough s.begun.self (plainHeader sl) [⟨sl, ⟨.plain, i⟩⟩] = true → 2 ≤ room)
    (hq : Quiet s sl i)
    (hadm : ∀ o, i = .semadd o →
      admits s.begun (coreCluster s.cur) o.sem.toNat 0 0 (semVal o (s.begun.ctx sl)) = true) :
    exec i s = .next (drain s.cur
      (let a := slotEffect i (s.begun.ctx sl) { s.begun.acc with s := meetReads s.cur (spReads (s.begun.ctx sl) i) s.begun }
       let u := a.s.setCore s.cur (retire (plainHeader sl) [⟨sl, ⟨.plain, i⟩⟩] [⟨sl, ⟨.plain, i⟩⟩] s.tried.self a)
       if a.mark then takeMark s.cur a.next u else u)) := by
  rw [exec_slot h0, issueOne_fetched h hr]
  obtain ⟨hma, hm, hsw, hd, hz, hwl, hp, hans⟩ := hq
  obtain ⟨-, -, -, -, -, h5, -, -, h8, h9, h10, h11⟩ := issues_parts h
  have hat : isAtomic i = false := by
    simp only [marksAlways, Bool.or_eq_false_iff] at hma
    exact hma.1
  have key := tryIssue_plain (s := s.tried) (m := s.tried) (b := s.begun) (sl := sl) (i := i) (by simp [hma, hm]) rfl rfl rfl
    (by
      refine wakeBanks_none _ ?_
      rw [show s.tried.core s.tried.cur = s.tried.self from rfl, ← begun_tileOn, ← begun_rrb]
      exact h9)
    (tried_touched s) h5 h10 h11 hd (by cases i <;> first | rfl | cases hat) hwl hp hans hadm
    (by
      rintro ⟨ha, hb⟩
      have := hf ((fallsThrough_begun ..).trans ha)
      rw [← begun_pc] at hb
      omega)
    (by simp only [fenceHold, List.findSome?, fenceTime_none hm _ (s.begun.ctx sl)])
    (barrierOf_none (hm (s.begun.ctx sl)) sl) (semWaits_none hsw sl _)
  rw [show s.tried.cur = s.cur from rfl] at key
  rw [key]
  simp only [plainIssue, hat, hz, Bool.or_false, Bool.false_eq_true, if_false, show s.tried.cur = s.cur from rfl]

end Sys2Proof.Machine
end

