-- ==== Sys2Proof/Laws/Memory.lean ====
section
/-! SUPPORT. Physical memory keeps its canonical form: one lemma for each operation that writes it, and one for each
operation over these that a core, an engine or the pumphouse uses. -/

namespace Sys2Proof.Machine

/-- What every step of a fold keeps, the fold keeps. -/
theorem foldl_keeps {α β : Type} {p : β → Prop} (f : β → α → β) (h : ∀ b a, p b → p (f b a)) (l : List α) {b : β}
    (hb : p b) : p (l.foldl f b) := by
  induction l generalizing b with
  | nil => exact hb
  | cons a l ih => exact ih (h b a hb)

/-- An `if` keeps what both its branches have. -/
theorem ite_keeps {α : Type} {p : α → Prop} (c : Prop) [Decidable c] {a b : α} (ha : p a) (hb : p b) :
    p (if c then a else b) := by
  split <;> assumption

theorem reset_memory_wf : Memory.wf State.reset = true := rfl

theorem wf_setByte {s : State} (h : Memory.wf s = true) (a : Nat) (b : Byte) : Memory.wf (s.setByte a b) = true :=
  Store.wf_write h a b

theorem wf_setBytes (bs : List Byte) {s : State} (h : Memory.wf s = true) (a : Nat) :
    Memory.wf (s.setBytes a bs) = true := by
  induction bs generalizing s a with
  | nil => exact h
  | cons b bs ih => exact ih (wf_setByte h a b) (a + 1)

theorem addSats_mem (s : State) (f n : Nat) : (s.addSats f n).mem = s.mem := by
  unfold State.addSats
  split <;> rfl

theorem countRead_mem (s : State) (src : Src) (o n : Nat) : (s.countRead src o n).mem = s.mem := by
  unfold State.countRead
  split
  · rfl
  · exact addSats_mem ..

theorem countGranule_mem (s : State) (a : Nat) : (countGranule s a).mem = s.mem := rfl

theorem wf_storeBlock {s : State} (h : Memory.wf s = true) (src : Src) (b c : Nat) (es : List Nat) :
    Memory.wf (storeBlock s src b c es) = true :=
  wf_setByte (wf_setBytes _ h _) _ _

theorem wf_of_mem {s t : State} (e : t.mem = s.mem) (h : Memory.wf s = true) : Memory.wf t = true := by
  rw [show Memory.wf t = t.mem.wf from rfl, e]
  exact h

theorem wf_writeBlock (src : Src) (es : List (Nat × XVal)) {s : State} (h : Memory.wf s = true) (b : Nat) :
    Memory.wf (writeBlock src es s b) = true := by
  unfold writeBlock
  have key : ∀ c codes n f, Memory.wf ((storeBlock s src b c codes).addSats f n) = true := fun c codes n f =>
    wf_of_mem (addSats_mem _ _ _) (wf_storeBlock h src b c codes)
  dsimp only
  split
  · exact wf_of_mem rfl (key _ _ _ _)
  · exact key _ _ _ _

theorem wf_writeElem (src : Src) {s : State} (h : Memory.wf s = true) (e : Nat × XVal) :
    Memory.wf (writeElem src s e) = true :=
  wf_of_mem (addSats_mem _ _ _) (wf_setBytes _ h _)

theorem wf_meetGranule {s : State} (h : Memory.wf s = true) (g : Nat) : Memory.wf (meetGranule s g) = true := by
  unfold meetGranule
  split
  · exact Store.wf_clearRange h _ _
  · split <;> exact h

theorem wf_meetWrite (gs : List Nat) {s : State} (h : Memory.wf s = true) : Memory.wf (s.meetWrite gs) = true := by
  unfold State.meetWrite
  exact ite_keeps (p := fun t => Memory.wf t = true) _ h
    (foldl_keeps (p := fun t => Memory.wf t = true) _ (fun _ g ht => wf_meetGranule ht g) _ h)

theorem wf_writeGranule (src : Src) {s : State} (h : Memory.wf s = true) (ws : List (Nat × Byte)) :
    Memory.wf (writeGranule src s ws) = true := by
  unfold writeGranule
  have key : ∀ u : State, Memory.wf u = true → ∀ es, Memory.wf
      (if src.isPlain then ws.foldl (fun s w => s.setByte w.1 w.2) u
      else if src.sfmt == src.dfmt then
        ws.foldl (fun s w => if mxHole src.dfmt src.size w.1 then s else s.setByte (src.frame + w.1) w.2) u
      else if isMxCode src.sfmt then (nubNat (es.map fun e => e.1 / 32)).foldl (writeBlock src es) u
      else es.foldl (writeElem src) u) = true := by
    intro u h es
    split
    · exact foldl_keeps (p := fun t => Memory.wf t = true) _ (fun _ _ ht => wf_setByte ht _ _) _ h
    · split
      · exact foldl_keeps (p := fun t => Memory.wf t = true) _
          (fun _ _ ht => ite_keeps (p := fun t => Memory.wf t = true) _ ht (wf_setByte ht _ _)) _ h
      · exact ite_keeps (p := fun t => Memory.wf t = true) _
          (foldl_keeps (p := fun t => Memory.wf t = true) _ (fun _ _ ht => wf_writeBlock _ _ ht _) _ h)
          (foldl_keeps (p := fun t => Memory.wf t = true) _ (fun _ _ ht => wf_writeElem _ ht _) _ h)
  exact ite_keeps (p := fun t => Memory.wf t = true) _ (foldl_keeps (p := fun t => Memory.wf t = true)
    (fun t g => countGranule t (g * 256)) (fun _ _ ht => wf_of_mem (countGranule_mem _ _) ht) _
    (key _ (wf_meetWrite _ h) _)) (key _ (wf_meetWrite _ h) _)

/-- Delivered bytes written through the codec keep memory's canonical form. -/
theorem wf_deliverTo (src : Src) (ws : List (Nat × Byte)) {s : State} (h : Memory.wf s = true) :
    Memory.wf (s.deliverTo src ws) = true :=
  foldl_keeps (p := fun t => Memory.wf t = true) _ (fun _ _ ht => wf_writeGranule src ht _) _ h

theorem wf_meet (src : Src) (o n : Nat) {s : State} (h : Memory.wf s = true) :
    Memory.wf (s.meet src o n).1 = true := by
  unfold State.meet
  split
  · exact h
  · exact foldl_keeps (p := fun t => Memory.wf t = true) _ (fun _ _ ht => wf_meetGranule ht _) _ h

theorem addZeroed_mem (s : State) (l n : Nat) : (s.addZeroed l n).mem = s.mem := by
  unfold State.addZeroed
  split <;> rfl

theorem wf_foundBy (l : Nat) (src : Src) (o n : Nat) {s : State} (h : Memory.wf s = true) :
    Memory.wf (s.foundBy l src o n) = true :=
  wf_of_mem (addZeroed_mem _ _ _) (wf_meet src o n h)

theorem wf_writeLeaf (pkg root va : Nat) (old new : W64) {s : State} (h : Memory.wf s = true) :
    Memory.wf (s.writeLeaf pkg root va old new) = true := by
  unfold State.writeLeaf
  split
  · exact h
  · exact foldl_keeps (p := fun t => Memory.wf t = true) _ (fun _ _ ht => wf_setBytes _ ht _) _ h

theorem wf_copyPhys (src dst n : Nat) {s : State} (h : Memory.wf s = true) :
    Memory.wf (s.copyPhys src dst n) = true :=
  foldl_keeps (p := fun m : Store 8 => m.wf = true) _ (fun _ _ hm => Store.wf_write hm _ _) _
    (Store.wf_clearRange (wf_meetWrite _ h) _ _)

/-! Effects of a core that perform. -/

theorem grant_mem (c : Nat) (s : State) : (s.grant c).mem = s.mem := by
  have key : ∀ (ds : List (Nat × Nat × Nat)) (u : State), (ds.foldl (fun s d =>
      (s.setSem (coreCluster c) d.1 (s.sem (coreCluster c) d.1 - d.2.1)).passed c d.1) u).mem = u.mem := by
    intro ds
    induction ds with
    | nil => exact fun _ => rfl
    | cons d ds ih => exact fun u => (ih _).trans rfl
  exact key _ s

theorem testWaits_mem (cl n : Nat) (s : State) : (s.testWaits cl n).mem = s.mem := by
  have key : ∀ (l : List Nat) (r : State × List (Nat × Instr)), (l.foldl (fun a c =>
      if a.1.grants n c then (a.1.grant c, a.2 ++ [(0, Instr.bundleIssue c)]) else a) r).1.mem = r.1.mem := by
    intro l
    induction l with
    | nil => exact fun _ => rfl
    | cons c l ih =>
      intro r
      rw [List.foldl_cons, ih]
      split
      · exact grant_mem c r.1
      · rfl
  unfold State.testWaits
  generalize s.round cl n = l
  exact key l (s, [])

theorem incSem_mem (s : State) (cl n v : Nat) : (s.incSem cl n v).mem = s.mem := by
  rw [State.incSem, testWaits_mem, State.addSem_mem]
theorem moveSem_mem (s : State) (cl n v : Nat) : (s.moveSem cl n v).mem = s.mem := by
  rw [State.moveSem, testWaits_mem, State.setSem_mem]
theorem applyAdm_mem (s : State) (cl n v : Nat) : (s.applyAdm cl n v).mem = s.mem := by
  rw [State.applyAdm, State.setAdm_mem, incSem_mem]

theorem wf_setSeep (src : Src) (o sc origin : Nat) {s : State} (h : Memory.wf s = true) :
    Memory.wf (s.setSeep src o sc origin) = true := h

theorem wf_performEff (c : Nat) {s : State} (h : Memory.wf s = true) (e : Effect) :
    Memory.wf (performEff c s e) = true := by
  cases e with
  | store src ws cls sc rel =>
    have hd := wf_deliverTo src ws h
    unfold performEff
    exact ite_keeps (p := fun t => Memory.wf t = true) _
      (foldl_keeps (p := fun t => Memory.wf t = true) (fun t l => t.setSeep src (l * 128) sc c)
        (fun _ _ ht => wf_setSeep _ _ _ _ ht) _ (wf_of_mem rfl hd)) (wf_of_mem rfl hd)
  | signal n v | semadd n v => exact wf_of_mem (applyAdm_mem s (coreCluster c) n v) h
  | semset n v => exact wf_of_mem (moveSem_mem s (coreCluster c) n v) h
  | _ => exact h

theorem wf_performAt (c i : Nat) {s : State} (h : Memory.wf s = true) : Memory.wf (performAt c i s) = true := by
  dsimp only [performAt]
  split
  · split
    · exact h
    · refine wf_performEff c ?_ _
      exact wf_of_mem (s := s) rfl h
  · exact h

theorem wf_drainFrom (c : Nat) (fuel : Nat) (i : Nat) {s : State} (h : Memory.wf s = true) :
    Memory.wf (drainFrom c fuel i s) = true := by
  induction fuel generalizing i s with
  | zero => exact h
  | succ n ih =>
    unfold drainFrom
    split
    · exact h
    · split
      · exact ih i (wf_performAt c i h)
      · exact ih (i + 1) h

/-- The releases and pushes that perform by themselves keep memory's canonical form. -/
theorem wf_drain (c : Nat) {s : State} (h : Memory.wf s = true) : Memory.wf (drain c s) = true := wf_drainFrom c _ _ h

theorem wf_readLine (l : Nat) (src : Src) (line : Nat) {s : State} (h : Memory.wf s = true) :
    Memory.wf (s.readLine l src line) = true :=
  wf_of_mem (countRead_mem _ _ _ _) (wf_foundBy l src _ _ h)

theorem wf_readLines (l : Nat) (src : Src) (f : Nat) (lines : List Nat) {s : State} (k : Core) (h : Memory.wf s = true) :
    Memory.wf (readLines l src f lines s k).1 = true :=
  foldl_keeps (p := fun a : State × Core => Memory.wf a.1 = true) _ (fun _ _ ha => wf_readLine l src _ ha) _ h

theorem wf_take (l : LoadPend) {s : State} (k : Core) (h : Memory.wf s = true) : Memory.wf (l.take s k).2.1 = true := by
  unfold LoadPend.take
  split
  · exact h
  · exact wf_readLines _ _ _ _ _ (wf_of_mem (addZeroed_mem s _ _) h)

/-- Loads that take their values early keep memory's canonical form. -/
theorem wf_settleLoads (pick : LoadPend → Bool) {s : State} (k : Core) (h : Memory.wf s = true) :
    Memory.wf (settleLoads pick s k).1 = true :=
  foldl_keeps (p := fun a : State × Core => Memory.wf a.1 = true) _
    (fun a i ha => ite_keeps (p := fun a : State × Core => Memory.wf a.1 = true) _
      (by
        unfold takeEarly
        split
        · exact wf_take _ _ ha
        · exact ha) ha) _ h

theorem wf_commitOne (c : Nat) {s : State} (h : Memory.wf s = true) (g : Gate) : Memory.wf (commitOne c s g) = true := by
  dsimp only [commitOne]
  split <;> first
    | exact wf_of_mem rfl (wf_drain c (wf_of_mem (s := s) rfl h))
    | exact wf_of_mem (s := s) rfl h
    | exact wf_of_mem rfl (wf_settleLoads _ _ h)

/-- A commit keeps memory's canonical form. -/
theorem wf_commit (c : Nat) {s : State} (h : Memory.wf s = true) : Memory.wf (commit c s) = true :=
  wf_drain c (foldl_keeps (p := fun t => Memory.wf t = true) _ (fun _ g ht => wf_commitOne c ht g) _
    (wf_of_mem (s := s) rfl h))

/-- A restart mark keeps memory's canonical form. -/
theorem wf_takeMark (c : Nat) (pc : BitVec 13) {s : State} (h : Memory.wf s = true) :
    Memory.wf (takeMark c pc s) = true :=
  wf_of_mem rfl (wf_commit c h)

end Sys2Proof.Machine
end

