-- ==== Sys2Proof/Laws/Results.lean ====
section
/-! SUPPORT. What a plain bundle leaves, by the kind of its operation's result: a scalar, a predicate, a row, at once or on
its way; and what the issue of an operation that writes no control register comes to. -/

namespace Sys2Proof.Machine

@[simp] theorem physScalar_zero (b : BitVec 5) : physScalar b 0 = 0 := rfl

@[simp] theorem wrPhys_held (r : Regs) (n : Nat) (v : W64) : (r.wrPhys n v).held = r.held := by
  unfold Regs.wrPhys; split <;> rfl
@[simp] theorem wrPhys_seed (r : Regs) (n : Nat) (v : W64) : (r.wrPhys n v).seed = r.seed := by
  unfold Regs.wrPhys; split <;> rfl
@[simp] theorem wrPhys_rrb (r : Regs) (n : Nat) (v : W64) : (r.wrPhys n v).rrb = r.rrb := by
  unfold Regs.wrPhys; split <;> rfl
@[simp] theorem setPr_held (r : Regs) (n : Nat) (b : Bool) : (r.setPr n b).held = r.held := rfl
@[simp] theorem setPr_seed (r : Regs) (n : Nat) (b : Bool) : (r.setPr n b).seed = r.seed := rfl

theorem seed_same (r : Regs) (v : BitVec 32) (h : v = r.seed) : { r with seed := v } = r := by subst h; rfl

/-- A scalar result lands in its register. -/
theorem landAt_scalar (k : Core) (n : Nat) (v : W64) (vs : List Row) :
    k.landAt k.region (.scalar n) (v.zeroExtend 1024 :: vs) = { k with regs := k.regs.wrPhys n v } := by
  simp only [Core.landAt, Core.landRegs, Nat.lt_irrefl, if_false]
  congr 2
  simp

/-- A scalar result of a plain bundle (R119). -/
theorem putX_plain (a : Acc) (x : Ctx) (rd : BitVec 5) (v : W64) (lat : Nat) (hx : x.dropX = false)
    (hk : x.k.regs.rrb = a.k.regs.rrb) : a.putX x rd v lat = { a with k := a.k.gets a.s.now rd v lat } := by
  by_cases h0 : rd = 0
  · subst h0
    by_cases hl : lat ≤ 1
    · simp only [Acc.putX, Acc.put, Ctx.destX, hx, hl, if_true, Core.gets, Core.setX, physScalar_zero, Regs.wrPhys]
      rfl
    · simp only [Acc.putX, Acc.put, Ctx.destX, hx, hl, if_false, Core.gets, Core.awaits, Core.scalarDest]
      rfl
  · have h0' : (rd == 0) = false := by simpa using h0
    by_cases hl : lat ≤ 1
    · simp only [Acc.putX, Acc.put, Ctx.destX, hx, h0', hl, if_true, Core.gets, Core.setX, landAt_scalar, Bool.or_self,
        Bool.false_eq_true, if_false, hk]
    · simp only [Acc.putX, Acc.put, Ctx.destX, hx, h0', hl, if_false, Core.gets, Core.awaits, Core.scalarDest,
        Bool.or_self, Bool.false_eq_true, hk]

/-- The issue of an operation that writes no control register: the core its effect leaves, retired. -/
theorem exec_effect {s : State} {sl : Slot} {i : Instr} {room : Nat} (h0 : i.slots.head? = some sl)
    (h : s.issues sl i room = true) (hr : 1 ≤ room)
    (hf : fallsThrough s.begun.self (plainHeader sl) [⟨sl, ⟨.plain, i⟩⟩] = true → 2 ≤ room)
    (hq : Quiet s sl i) (hns : ∀ o, i ≠ .semadd o)
    {a : Acc} (ha : slotEffect i (s.begun.ctx sl)
      { s.begun.acc with s := meetReads s.cur (spReads (s.begun.ctx sl) i) s.begun } = a) (hmk : a.mark = false) (hmt : a.mtcr = none)
    (hh : a.k.regs.held = []) (hb : a.k.bad = []) (hn : a.s.now = s.now) :
    exec i s = .next (s.leaves a.s { a.k with regs := { a.k.regs with seed := a.rnd.seed } } a.next a.bubble) := by
  rw [exec_plain h0 h hr hf hq (fun o ho => absurd ho (hns o))]
  simp only [ha, hmk, Bool.false_eq_true, if_false, retire_plain _ _ _ _ a hmt hh hb, State.leaves, hn]

/-- The same for an operation that reads no scratchpad and changes nothing but the core, and draws no random bits. -/
theorem exec_core {s : State} {sl : Slot} {i : Instr} (h0 : i.slots.head? = some sl)
    (h : s.issues sl i 2 = true) (hq : Quiet s sl i) (hns : ∀ o, i ≠ .semadd o)
    (hrd : spReads (s.begun.ctx sl) i = []) (k : Core)
    (ha : slotEffect i (s.begun.ctx sl) s.begun.acc = { s.begun.acc with k })
    (hh : k.regs.held = s.begun.self.regs.held) (hs : k.regs.seed = s.begun.self.regs.seed)
    (hb : k.bad = s.begun.self.bad) :
    exec i s = .next (s.leaves s.begun k (s.begun.self.pc + 2) 0) := by
  have hh' := (issues_parts h).2.2.2.2.1
  have hb' := (issues_parts h).2.2.2.2.2.1
  have ha' : slotEffect i (s.begun.ctx sl) { s.begun.acc with s := meetReads s.cur (spReads (s.begun.ctx sl) i) s.begun }
      = { s.begun.acc with k } := by rw [hrd, meetReads_nil]; exact ha
  rw [exec_effect h0 h (by omega) (fun _ => by omega) hq hns ha' rfl rfl (hh.trans hh') (hb.trans hb') rfl]
  have : ({ k with regs := { k.regs with seed := s.begun.acc.rnd.seed } } : Core) = k := by
    cases k
    simp only [Core.mk.injEq, true_and] at *
    exact ⟨seed_same _ _ hs.symm, by simp⟩
  rw [show ({ s.begun.acc with k } : Acc).k = k from rfl, show ({ s.begun.acc with k } : Acc).rnd.seed = s.begun.acc.rnd.seed from rfl, this]
  rfl

/-- A scalar result leaves the held words and the seed. -/
theorem gets_held (k : Core) (now : Nat) (rd : BitVec 5) (v : W64) (lat : Nat) :
    (k.gets now rd v lat).regs.held = k.regs.held := by
  unfold Core.gets; split <;> simp [Core.setX, Core.awaits]
theorem gets_seed (k : Core) (now : Nat) (rd : BitVec 5) (v : W64) (lat : Nat) :
    (k.gets now rd v lat).regs.seed = k.regs.seed := by
  unfold Core.gets; split <;> simp [Core.setX, Core.awaits]

theorem gets_bad (k : Core) (now : Nat) (rd : BitVec 5) (v : W64) (lat : Nat) : (k.gets now rd v lat).bad = k.bad := by
  unfold Core.gets; split <;> rfl

/-- An operation of the S slot whose whole effect is one scalar result. -/
theorem exec_scalar {s : State} {sl : Slot} {i : Instr} (h0 : i.slots.head? = some sl) (h : s.issues sl i 2 = true)
    (hq : Quiet s sl i) (hns : ∀ o, i ≠ .semadd o) (hrd : spReads (s.begun.ctx sl) i = [])
    (rd : BitVec 5) (v : W64) (lat : Nat)
    (ha : slotEffect i (s.begun.ctx sl) s.begun.acc = s.begun.acc.putX (s.begun.ctx sl) rd v lat) :
    exec i s = .next (s.leaves s.begun (s.begun.self.gets s.now rd v lat) (s.begun.self.pc + 2) 0) :=
  exec_core h0 h hq hns hrd _ (ha.trans (putX_plain _ _ _ _ _ rfl rfl)) (gets_held ..) (gets_seed ..) (gets_bad ..)

end Sys2Proof.Machine
end

