-- ==== Sys2Proof/Tests/Slice0.lean ====
section
/-! SUPPORT. Tests of the model: words that the spec's encodings give, terms that each well-formedness check refuses, single
steps on small states, and for every statement a state and operands that meet its hypotheses. -/

namespace Sys2Proof.Tests

set_option Elab.async false

open Sys2Proof.Machine

/-- A readable and writable 64 KiB page at 0x1_0000, of frame 16. -/
def pageRW : Xlation := ⟨0, 0x10000, 0x10000000D⟩

/-- The handles of the test core: 1 VALID, 2 INVALID, 3 REVOKED, 4 FAULTED, 5 read-only, 6 copy-on-write, 7 and 8 PENDING. -/
def handles : Tab Handle :=
  [(1, ⟨.valid, 0x10000, pageRW⟩), (3, ⟨.revoked, 0x10000, pageRW⟩), (4, ⟨.faulted, 0x77, pageRW⟩),
    (5, ⟨.valid, 0x10000, { pageRW with leaf := pageRW.leaf &&& ~~~8 }⟩),
    (6, ⟨.valid, 0x10000, { pageRW with leaf := pageRW.leaf ||| 32 }⟩), (7, ⟨.pending, 0x20000, pageRW⟩),
    (8, ⟨.pending, 0x50000, pageRW⟩)]

/-- The registers of the test core. -/
def regs0 : Regs :=
  { x := [(1, 5), (2, 3), (3, 0x8000000000000000), (4, 0xFFFFFFFFFFFFFFFF), (5, 0x1000), (6, 64), (7, 0x4124), (8, 0x3F800000),
      (9, 0x40000000), (10, 0x7FC00000), (11, 16), (12, 1), (13, 7), (14, 0x100), (15, 0x10000)]
    p := 0x000005, h := handles, seed := 1, lc := [(1, 2)] }

/-- A placed core: 128 tiles, every bank ON, ring 0 resident with one tile, ring 1 streaming with one of two. -/
def core0 : Core :=
  { run := .placed, launch := 7, tiles := 128, tbank := 0, regs := regs0, shadow := regs0
    rings := [(0, { size := 1, keep := true, count := 1 }), (1, { base := 0x1000, size := 2, count := 1 })]
    tile := [(0, 0x3F800000), (32, 0x40000000), (64, 0x7FC00000)] }

/-- Words written to a memory. -/
def words (m : Store 8) (ws : List (Nat × W64)) : Store 8 := ws.foldl (fun m w => m.writeRun w.1 (bytesOf 8 w.2)) m

/-- Page tables at 0x2000: virtual 0x1_0000 on are a readable and writable page, one with X, a copy-on-write one, a read-only
one, and none. -/
def memT : Store 8 :=
  words [] [(0x2000, 0x400003), (0x4000, 0x600003), (0x6000, 0x800003), (0x8008, 0x10000000D), (0x8010, 0x11000001D),
    (0x8018, 0x12000002D), (0x8020, 0x130000005)]

/-- The translations of those pages. -/
def pages : List Xlation := [⟨0, 0x10000, 0x10000000D⟩, ⟨0, 0x20000, 0x11000001D⟩, ⟨0, 0x30000, 0x12000002D⟩, ⟨0, 0x40000, 0x130000005⟩]

/-- The state of a test: core 0 as given, its cluster's first 64 lines full, its launch placed on the cluster, the TLBs of its
copy engine and its die filled. -/
def at0 (k : Core) : State :=
  { State.reset with
    mem := memT
    cores := [(0, k)]
    clusters := [(0, { launch := 7, full := (List.range 64).map fun i => (i, 1), sem := [(2, 9)], ctlb := pages })]
    dies := [(0, { etlb := pages })]
    launches := [(7, { lid := 7, root := 0x2000, phase := .placed, desc := { LaunchDesc.none with cmask := 1, tiles := 128, pri := 1 } })] }

/-- Core 0 about to issue. -/
def s0 : State := at0 core0

/-- A register form. -/
def srr (rd ra rb : BitVec 5) (fn : BitVec 6 := 0) : SReg := ⟨rd, ra, rb, fn⟩
/-- An immediate form. -/
def ri (rd ra : BitVec 5) (imm : BitVec 37) (fn : BitVec 4 := 0) : SImm := ⟨rd, ra, fn, imm⟩
/-- A floating form. -/
def rf (rd ra rb ty : BitVec 5) (tys : BitVec 5 := 0) : SFloat := ⟨rd, ra, rb, ty, tys, 0, 0⟩
/-- The state that an instruction leaves. -/
def after (i : Instr) (s : State) : State :=
  match exec i s with
  | .next t => t
  | _ => s

/-! Words written out from the tables of R35 and R46 to R56: OP at bit 58, PSEL 31 at bit 51, and each field at the bits of its
format, one word for every operation. -/

/-- Whether a slot's word is read as an operation of an unpredicated word that is not held. -/
def reads (e : Slot × W64 × Instr) : Bool := (decodeSlot e.1 e.2.1).toOption == some ⟨.plain, e.2.2⟩

/-- Words of the S map (R47). -/
def wordsS1 : List (Slot × W64 × Instr) :=
  [(.s, 0x00F8000000000000, .nop .s), (.s, 0x04FD545000000000, .add ⟨21, 10, 5, 0⟩),
    (.s, 0x08FD545000000000, .sub ⟨21, 10, 5, 0⟩), (.s, 0x0CFD545000000000, .mul ⟨21, 10, 5, 0⟩),
    (.s, 0x10FD545040000000, .mulh ⟨21, 10, 5, 1⟩), (.s, 0x14FD545040000000, .div ⟨21, 10, 5, 1⟩),
    (.s, 0x18FD545040000000, .rem ⟨21, 10, 5, 1⟩), (.s, 0x1CFD540000001234, .addi ⟨21, 10, 0, 4660⟩),
    (.s, 0x20FD545000000000, .and ⟨21, 10, 5, 0⟩), (.s, 0x24FD545000000000, .or ⟨21, 10, 5, 0⟩),
    (.s, 0x28FD545000000000, .xor ⟨21, 10, 5, 0⟩), (.s, 0x2CFD545000000000, .shl ⟨21, 10, 5, 0⟩),
    (.s, 0x30FD545000000000, .shr ⟨21, 10, 5, 0⟩), (.s, 0x34FD545000000000, .sar ⟨21, 10, 5, 0⟩),
    (.s, 0x38FD540000001234, .andi ⟨21, 10, 0, 4660⟩), (.s, 0x3CFD540000001234, .ori ⟨21, 10, 0, 4660⟩),
    (.s, 0x40FD540000001234, .xori ⟨21, 10, 0, 4660⟩), (.s, 0x44FD54000000003F, .shli ⟨21, 10, 0, 63⟩),
    (.s, 0x48FD54000000003E, .shri ⟨21, 10, 0, 62⟩), (.s, 0x4CFD540000000021, .sari ⟨21, 10, 0, 33⟩),
    (.s, 0x50FD545040000000, .min ⟨21, 10, 5, 1⟩), (.s, 0x54FD545040000000, .max ⟨21, 10, 5, 1⟩),
    (.s, 0x58FD540000000000, .clz ⟨21, 10, 0, 0⟩), (.s, 0x5CFD540000000000, .popc ⟨21, 10, 0, 0⟩),
    (.s, 0x60FD6ABCDEF01234, .movi ⟨21, 46990682493492⟩), (.s, 0x64FD40000002FEDC, .movhi ⟨21, 196316⟩),
    (.s, 0x68FD545DC0000000, .sel ⟨21, 10, 5, 55⟩), (.s, 0x6CFAD45180000000, .cmp ⟨11, 10, 5, 6⟩),
    (.s, 0x70FDD47ABCDEF012, .cmpi ⟨23, 10, 3, 114837876754⟩), (.s, 0x74F9C74900000000, .plog ⟨7, 3, 20, 9⟩)]
theorem test_words_s1 : wordsS1.all reads = true := by decide +kernel
/-- Words of the S map (R47). -/
def wordsS2 : List (Slot × W64 × Instr) :=
  [(.s, 0x78FD400000000000, .pget ⟨21, 0, 0, 0⟩), (.s, 0x7CF8145000000000, .pset ⟨0, 10, 5, 0⟩),
    (.s, 0x80FD545401C00000, .fadd ⟨21, 10, 5, 8, 0, 3, 1⟩), (.s, 0x84FD545482800000, .fsub ⟨21, 10, 5, 9, 0, 5, 0⟩),
    (.s, 0x88FD545500400000, .fmul ⟨21, 10, 5, 10, 0, 0, 1⟩),
    (.s, 0x8CFD545400800000, .ffma ⟨21, 10, 5, 8, 0, 1, 0⟩), (.s, 0x90FD545401000000, .fdiv ⟨21, 10, 5, 8, 0, 2, 0⟩),
    (.s, 0x94FD540400000000, .fsqrt ⟨21, 10, 0, 8, 0, 0, 0⟩),
    (.s, 0x98FD545400000000, .fmin ⟨21, 10, 5, 8, 0, 0, 0⟩), (.s, 0x9CFD545400000000, .fmax ⟨21, 10, 5, 8, 0, 0, 0⟩),
    (.s, 0xA0FB545418000000, .fcmp ⟨13, 10, 5, 8, 6, 0, 0⟩),
    (.s, 0xA4FD5405BE000000, .fcvt ⟨21, 10, 0, 11, 15, 4, 0⟩),
    (.s, 0xA8FD5403B0000000, .fcvti ⟨21, 10, 0, 7, 12, 0, 0⟩),
    (.s, 0xACFD540714400000, .icvtf ⟨21, 10, 0, 14, 5, 0, 1⟩), (.s, 0xB0F8000000000234, .br ⟨0, 0, 564⟩),
    (.s, 0xB4FD400000000234, .brl ⟨21, 0, 564⟩), (.s, 0xB8FD540000000000, .brr ⟨21, 10, 0, 0⟩),
    (.s, 0xBCF8156000001234, .loop ⟨0, 10, 11, 4660⟩), (.s, 0xC0F8100000000234, .loopb ⟨0, 4, 564⟩),
    (.s, 0xC4F8000000001ABC, .brswap ⟨0, 0, 6844⟩), (.s, 0xC8F8000000000000, .ifence),
    (.s, 0xCCFB940000000000, .xlat ⟨14, 10, 0, 0⟩), (.s, 0xD0FA400000000000, .hrel ⟨9, 0, 0, 0⟩),
    (.s, 0xD4FC001D00000000, .fenceC ⟨32771, 5⟩), (.s, 0xD8F8000400000000, .fenceSc ⟨0, 4⟩),
    (.s, 0xDCF8000000000000, .spfence), (.s, 0xE0F8000000000000, .fenceSmp),
    (.s, 0xE4FD400800000000, .mfcr ⟨21, 0, 64⟩), (.s, 0xE8F81405A0000000, .mtcr ⟨0, 10, 45⟩),
    (.s, 0xECF800000000BEEF, .trap ⟨0, 48879⟩)]
theorem test_words_s2 : wordsS2.all reads = true := by decide +kernel
/-- Words of the V map (R49). -/
def wordsV1 : List (Slot × W64 × Instr) :=
  [(.v0, 0x00F8000000000000, .nop .v0), (.v1, 0x04FA2C62922DA100, .vadd ⟨69, 17, 138, 9, 22, 26, 2, 0, 0, 0⟩),
    (.v0, 0x08FA2C62922DA400, .vsub ⟨69, 17, 138, 9, 22, 26, 8, 0, 0, 0⟩),
    (.v1, 0x0CFA2C62922DA400, .vmul ⟨69, 17, 138, 9, 22, 26, 8, 0, 0, 0⟩),
    (.v0, 0x10FA2C62922DA458, .vfma ⟨69, 17, 138, 9, 22, 26, 8, 5, 1, 0⟩),
    (.v1, 0x14FA2C62922DA400, .vmin ⟨69, 17, 138, 9, 22, 26, 8, 0, 0, 0⟩),
    (.v0, 0x18FA2C62922DA400, .vmax ⟨69, 17, 138, 9, 22, 26, 8, 0, 0, 0⟩),
    (.v1, 0x1CFA2C6292000400, .vabs ⟨69, 17, 138, 9, 0, 0, 8, 0, 0, 0⟩),
    (.v0, 0x20FA2C6292000188, .vneg ⟨69, 17, 138, 9, 0, 0, 3, 0, 1, 0⟩),
    (.v1, 0x24FA2C6293300400, .vadds ⟨69, 17, 138, 9, 19, 0, 8, 0, 0, 0⟩),
    (.v0, 0x28FA2C6293300400, .vsubs ⟨69, 17, 138, 9, 19, 0, 8, 0, 0, 0⟩),
    (.v1, 0x2CFA2C6293300400, .vmuls ⟨69, 17, 138, 9, 19, 0, 8, 0, 0, 0⟩),
    (.v0, 0x30FA2C6293300400, .vfmas ⟨69, 17, 138, 9, 19, 0, 8, 0, 0, 0⟩),
    (.v1, 0x34FA2C6293300400, .vmins ⟨69, 17, 138, 9, 19, 0, 8, 0, 0, 0⟩),
    (.v0, 0x38FA2C6293300400, .vmaxs ⟨69, 17, 138, 9, 19, 0, 8, 0, 0, 0⟩),
    (.v1, 0x3CFA2C62922DA400, .vclamp ⟨69, 17, 138, 9, 22, 26, 8, 0, 0, 0⟩),
    (.v0, 0x40FA2C62922DA200, .vand ⟨69, 17, 138, 9, 22, 26, 4, 0, 0, 0⟩),
    (.v1, 0x44FA2C62922DA280, .vor ⟨69, 17, 138, 9, 22, 26, 5, 0, 0, 0⟩),
    (.v0, 0x48FA2C62922DA300, .vxor ⟨69, 17, 138, 9, 22, 26, 6, 0, 0, 0⟩),
    (.v1, 0x4CFA2C6292000980, .vnot ⟨69, 17, 138, 9, 0, 0, 19, 0, 0, 0⟩),
    (.v0, 0x50FA2C62922DA300, .vshl ⟨69, 17, 138, 9, 22, 26, 6, 0, 0, 0⟩),
    (.v1, 0x54FA2C62922DA080, .vshr ⟨69, 17, 138, 9, 22, 26, 1, 0, 0, 0⟩),
    (.v0, 0x58FA2C62922DA000, .vsar ⟨69, 17, 138, 9, 22, 26, 0, 0, 0, 0⟩),
    (.v1, 0x5CFA2C6292000380, .vpopc ⟨69, 17, 138, 9, 0, 0, 7, 0, 0, 0⟩),
    (.v0, 0x60FA2C62922DA470, .vcmp ⟨69, 17, 138, 9, 22, 26, 8, 7, 0, 0⟩),
    (.v1, 0x64FA2C62922DA680, .vsel ⟨69, 17, 138, 9, 22, 26, 13, 0, 0, 0⟩),
    (.v0, 0x68FA2C6292000000, .vmov ⟨69, 17, 138, 9, 0, 0, 0, 0, 0, 0⟩),
    (.v1, 0x6CFA2C4000000000, .vzero ⟨69, 17, 0, 0, 0, 0, 0, 0, 0, 0⟩),
    (.v0, 0x70FA2C4000000400, .viota ⟨69, 17, 0, 0, 0, 0, 8, 0, 0, 0⟩),
    (.v1, 0x74FA2C4001300400, .vbcast ⟨69, 17, 0, 0, 19, 0, 8, 0, 0, 0⟩)]
theorem test_words_v1 : wordsV1.all reads = true := by decide +kernel
/-- Words of the V map (R49). -/
def wordsV2 : List (Slot × W64 × Instr) :=
  [(.v0, 0x78F800229331F400, .vextr ⟨0, 0, 138, 9, 19, 31, 8, 0, 0, 0⟩),
    (.v1, 0x7CFA2C400131E400, .vins ⟨69, 17, 0, 0, 19, 30, 8, 0, 0, 0⟩),
    (.v0, 0x80FA2C62929006B8, .vcvt ⟨69, 17, 138, 9, 9, 13, 3, 1, 0⟩),
    (.v1, 0x84FA2C62922DA200, .vperm ⟨69, 17, 138, 9, 22, 26, 4, 0, 0, 0⟩),
    (.v0, 0x88FA2C62933A5400, .vrot ⟨69, 17, 138, 9, 19, 165, 8, 0, 0, 0⟩),
    (.v1, 0x8CFA2C62922DA100, .vmulh ⟨69, 17, 138, 9, 22, 26, 2, 0, 0, 0⟩),
    (.v0, 0x90FA2C6293307400, .vscale ⟨69, 17, 138, 9, 19, 7, 8, 0, 0, 0⟩),
    (.v0, 0xA0FA2C6292000400, .vrsum ⟨69, 17, 138, 9, 0, 0, 8, 0, 0, 0⟩),
    (.v1, 0xA4FA2C62922DA400, .vdot ⟨69, 17, 138, 9, 22, 26, 8, 0, 0, 0⟩),
    (.v0, 0xA8FA2C6292000400, .vrmax ⟨69, 17, 138, 9, 0, 0, 8, 0, 0, 0⟩),
    (.v1, 0xACFA2C6292000400, .vrmin ⟨69, 17, 138, 9, 0, 0, 8, 0, 0, 0⟩),
    (.v0, 0xC0FA2C6292000400, .vexp2 ⟨69, 17, 138, 9, 0, 0, 8, 0, 0, 0⟩),
    (.v1, 0xC4FA2C6292000400, .vlog2 ⟨69, 17, 138, 9, 0, 0, 8, 0, 0, 0⟩),
    (.v0, 0xC8FA2C6292000400, .vrcp ⟨69, 17, 138, 9, 0, 0, 8, 0, 0, 0⟩),
    (.v1, 0xCCFA2C6292000400, .vrsq ⟨69, 17, 138, 9, 0, 0, 8, 0, 0, 0⟩),
    (.v0, 0xD0FA2C6292000400, .vtanh ⟨69, 17, 138, 9, 0, 0, 8, 0, 0, 0⟩),
    (.v0, 0xE0F80022920A0400, .pmov ⟨0, 0, 138, 9, 5, 8, 0, 0, 0⟩),
    (.v1, 0xE4FA2C40001C0000, .ptake ⟨69, 17, 0, 0, 14, 0, 0, 0, 0⟩)]
theorem test_words_v2 : wordsV2.all reads = true := by decide +kernel
/-- Words of the M map (R51). -/
def wordsM : List (Slot × W64 × Instr) :=
  [(.m, 0x00F8000000000000, .nop .m), (.m, 0x04F99E2B80580000, .mma ⟨51, 6, 1, 11, 16, 0, 11⟩),
    (.m, 0x08F99E2B80580000, .mmaz ⟨51, 6, 1, 11, 16, 0, 11⟩),
    (.m, 0x0CF99A2F2C600000, .mout ⟨51, 69, 14, 11, 0, 1, 1⟩),
    (.m, 0x10F99AAAF3781300, .mouts ⟨51, 10, 11259360, 9, 4, 0, 0⟩),
    (.m, 0x14F9980000000000, .mzero ⟨51, 0, 0, 0, 0, 0, 0⟩), (.m, 0x18FD028A40000000, .rset ⟨5, 0, 10, 5, 2⟩),
    (.m, 0x1CFD6801E0000000, .rpush ⟨5, 13, 0, 0, 15⟩), (.m, 0x20FD0000E0000000, .rpop ⟨5, 0, 0, 0, 7⟩),
    (.m, 0x24FDA80020000000, .rget ⟨5, 21, 0, 0, 1⟩)]
theorem test_words_m : wordsM.all reads = true := by decide +kernel
/-- Words of the L map (R53). -/
def wordsL : List (Slot × W64 × Instr) :=
  [(.l, 0x00F8000000000000, .nop .l), (.l, 0x04F80572534159E0, .ldg ⟨21, 12, 18, 9, 5, 11068, 0⟩),
    (.l, 0x08F80572534159E0, .ldgAcq ⟨21, 12, 18, 9, 5, 11068, 0⟩),
    (.l, 0x0CFC5FB2534159E0, .ldgr ⟨4478, 12, 18, 9, 5, 11068, 0⟩),
    (.l, 0x10FA58F2534159E0, .ldgrAcq ⟨2403, 12, 18, 9, 5, 11068, 0⟩),
    (.l, 0x14FBF832534159E0, .ldgt ⟨4064, 12, 18, 9, 5, 11068, 0⟩),
    (.l, 0x18F805553579BC00, .lds ⟨21, 10, 10140894, 0⟩), (.l, 0x1CF95FD53579BC00, .ldsr ⟨1407, 10, 10140894, 0⟩),
    (.l, 0x20FA00153579BC00, .ldst ⟨2048, 10, 10140894, 0⟩), (.l, 0x24F803553579BC00, .ldsc ⟨13, 10, 10140894, 0⟩),
    (.l, 0x28F803F2534159E0, .ldscg ⟨15, 12, 18, 9, 5, 11068, 0⟩),
    (.l, 0x2CFA2C74765C0000, .ldsmp ⟨69, 17, 13, 3, 22, 11, 1, 0, 0⟩)]
theorem test_words_l : wordsL.all reads = true := by decide +kernel
/-- Words of the T map (R54). -/
def wordsT : List (Slot × W64 × Instr) :=
  [(.t, 0x00F8000000000000, .nop .t), (.t, 0x04F80572534159E0, .stg ⟨21, 12, 18, 9, 5, 11068, 0⟩),
    (.t, 0x08F80572534159E0, .stgRel ⟨21, 12, 18, 9, 5, 11068, 0⟩),
    (.t, 0x0CFC5FB2534159E0, .stgr ⟨4478, 12, 18, 9, 5, 11068, 0⟩),
    (.t, 0x10FA58F2534159E0, .stgrRel ⟨2403, 12, 18, 9, 5, 11068, 0⟩),
    (.t, 0x14FBF832534159E0, .stgt ⟨4064, 12, 18, 9, 5, 11068, 0⟩),
    (.t, 0x18F805553579BC00, .sts ⟨21, 10, 10140894, 0⟩), (.t, 0x1CF95FD53579BC00, .stsr ⟨1407, 10, 10140894, 0⟩),
    (.t, 0x20FA00153579BC00, .stst ⟨2048, 10, 10140894, 0⟩),
    (.t, 0x24FFFFD53579BC00, .spclr ⟨8191, 10, 10140894, 0⟩),
    (.t, 0x28FAAA953579BC00, .spfill ⟨2730, 10, 10140894, 0⟩),
    (.t, 0x40FD4A0C94D3CD28, .aadd ⟨21, 5, 0, 12, 18, 9, 5, 7, 2469⟩),
    (.t, 0x44FD4A0C94D14D28, .amin ⟨21, 5, 0, 12, 18, 9, 5, 2, 2469⟩),
    (.t, 0x48FD4A0C94D1CD28, .amax ⟨21, 5, 0, 12, 18, 9, 5, 3, 2469⟩),
    (.t, 0x4CFD4A0C94D34D28, .aand ⟨21, 5, 0, 12, 18, 9, 5, 6, 2469⟩),
    (.t, 0x50FD4A0C94D34D28, .aor ⟨21, 5, 0, 12, 18, 9, 5, 6, 2469⟩),
    (.t, 0x54FD4A0C94D3CD28, .axor ⟨21, 5, 0, 12, 18, 9, 5, 7, 2469⟩),
    (.t, 0x58FD4A0C94D3CD28, .axchg ⟨21, 5, 0, 12, 18, 9, 5, 7, 2469⟩),
    (.t, 0x5CFD4BBC94D34D28, .acas ⟨21, 5, 27, 12, 18, 9, 5, 6, 2469⟩),
    (.t, 0x60FD4A0C94D44D28, .afadd ⟨21, 5, 0, 12, 18, 9, 5, 8, 2469⟩)]
theorem test_words_t : wordsT.all reads = true := by decide +kernel
/-- Words of the X map (R56). -/
def wordsX : List (Slot × W64 × Instr) :=
  [(.x, 0x00F8000000000000, .nop .x), (.x, 0x04F92A2C001D1000, .epush ⟨9, 10, 5, 32771, 5, 1⟩),
    (.x, 0x08FD491000000000, .epop ⟨21, 9, 1⟩), (.x, 0x0CFD490000000000, .eqstat ⟨21, 9, 0⟩),
    (.x, 0x10FE8A4A80246800, .send ⟨6, 138, 9, 10, 4660, 0⟩),
    (.x, 0x14F88A4A80246800, .recv ⟨0, 138, 9, 10, 4660, 0⟩),
    (.x, 0x18FD8A4A80246800, .recvadd ⟨5, 138, 9, 10, 4660, 0⟩),
    (.x, 0x20FE42848D000000, .semadd ⟨200, 10, 4660, 0, 0⟩), (.x, 0x24FE42848D000000, .semset ⟨200, 10, 4660, 0, 0⟩),
    (.x, 0x28FE40000002A000, .semrd ⟨200, 0, 0, 0, 21⟩), (.x, 0x2CFE42848D040000, .semwait ⟨200, 10, 4660, 1, 0⟩),
    (.x, 0x30F8000000000000, .barc ⟨0, 0, 0, 0, 0⟩), (.x, 0x34F8000000000000, .barg ⟨0, 0, 0, 0, 0⟩),
    (.x, 0x38FF155000000000, .ovl ⟨1, 12, 10, 21⟩), (.x, 0x40F80A2C001D1000, .cpy ⟨0, 10, 5, 32771, 5, 1⟩),
    (.x, 0x44F80A2C001D1000, .cpyt ⟨0, 10, 5, 32771, 5, 1⟩), (.x, 0x48F80A2C001D1000, .cpyf ⟨0, 10, 5, 32771, 5, 1⟩),
    (.x, 0x4CF80A2C001D1000, .cpyh ⟨0, 10, 5, 32771, 5, 1⟩), (.x, 0x50F80A2C001D1000, .bxch ⟨0, 10, 5, 32771, 5, 1⟩),
    (.x, 0x54FD4F3000000000, .fdrd ⟨21, 15, 3⟩), (.x, 0x60F80A2C001D1000, .allred ⟨0, 10, 5, 32771, 5, 1⟩),
    (.x, 0x64F80A2C001D1000, .rscat ⟨0, 10, 5, 32771, 5, 1⟩),
    (.x, 0x68F80A2C001D1000, .agath ⟨0, 10, 5, 32771, 5, 1⟩),
    (.x, 0x6CF80A2C001D1000, .bcast ⟨0, 10, 5, 32771, 5, 1⟩),
    (.x, 0x70F80A2C001D1000, .alltoall ⟨0, 10, 5, 32771, 5, 1⟩),
    (.x, 0x74F80A2C001D1000, .reshard ⟨0, 10, 5, 32771, 5, 1⟩), (.x, 0x78FD4D0000000000, .cstatReshard ⟨21, 13, 0⟩),
    (.x, 0x78FD401000000000, .cstatLinks ⟨21, 0, 1⟩), (.x, 0x80F9EA2C001D1000, .plq ⟨15, 10, 5, 32771, 5, 1⟩),
    (.x, 0x84FD7CB000000000, .plres ⟨21, 60, 11⟩)]
theorem test_words_x : wordsX.all reads = true := by decide +kernel

/-! Terms that a check refuses: each breaks one of them. -/

/-- Operations with one operand field that their entries do not allow (R57 step 3). -/
def badFields1 : List Instr :=
  [.add ⟨21, 10, 5, 1⟩, .sub ⟨21, 10, 5, 1⟩, .mul ⟨21, 10, 5, 1⟩, .mulh ⟨21, 10, 5, 2⟩, .div ⟨21, 10, 5, 2⟩,
    .rem ⟨21, 10, 5, 2⟩, .addi ⟨21, 10, 1, 4660⟩, .and ⟨21, 10, 5, 1⟩, .or ⟨21, 10, 5, 1⟩, .xor ⟨21, 10, 5, 1⟩,
    .shl ⟨21, 10, 5, 1⟩, .shr ⟨21, 10, 5, 1⟩, .sar ⟨21, 10, 5, 1⟩, .andi ⟨21, 10, 1, 4660⟩, .ori ⟨21, 10, 1, 4660⟩,
    .xori ⟨21, 10, 1, 4660⟩, .shli ⟨21, 10, 0, 64⟩, .shri ⟨21, 10, 0, 64⟩, .sari ⟨21, 10, 0, 64⟩,
    .min ⟨21, 10, 5, 2⟩, .max ⟨21, 10, 5, 2⟩, .clz ⟨21, 10, 1, 0⟩, .popc ⟨21, 10, 1, 0⟩, .movhi ⟨21, 262144⟩,
    .cmp ⟨11, 10, 5, 8⟩, .cmpi ⟨23, 10, 8, 114837876754⟩, .pget ⟨21, 1, 0, 0⟩, .pset ⟨1, 10, 5, 0⟩,
    .fadd ⟨21, 10, 5, 11, 0, 3, 1⟩, .fadd ⟨21, 10, 5, 8, 1, 3, 1⟩, .fadd ⟨21, 10, 5, 8, 0, 6, 1⟩,
    .fsub ⟨21, 10, 5, 11, 0, 5, 0⟩, .fsub ⟨21, 10, 5, 9, 1, 5, 0⟩, .fsub ⟨21, 10, 5, 9, 0, 6, 0⟩,
    .fmul ⟨21, 10, 5, 11, 0, 0, 1⟩, .fmul ⟨21, 10, 5, 10, 1, 0, 1⟩, .fmul ⟨21, 10, 5, 10, 0, 6, 1⟩,
    .ffma ⟨21, 10, 5, 11, 0, 1, 0⟩, .ffma ⟨21, 10, 5, 8, 1, 1, 0⟩, .ffma ⟨21, 10, 5, 8, 0, 6, 0⟩,
    .fdiv ⟨21, 10, 5, 11, 0, 2, 0⟩, .fdiv ⟨21, 10, 5, 8, 1, 2, 0⟩, .fdiv ⟨21, 10, 5, 8, 0, 6, 0⟩,
    .fsqrt ⟨21, 10, 1, 8, 0, 0, 0⟩, .fmin ⟨21, 10, 5, 8, 0, 1, 0⟩, .fmin ⟨21, 10, 5, 8, 0, 0, 1⟩,
    .fmax ⟨21, 10, 5, 8, 0, 1, 0⟩, .fmax ⟨21, 10, 5, 8, 0, 0, 1⟩, .fcmp ⟨13, 10, 5, 8, 8, 0, 0⟩,
    .fcmp ⟨13, 10, 5, 8, 6, 1, 0⟩, .fcmp ⟨13, 10, 5, 8, 6, 0, 1⟩, .fcmp ⟨13, 10, 5, 11, 6, 0, 0⟩,
    .fcvt ⟨21, 10, 0, 7, 15, 4, 0⟩, .fcvt ⟨21, 10, 0, 11, 16, 4, 0⟩, .fcvt ⟨21, 10, 1, 11, 15, 4, 0⟩,
    .fcvt ⟨21, 10, 0, 11, 15, 6, 0⟩, .fcvti ⟨21, 10, 0, 8, 12, 0, 0⟩, .fcvti ⟨21, 10, 0, 7, 7, 0, 0⟩,
    .fcvti ⟨21, 10, 0, 7, 12, 0, 1⟩, .icvtf ⟨21, 10, 0, 7, 5, 0, 1⟩, .icvtf ⟨21, 10, 0, 14, 8, 0, 1⟩,
    .br ⟨1, 0, 564⟩, .br ⟨0, 1, 564⟩, .br ⟨0, 0, 4096⟩, .brl ⟨21, 1, 564⟩, .brl ⟨21, 0, 4096⟩, .brr ⟨21, 10, 1, 0⟩,
    .loop ⟨6, 10, 0, 4660⟩, .loop ⟨1, 10, 8, 4660⟩, .loop ⟨0, 10, 1, 4660⟩]
theorem test_bad_fields_1 : badFields1.all (fun i => !i.fieldsOk) = true := by decide +kernel
/-- Operations with one operand field that their entries do not allow (R57 step 3). -/
def badFields2 : List Instr :=
  [.loopb ⟨0, 6, 564⟩, .loopb ⟨1, 4, 564⟩, .loopb ⟨0, 4, 4096⟩, .brswap ⟨0, 0, 4095⟩, .xlat ⟨16, 10, 0, 0⟩,
    .xlat ⟨14, 10, 1, 0⟩, .hrel ⟨16, 0, 0, 0⟩, .hrel ⟨9, 1, 0, 0⟩, .fenceC ⟨0, 5⟩, .fenceC ⟨32771, 6⟩,
    .fenceSc ⟨1, 4⟩, .fenceSc ⟨0, 7⟩, .mfcr ⟨21, 1, 64⟩, .mfcr ⟨21, 0, 4⟩, .mtcr ⟨1, 10, 45⟩, .mtcr ⟨0, 10, 50⟩,
    .trap ⟨1, 48879⟩, .trap ⟨0, 65536⟩, .vadd ⟨69, 17, 138, 9, 22, 26, 13, 0, 0, 0⟩,
    .vadd ⟨69, 17, 138, 9, 22, 26, 8, 6, 0, 0⟩, .vadd ⟨69, 17, 138, 9, 22, 26, 2, 1, 0, 0⟩,
    .vadd ⟨69, 17, 140, 9, 22, 26, 2, 0, 0, 0⟩, .vadd ⟨140, 17, 138, 9, 22, 26, 2, 0, 0, 0⟩,
    .vadd ⟨69, 17, 138, 9, 140, 26, 2, 0, 0, 0⟩, .vsub ⟨69, 17, 138, 9, 22, 26, 13, 0, 0, 0⟩,
    .vsub ⟨69, 17, 138, 9, 22, 26, 8, 6, 0, 0⟩, .vsub ⟨69, 17, 138, 9, 22, 26, 2, 1, 0, 0⟩,
    .vsub ⟨69, 17, 140, 9, 22, 26, 8, 0, 0, 0⟩, .vsub ⟨140, 17, 138, 9, 22, 26, 8, 0, 0, 0⟩,
    .vsub ⟨69, 17, 138, 9, 140, 26, 8, 0, 0, 0⟩, .vmul ⟨69, 17, 138, 9, 22, 26, 13, 0, 0, 0⟩,
    .vmul ⟨69, 17, 138, 9, 22, 26, 8, 6, 0, 0⟩, .vmul ⟨69, 17, 138, 9, 22, 26, 2, 1, 0, 0⟩,
    .vmul ⟨69, 17, 140, 9, 22, 26, 8, 0, 0, 0⟩, .vmul ⟨140, 17, 138, 9, 22, 26, 8, 0, 0, 0⟩,
    .vmul ⟨69, 17, 138, 9, 140, 26, 8, 0, 0, 0⟩, .vfma ⟨69, 17, 138, 9, 22, 26, 13, 5, 1, 0⟩,
    .vfma ⟨69, 17, 138, 9, 22, 26, 8, 6, 1, 0⟩, .vfma ⟨69, 17, 138, 9, 22, 26, 2, 1, 1, 0⟩,
    .vfma ⟨69, 17, 140, 9, 22, 26, 8, 5, 1, 0⟩, .vfma ⟨140, 17, 138, 9, 22, 26, 8, 5, 1, 0⟩,
    .vfma ⟨69, 17, 138, 9, 140, 26, 8, 5, 1, 0⟩, .vmin ⟨69, 17, 138, 9, 22, 26, 13, 0, 0, 0⟩,
    .vmin ⟨69, 17, 138, 9, 22, 26, 8, 1, 0, 0⟩, .vmin ⟨69, 17, 138, 9, 22, 26, 8, 0, 1, 0⟩,
    .vmax ⟨69, 17, 138, 9, 22, 26, 13, 0, 0, 0⟩, .vmax ⟨69, 17, 138, 9, 22, 26, 8, 1, 0, 0⟩,
    .vmax ⟨69, 17, 138, 9, 22, 26, 8, 0, 1, 0⟩, .vabs ⟨69, 17, 138, 9, 0, 0, 4, 0, 0, 0⟩,
 .vabs ⟨69, 17, 138, 9, 0, 0, 8, 1, 0, 0⟩,
    .vabs ⟨69, 17, 138, 9, 1, 0, 8, 0, 0, 0⟩, .vneg ⟨69, 17, 138, 9, 0, 0, 4, 0, 1, 0⟩,
    .vneg ⟨69, 17, 138, 9, 0, 0, 3, 1, 1, 0⟩,
    .vneg ⟨69, 17, 138, 9, 1, 0, 3, 0, 1, 0⟩, .vadds ⟨69, 17, 138, 9, 19, 1, 8, 0, 0, 0⟩,
    .vadds ⟨69, 17, 138, 9, 19, 0, 13, 0, 0, 0⟩, .vadds ⟨69, 17, 138, 9, 19, 0, 8, 6, 0, 0⟩,
    .vsubs ⟨69, 17, 138, 9, 19, 1, 8, 0, 0, 0⟩, .vsubs ⟨69, 17, 138, 9, 19, 0, 13, 0, 0, 0⟩,
    .vsubs ⟨69, 17, 138, 9, 19, 0, 8, 6, 0, 0⟩, .vmuls ⟨69, 17, 138, 9, 19, 1, 8, 0, 0, 0⟩,
    .vmuls ⟨69, 17, 138, 9, 19, 0, 13, 0, 0, 0⟩, .vmuls ⟨69, 17, 138, 9, 19, 0, 8, 6, 0, 0⟩,
    .vfmas ⟨69, 17, 138, 9, 19, 1, 8, 0, 0, 0⟩, .vfmas ⟨69, 17, 138, 9, 19, 0, 13, 0, 0, 0⟩,
    .vfmas ⟨69, 17, 138, 9, 19, 0, 8, 6, 0, 0⟩, .vmins ⟨69, 17, 138, 9, 19, 1, 8, 0, 0, 0⟩,
    .vmins ⟨69, 17, 138, 9, 19, 0, 8, 1, 0, 0⟩]
theorem test_bad_fields_2 : badFields2.all (fun i => !i.fieldsOk) = true := by decide +kernel
/-- Operations with one operand field that their entries do not allow (R57 step 3). -/
def badFields3 : List Instr :=
  [.vmaxs ⟨69, 17, 138, 9, 19, 1, 8, 0, 0, 0⟩, .vmaxs ⟨69, 17, 138, 9, 19, 0, 8, 1, 0, 0⟩,
    .vclamp ⟨69, 17, 138, 9, 22, 26, 13, 0, 0, 0⟩, .vclamp ⟨69, 17, 138, 9, 22, 26, 8, 1, 0, 0⟩,
    .vclamp ⟨69, 17, 138, 9, 22, 26, 8, 0, 1, 0⟩, .vand ⟨69, 17, 138, 9, 22, 26, 8, 0, 0, 0⟩,
    .vor ⟨69, 17, 138, 9, 22, 26, 8, 0, 0, 0⟩, .vxor ⟨69, 17, 138, 9, 22, 26, 8, 0, 0, 0⟩,
    .vnot ⟨69, 17, 138, 9, 0, 0, 8, 0, 0, 0⟩, .vnot ⟨69, 17, 138, 9, 0, 1, 19, 0, 0, 0⟩,
    .vshl ⟨69, 17, 138, 9, 22, 26, 8, 0, 0, 0⟩, .vshl ⟨69, 17, 138, 9, 22, 26, 6, 1, 0, 0⟩,
    .vshl ⟨69, 17, 138, 9, 22, 26, 6, 0, 1, 0⟩, .vshr ⟨69, 17, 138, 9, 22, 26, 8, 0, 0, 0⟩,
    .vshr ⟨69, 17, 138, 9, 22, 26, 1, 1, 0, 0⟩, .vshr ⟨69, 17, 138, 9, 22, 26, 1, 0, 1, 0⟩,
    .vsar ⟨69, 17, 138, 9, 22, 26, 8, 0, 0, 0⟩, .vsar ⟨69, 17, 138, 9, 22, 26, 0, 1, 0, 0⟩,
    .vsar ⟨69, 17, 138, 9, 22, 26, 0, 0, 1, 0⟩, .vpopc ⟨69, 17, 138, 9, 0, 1, 7, 0, 0, 0⟩,
    .vpopc ⟨69, 17, 138, 9, 0, 0, 19, 0, 0, 0⟩, .vcmp ⟨69, 17, 138, 9, 22, 26, 2, 6, 0, 0⟩,
    .vcmp ⟨69, 17, 138, 9, 22, 26, 8, 7, 1, 0⟩, .vcmp ⟨69, 17, 138, 9, 22, 26, 13, 7, 0, 0⟩,
    .vsel ⟨69, 17, 138, 9, 22, 26, 14, 0, 0, 0⟩, .vmov ⟨69, 17, 138, 9, 0, 0, 1, 0, 0, 0⟩,
    .vmov ⟨69, 17, 138, 9, 1, 0, 0, 0, 0, 0⟩, .vzero ⟨69, 17, 1, 0, 0, 0, 0, 0, 0, 0⟩,
    .vzero ⟨69, 17, 0, 0, 0, 0, 8, 0, 0, 0⟩, .viota ⟨69, 17, 1, 0, 0, 0, 8, 0, 0, 0⟩,
    .viota ⟨69, 17, 0, 0, 0, 0, 11, 0, 0, 0⟩, .vbcast ⟨69, 17, 1, 0, 19, 0, 8, 0, 0, 0⟩,
    .vbcast ⟨69, 17, 0, 0, 19, 1, 8, 0, 0, 0⟩, .vextr ⟨1, 0, 138, 9, 19, 31, 8, 0, 0, 0⟩,
    .vextr ⟨0, 0, 138, 9, 19, 32, 8, 0, 0, 0⟩, .vins ⟨69, 17, 1, 0, 19, 30, 8, 0, 0, 0⟩,
    .vins ⟨69, 17, 0, 0, 19, 32, 8, 0, 0, 0⟩, .vcvt ⟨69, 17, 138, 9, 9, 14, 3, 1, 0⟩,
    .vcvt ⟨69, 17, 138, 9, 14, 13, 3, 1, 0⟩, .vcvt ⟨69, 17, 138, 9, 1, 0, 1, 1, 0⟩,
    .vperm ⟨69, 17, 138, 9, 22, 26, 8, 0, 0, 0⟩, .vperm ⟨69, 17, 138, 9, 22, 26, 4, 1, 0, 0⟩,
    .vperm ⟨69, 17, 138, 9, 22, 26, 4, 0, 1, 0⟩, .vrot ⟨69, 17, 138, 9, 19, 165, 8, 0, 1, 0⟩,
    .vmulh ⟨69, 17, 138, 9, 22, 26, 8, 0, 0, 0⟩, .vmulh ⟨69, 17, 138, 9, 22, 26, 2, 1, 0, 0⟩,
    .vmulh ⟨69, 17, 138, 9, 22, 26, 2, 0, 1, 0⟩, .vscale ⟨69, 17, 138, 9, 19, 8, 8, 0, 0, 0⟩,
    .vscale ⟨69, 17, 138, 9, 19, 7, 11, 0, 0, 0⟩, .vrsum ⟨69, 17, 138, 9, 1, 0, 8, 0, 0, 0⟩,
    .vrsum ⟨69, 17, 138, 9, 0, 0, 13, 0, 0, 0⟩, .vdot ⟨69, 17, 138, 9, 22, 26, 13, 0, 0, 0⟩,
    .vdot ⟨69, 17, 138, 9, 22, 26, 8, 6, 0, 0⟩, .vdot ⟨69, 17, 138, 9, 22, 26, 2, 1, 0, 0⟩,
    .vdot ⟨69, 17, 140, 9, 22, 26, 8, 0, 0, 0⟩, .vdot ⟨140, 17, 138, 9, 22, 26, 8, 0, 0, 0⟩,
    .vdot ⟨69, 17, 138, 9, 140, 26, 8, 0, 0, 0⟩, .vrmax ⟨69, 17, 138, 9, 1, 0, 8, 0, 0, 0⟩,
    .vrmax ⟨69, 17, 138, 9, 0, 0, 13, 0, 0, 0⟩, .vrmax ⟨69, 17, 138, 9, 0, 0, 8, 1, 0, 0⟩,
    .vrmin ⟨69, 17, 138, 9, 1, 0, 8, 0, 0, 0⟩, .vrmin ⟨69, 17, 138, 9, 0, 0, 13, 0, 0, 0⟩,
    .vrmin ⟨69, 17, 138, 9, 0, 0, 8, 1, 0, 0⟩, .vexp2 ⟨69, 17, 138, 9, 0, 0, 11, 0, 0, 0⟩,
    .vexp2 ⟨69, 17, 138, 9, 0, 0, 8, 1, 0, 0⟩, .vlog2 ⟨69, 17, 138, 9, 0, 0, 11, 0, 0, 0⟩,
    .vlog2 ⟨69, 17, 138, 9, 0, 0, 8, 1, 0, 0⟩, .vrcp ⟨69, 17, 138, 9, 0, 0, 11, 0, 0, 0⟩,
    .vrcp ⟨69, 17, 138, 9, 0, 0, 8, 1, 0, 0⟩, .vrsq ⟨69, 17, 138, 9, 0, 0, 11, 0, 0, 0⟩]
theorem test_bad_fields_3 : badFields3.all (fun i => !i.fieldsOk) = true := by decide +kernel
/-- Operations with one operand field that their entries do not allow (R57 step 3). -/
def badFields4 : List Instr :=
  [.vrsq ⟨69, 17, 138, 9, 0, 0, 8, 1, 0, 0⟩, .vtanh ⟨69, 17, 138, 9, 0, 0, 11, 0, 0, 0⟩,
    .vtanh ⟨69, 17, 138, 9, 0, 0, 8, 1, 0, 0⟩, .pmov ⟨0, 0, 138, 9, 0, 8, 0, 0, 0⟩,
    .pmov ⟨0, 0, 138, 9, 15, 8, 0, 0, 0⟩, .pmov ⟨0, 0, 138, 9, 8, 8, 0, 0, 0⟩, .pmov ⟨1, 0, 138, 9, 5, 8, 0, 0, 0⟩,
    .pmov ⟨0, 0, 138, 9, 3, 13, 1, 0, 0⟩, .ptake ⟨69, 17, 0, 0, 0, 0, 0, 0, 0⟩,
    .ptake ⟨69, 17, 0, 0, 15, 0, 0, 0, 0⟩, .ptake ⟨69, 17, 1, 0, 14, 0, 0, 0, 0⟩,
    .ptake ⟨69, 17, 0, 0, 14, 1, 0, 0, 0⟩, .mma ⟨51, 6, 1, 9, 8, 0, 11⟩, .mma ⟨51, 1, 1, 11, 16, 0, 11⟩,
    .mma ⟨51, 6, 1, 11, 16, 1, 11⟩, .mma ⟨140, 6, 1, 11, 16, 0, 11⟩, .mmaz ⟨51, 6, 1, 9, 8, 0, 11⟩,
    .mmaz ⟨51, 1, 1, 11, 16, 0, 11⟩, .mmaz ⟨51, 6, 1, 11, 16, 1, 11⟩, .mmaz ⟨140, 6, 1, 11, 16, 0, 11⟩,
    .mout ⟨51, 69, 14, 3, 0, 1, 1⟩, .mout ⟨51, 69, 1, 11, 0, 1, 0⟩, .mout ⟨51, 69, 14, 8, 0, 1, 1⟩,
    .mout ⟨51, 140, 14, 11, 0, 1, 1⟩, .mout ⟨51, 69, 14, 11, 6, 1, 1⟩, .mouts ⟨51, 10, 11259360, 0, 1, 0, 0⟩,
    .mouts ⟨51, 10, 11259360, 14, 4, 0, 0⟩, .mouts ⟨140, 10, 11259360, 9, 4, 0, 0⟩, .mzero ⟨51, 0, 0, 1, 0, 0, 0⟩,
    .mzero ⟨51, 1, 0, 0, 0, 0, 0⟩, .rset ⟨5, 0, 10, 5, 3⟩, .rset ⟨5, 1, 10, 5, 2⟩, .rpush ⟨5, 7, 0, 0, 15⟩,
    .rpush ⟨5, 16, 0, 0, 15⟩, .rpush ⟨5, 13, 1, 0, 15⟩, .rpop ⟨5, 1, 0, 0, 7⟩, .rget ⟨5, 21, 0, 0, 2⟩,
    .ldg ⟨32, 12, 18, 9, 5, 11068, 0⟩, .ldg ⟨21, 12, 18, 9, 6, 11068, 0⟩, .ldgAcq ⟨32, 12, 18, 9, 5, 11068, 0⟩,
    .ldgAcq ⟨21, 12, 18, 9, 6, 11068, 0⟩, .ldgr ⟨4480, 12, 18, 9, 5, 11068, 0⟩, .ldgr ⟨4478, 12, 18, 9, 6, 11068, 0⟩,
    .ldgrAcq ⟨4480, 12, 18, 9, 5, 11068, 0⟩, .ldgrAcq ⟨2403, 12, 18, 9, 6, 11068, 0⟩,
    .ldgt ⟨1, 12, 18, 9, 5, 11068, 0⟩, .ldgt ⟨4064, 12, 18, 9, 6, 11068, 0⟩, .lds ⟨32, 10, 10140894, 0⟩,
    .ldsr ⟨4480, 10, 10140894, 0⟩, .ldst ⟨1, 10, 10140894, 0⟩, .ldsc ⟨16, 10, 10140894, 0⟩,
    .ldscg ⟨16, 12, 18, 9, 5, 11068, 0⟩, .ldscg ⟨15, 12, 18, 9, 6, 11068, 0⟩,
    .ldsmp ⟨140, 17, 13, 3, 22, 11, 1, 0, 0⟩, .stg ⟨32, 12, 18, 9, 5, 11068, 0⟩, .stg ⟨21, 12, 18, 9, 6, 11068, 0⟩,
    .stgRel ⟨32, 12, 18, 9, 5, 11068, 0⟩, .stgRel ⟨21, 12, 18, 9, 6, 11068, 0⟩, .stgr ⟨4480, 12, 18, 9, 5, 11068, 0⟩,
    .stgr ⟨4478, 12, 18, 9, 6, 11068, 0⟩, .stgrRel ⟨4480, 12, 18, 9, 5, 11068, 0⟩,
    .stgrRel ⟨2403, 12, 18, 9, 6, 11068, 0⟩, .stgt ⟨1, 12, 18, 9, 5, 11068, 0⟩, .stgt ⟨4064, 12, 18, 9, 6, 11068, 0⟩,
    .sts ⟨32, 10, 10140894, 0⟩, .stsr ⟨4480, 10, 10140894, 0⟩, .stst ⟨1, 10, 10140894, 0⟩,
    .aadd ⟨21, 5, 0, 12, 18, 9, 5, 8, 2469⟩, .aadd ⟨21, 5, 1, 12, 18, 9, 5, 7, 2469⟩,
    .aadd ⟨21, 5, 0, 12, 18, 9, 6, 7, 2469⟩]
theorem test_bad_fields_4 : badFields4.all (fun i => !i.fieldsOk) = true := by decide +kernel
/-- Operations with one operand field that their entries do not allow (R57 step 3). -/
def badFields5 : List Instr :=
  [.amin ⟨21, 5, 0, 12, 18, 9, 5, 8, 2469⟩, .amin ⟨21, 5, 1, 12, 18, 9, 5, 2, 2469⟩,
    .amin ⟨21, 5, 0, 12, 18, 9, 6, 2, 2469⟩, .amax ⟨21, 5, 0, 12, 18, 9, 5, 8, 2469⟩,
    .amax ⟨21, 5, 1, 12, 18, 9, 5, 3, 2469⟩, .amax ⟨21, 5, 0, 12, 18, 9, 6, 3, 2469⟩,
    .aand ⟨21, 5, 0, 12, 18, 9, 5, 8, 2469⟩, .aand ⟨21, 5, 1, 12, 18, 9, 5, 6, 2469⟩,
    .aand ⟨21, 5, 0, 12, 18, 9, 6, 6, 2469⟩, .aor ⟨21, 5, 0, 12, 18, 9, 5, 8, 2469⟩,
    .aor ⟨21, 5, 1, 12, 18, 9, 5, 6, 2469⟩, .aor ⟨21, 5, 0, 12, 18, 9, 6, 6, 2469⟩,
    .axor ⟨21, 5, 0, 12, 18, 9, 5, 8, 2469⟩, .axor ⟨21, 5, 1, 12, 18, 9, 5, 7, 2469⟩,
    .axor ⟨21, 5, 0, 12, 18, 9, 6, 7, 2469⟩, .axchg ⟨21, 5, 0, 12, 18, 9, 5, 8, 2469⟩,
    .axchg ⟨21, 5, 1, 12, 18, 9, 5, 7, 2469⟩, .axchg ⟨21, 5, 0, 12, 18, 9, 6, 7, 2469⟩,
    .acas ⟨21, 5, 27, 12, 18, 9, 5, 8, 2469⟩, .acas ⟨21, 5, 27, 12, 18, 9, 6, 6, 2469⟩,
    .afadd ⟨21, 5, 0, 12, 18, 9, 5, 2, 2469⟩, .afadd ⟨21, 5, 1, 12, 18, 9, 5, 8, 2469⟩,
    .epush ⟨3, 10, 5, 32771, 5, 1⟩, .epush ⟨16, 10, 5, 32771, 5, 1⟩, .epush ⟨9, 10, 5, 32771, 5, 2⟩,
    .epop ⟨21, 3, 1⟩, .epop ⟨21, 16, 1⟩, .epop ⟨21, 9, 2⟩, .eqstat ⟨21, 3, 0⟩, .eqstat ⟨21, 16, 0⟩,
    .eqstat ⟨21, 9, 1⟩, .send ⟨6, 140, 9, 10, 4660, 0⟩, .recv ⟨0, 140, 9, 10, 4660, 0⟩,
    .recv ⟨1, 138, 9, 10, 4660, 0⟩, .recvadd ⟨5, 140, 9, 10, 4660, 0⟩, .recvadd ⟨6, 138, 9, 10, 4660, 0⟩,
    .semadd ⟨200, 10, 4660, 1, 0⟩, .semadd ⟨200, 10, 4660, 0, 1⟩, .semset ⟨200, 10, 4660, 1, 0⟩,
    .semset ⟨200, 10, 4660, 0, 1⟩, .semrd ⟨200, 1, 0, 0, 21⟩, .semrd ⟨200, 0, 1, 0, 21⟩,
    .semwait ⟨200, 10, 4660, 2, 0⟩, .semwait ⟨200, 10, 4660, 1, 1⟩, .barc ⟨1, 0, 0, 0, 0⟩, .barc ⟨0, 0, 1, 0, 0⟩,
    .barc ⟨0, 0, 0, 0, 1⟩, .barg ⟨1, 0, 0, 0, 0⟩, .barg ⟨0, 0, 1, 0, 0⟩, .barg ⟨0, 0, 0, 0, 1⟩,
    .cpy ⟨1, 10, 5, 32771, 5, 1⟩, .cpy ⟨0, 10, 5, 32771, 5, 2⟩, .cpy ⟨0, 10, 5, 32771, 6, 1⟩,
    .cpyt ⟨1, 10, 5, 32771, 5, 1⟩, .cpyt ⟨0, 10, 5, 32771, 5, 2⟩, .cpyt ⟨0, 10, 5, 32771, 6, 1⟩,
    .cpyf ⟨1, 10, 5, 32771, 5, 1⟩, .cpyf ⟨0, 10, 5, 32771, 5, 2⟩, .cpyf ⟨0, 10, 5, 32771, 6, 1⟩,
    .cpyh ⟨1, 10, 5, 32771, 5, 1⟩, .cpyh ⟨0, 10, 5, 32771, 5, 2⟩, .cpyh ⟨0, 10, 5, 32771, 6, 1⟩,
    .bxch ⟨1, 10, 5, 32771, 5, 1⟩, .bxch ⟨0, 10, 5, 32771, 5, 2⟩, .bxch ⟨0, 10, 5, 32771, 6, 1⟩, .fdrd ⟨21, 16, 3⟩,
    .fdrd ⟨21, 15, 4⟩, .allred ⟨1, 10, 5, 32771, 5, 1⟩, .allred ⟨0, 10, 5, 32771, 5, 2⟩,
    .allred ⟨0, 10, 5, 32771, 6, 1⟩]
theorem test_bad_fields_5 : badFields5.all (fun i => !i.fieldsOk) = true := by decide +kernel
/-- Operations with one operand field that their entries do not allow (R57 step 3). -/
def badFields6 : List Instr :=
  [.rscat ⟨1, 10, 5, 32771, 5, 1⟩, .rscat ⟨0, 10, 5, 32771, 5, 2⟩, .rscat ⟨0, 10, 5, 32771, 6, 1⟩,
    .agath ⟨1, 10, 5, 32771, 5, 1⟩, .agath ⟨0, 10, 5, 32771, 5, 2⟩, .agath ⟨0, 10, 5, 32771, 6, 1⟩,
    .bcast ⟨1, 10, 5, 32771, 5, 1⟩, .bcast ⟨0, 10, 5, 32771, 5, 2⟩, .bcast ⟨0, 10, 5, 32771, 6, 1⟩,
    .alltoall ⟨1, 10, 5, 32771, 5, 1⟩, .alltoall ⟨0, 10, 5, 32771, 5, 2⟩, .alltoall ⟨0, 10, 5, 32771, 6, 1⟩,
    .reshard ⟨1, 10, 5, 32771, 5, 1⟩, .reshard ⟨0, 10, 5, 32771, 5, 2⟩, .reshard ⟨0, 10, 5, 32771, 6, 1⟩,
    .plq ⟨2, 10, 5, 32771, 5, 1⟩, .plq ⟨16, 10, 5, 32771, 5, 1⟩, .plq ⟨15, 10, 5, 32771, 5, 2⟩, .plres ⟨21, 7, 11⟩,
    .plres ⟨21, 48, 11⟩, .cstatReshard ⟨21, 16, 0⟩, .cstatReshard ⟨21, 2, 1⟩, .cstatLinks ⟨21, 1, 1⟩,
    .cstatLinks ⟨21, 0, 0⟩]
theorem test_bad_fields_6 : badFields6.all (fun i => !i.fieldsOk) = true := by decide +kernel

/-- R36: a predicate that is read or written lies below 24, or is 31 where it is read. -/
theorem test_bad_predicates :
    ([.cmp ⟨24, 1, 2, 0⟩, .cmp ⟨31, 1, 2, 0⟩, .cmpi ⟨24, 1, 0, 0⟩, .fcmp ⟨24, 1, 2, 8, 0, 0, 0⟩, .sel ⟨1, 2, 3, 24⟩, .plog ⟨24, 1, 2, 0⟩,
      .plog ⟨1, 24, 2, 0⟩, .plog ⟨1, 2, 30, 0⟩] : List Instr).all (fun i => i.fieldsOk && !i.predsOk) = true := by decide +kernel

/-- R36, R44, R231: HOLD, STEP and PSEL of a whole word. -/
theorem test_bad_words :
    ([⟨⟨1, 0, 31⟩, .br ⟨0, 0, 5⟩⟩, ⟨⟨1, 0, 31⟩, .barc ⟨0, 0, 0, 0, 0⟩⟩, ⟨⟨1, 0, 31⟩, .aadd ⟨4, 2, 0, 1, 0, 1, 3, 2, 0⟩⟩,
      ⟨⟨1, 0, 31⟩, .trap ⟨0, 5⟩⟩, ⟨⟨0, 0, 31⟩, .lds ⟨4, 5, 0, 1⟩⟩, ⟨⟨0, 0, 3⟩, .barg ⟨0, 0, 0, 0, 0⟩⟩, ⟨⟨0, 0, 24⟩, .ifence⟩,
      ⟨⟨0, 1, 31⟩, .ifence⟩] : List SlotWord).all (fun w => !w.wf) = true := by decide +kernel

/-- R31: the header values that are refused. -/
theorem test_bad_headers :
    ([{ Header.plain 1 with kind := 2 }, { Header.plain 1 with sen := 1 }, { Header.plain 1 with ssem := 1 }, { Header.plain 1 with sinc := 1 },
      { Header.plain 1 with sat := 1 }, { Header.plain 1 with wsem := 1 }, { Header.plain 1 with wthr := 1 }, { Header.plain 1 with wdec := 1 }] :
      List Header).all (fun h => !h.wf) = true := by decide +kernel

/-- R57: a dash of each map, and a set bit that the format marks zero, are refused in step 1 and 2; a reserved field in step 3, a
reserved predicate in step 4; and a header with a bit above 41 set. -/
theorem test_refused_words :
    ([(.s, 0xF0F8000000000000), (.v0, 0x94F8000000000000), (.m, 0x28F8000000000000), (.l, 0x30F8000000000000), (.t, 0x2CF8000000000000),
      (.x, 0x1CF8000000000000), (.s, 0x04FD545000000001), (.s, 0xC8F8000000000001), (.s, 0x04FD545040000000)] : List (Slot × W64)).all
      (fun e => match decodeSlot e.1 e.2 with | .error .illegalSlot => true | _ => false) = true ∧
    (match decodeSlot .s 0x04C5545000000000 with | .error .predReserved => true | _ => false) = true ∧
    decodeHeader 0x0000040000000001 = none ∧ decodeHeader 0x0000020000000001 = none := by decide +kernel

/-- R28, R35: the words of a plain bundle, header first, are read as its operation; and a bundle that is not plain as an issue. -/
theorem test_bundle_words :
    decodeTableWord 128 0x04FD5450000000000000000000000001 = some (.add ⟨21, 10, 5, 0⟩) ∧
    decodeTableWord 192 0x04FA2C62922DA10004FD5450000000000000000000000003 = some (.bundleIssue 0) ∧
    decodeTableWord 192 0x04FD54504000000004FD5450000000000000000000000003 = none := by decide +kernel

/-! Witnesses: for each statement a state and operands that meet its hypotheses, clause by clause. -/

/-- Whether each of some operations of a slot finds nothing to wait for and no trap in a state. -/
def goes (s : State) (sl : Slot) (is : List Instr) (room : Nat := 2) : Bool := is.all fun i => s.issues sl i room
/-- The test state with core 0 changed. -/
def withCore (f : Core → Core) (s : State := s0) : State := s.setCore 0 (f (s.core 0))
/-- The test state with the registers of core 0 changed. -/
def withRegs (f : Regs → Regs) (s : State := s0) : State := withCore (fun k => { k with regs := f k.regs }) s

/-- Integer operations. -/
def integers : List Instr :=
  [.add ⟨16, 1, 2, 0⟩, .sub ⟨16, 1, 2, 0⟩, .mul ⟨16, 1, 2, 0⟩, .mulh ⟨16, 3, 4, 0⟩, .addi ⟨0, 1, 0, 5⟩, .and ⟨16, 1, 2, 0⟩, .or ⟨16, 1, 2, 0⟩,
    .xor ⟨16, 1, 2, 0⟩, .shl ⟨16, 1, 6, 0⟩, .shr ⟨16, 3, 6, 0⟩, .sar ⟨16, 3, 6, 0⟩, .andi ⟨16, 1, 0, 5⟩, .ori ⟨16, 1, 0, 5⟩, .xori ⟨16, 1, 0, 5⟩,
    .shli ⟨16, 1, 0, 63⟩, .shri ⟨16, 3, 0, 63⟩, .sari ⟨16, 3, 0, 63⟩, .min ⟨16, 3, 4, 1⟩, .max ⟨16, 3, 4, 0⟩, .clz ⟨16, 0, 0, 0⟩, .popc ⟨16, 4, 0, 0⟩,
    .movi ⟨16, 2 ^ 45⟩, .movhi ⟨1, 2 ^ 18 - 1⟩, .sel ⟨16, 1, 2, 31⟩, .pget ⟨16, 0, 0, 0⟩]
theorem test_wit_integer_results :
    integers.all (fun i => s0.issues .s i 2 && (integerResult s0.begun.self.regs i).isSome) = true := by decide +kernel
theorem test_wit_division :
    goes s0 .s [.div ⟨16, 1, 2, 0⟩, .rem ⟨16, 1, 2, 1⟩, .div ⟨16, 1, 0, 0⟩, .div ⟨16, 3, 4, 0⟩] = true ∧ s0.begun.self.regs.rd 0 = 0 ∧
    s0.begun.self.regs.rd 3 = 0x8000000000000000 ∧ s0.begun.self.regs.rd 4 = 0xFFFFFFFFFFFFFFFF := by decide +kernel
theorem test_wit_predicates :
    goes s0 .s [.cmp ⟨1, 1, 2, 5⟩, .cmpi ⟨23, 1, 7, 2⟩, .plog ⟨0, 31, 2, 8⟩, .pset ⟨0, 1, 2, 0⟩] = true ∧
    conditionHolds 5 (s0.begun.self.regs.rd 1) (s0.begun.self.regs.rd 2) ∧
    ¬ conditionHolds 4 (s0.begun.self.regs.rd 1) (s0.begun.self.regs.rd 2) :=
  ⟨by decide +kernel, show (s0.begun.self.regs.rd 1).toNat ≥ (s0.begun.self.regs.rd 2).toNat by decide +kernel,
    show ¬ (s0.begun.self.regs.rd 1).toNat < (s0.begun.self.regs.rd 2).toNat by decide +kernel⟩

/-- FP32: the largest value and the one beyond it, by R73. -/
theorem test_wit_rounding :
    fp32 ∈ floatFormats ∧ (fp32.value 0x7F7FFFFF).isNan = false ∧ (fp32.value 0x7FC00000).isNan = true ∧
    fp32.value fp32.maxCode = .fin false 16777215 104 ∧ topExp 16777215 104 = 127 ∧ topExp 1 128 = 128 ∧
    e4m3.sp = .nanOnly ∧ e2m1.sp = .finiteOnly ∧ fp32.sp = .ieee := by decide +kernel
theorem test_wit_underflow :
    topExp 3 (-151) < 1 - fp32.bias ∧ xeq (fp32.value (roundWith (.fin false 3 (-151)) (.flt fp32) .rne false 0).1) (.fin false 3 (-151)) = false ∧
    xeq (fp32.value (roundWith (.fin false 1 (-149)) (.flt fp32) .rne false 0).1) (.fin false 1 (-149)) = true := by decide +kernel
/-- Floating operations that round. -/
def floats : List Instr :=
  [.fadd ⟨16, 8, 9, 8, 0, 0, 0⟩, .fsub ⟨16, 8, 9, 9, 0, 4, 1⟩, .fmul ⟨16, 8, 9, 10, 0, 5, 0⟩, .ffma ⟨10, 8, 9, 8, 0, 1, 0⟩,
    .fdiv ⟨16, 8, 0, 8, 0, 0, 0⟩, .fsqrt ⟨16, 9, 0, 8, 0, 3, 0⟩, .fcvt ⟨16, 8, 0, 11, 8, 0, 1⟩, .icvtf ⟨16, 4, 0, 8, 3, 0, 0⟩]
theorem test_wit_float_results :
    floats.all (fun i => s0.issues .s i 2 && (floatExact s0.begun.self.regs i).isSome) = true := by decide +kernel
theorem test_wit_float_selections :
    goes s0 .s [.fmin ⟨16, 8, 10, 8, 0, 0, 0⟩, .fmax ⟨16, 8, 10, 8, 0, 0, 0⟩, .fcmp ⟨5, 8, 10, 8, 2, 0, 0⟩, .fcvt ⟨16, 10, 0, 8, 8, 0, 0⟩,
      .fcvti ⟨16, 9, 0, 2, 8, 1, 0⟩] = true := by decide +kernel
theorem test_wit_branches :
    goes s0 .s [.br ⟨0, 0, 0xFFF⟩, .brl ⟨16, 0, 0⟩, .brr ⟨16, 1, 0, 0⟩, .brr ⟨16, 4, 0, 0⟩, .brswap ⟨0, 0, 0x1000⟩] 1 = true ∧
    s0.begun.self.regs.rd 1 = (5 : BitVec 13).zeroExtend 64 ∧ s0.begun.self.regs.rd 4 = 0xFFFFFFFFFFFFFFFF ∧
    (0xFFF : BitVec 13).getLsbD 12 = s0.self.pc.getLsbD 12 ∧ s0.begun.self.ovls = [] := by decide +kernel
theorem test_wit_loops :
    goes s0 .s [.loop ⟨5, 1, 0, 0⟩, .loop ⟨0, 4, 15, 0⟩, .loopb ⟨0, 1, 0⟩, .loopb ⟨0, 2, 0⟩, .loopb ⟨0, 0, 0⟩] = true ∧
    s0.begun.self.regs.lc.read 1 = 2 ∧ s0.begun.self.regs.lc.read 2 = 0 ∧ s0.begun.self.regs.lc.read 0 = 0 ∧
    goes (withRegs fun r => { r with lc := [(0, 1)] }) .s [.loopb ⟨0, 0, 0⟩] = true := by decide +kernel
/-- Every control register but TBANK, with both directions. -/
theorem test_wit_control_registers :
    ([0, 1, 2, 3, 0x10, 0x11, 0x12, 0x20, 0x21, 0x28, 0x29, 0x2A, 0x2B, 0x2C, 0x2D, 0x30, 0x31, 0x41, 0x48] : List (BitVec 12)).all
      (fun cr => goes s0 .s [.mfcr ⟨16, 0, cr⟩, .mtcr ⟨0, 4, cr⟩]) = true ∧ s0.issues .s (.mfcr ⟨16, 0, 0x40⟩) 2 = true ∧
    s0.begun.self.flagsPending = false := by decide +kernel
theorem test_wit_tile_banks :
    goes s0 .s [.mtcr ⟨0, 13, 0x40⟩, .mtcr ⟨0, 2, 0x40⟩] = true ∧ bankBusy s0.marked.self 7 = false ∧ bankBusy s0.marked.self 3 = false ∧
    bankCode 7 0 = 3 ∧ ((List.range 8).all fun b => bankCode 0x4124 b != 3) = true := by decide +kernel
theorem test_wit_traps :
    s0.issues .s (.trap ⟨0, 0xFFFF⟩) 2 = true ∧ Trap.pageFault.pageClass = true ∧ Trap.trap.pageClass = false := by decide +kernel
theorem test_wit_fences :
    ([.fenceC ⟨1, 0⟩, .fenceC ⟨0xFFFF, 5⟩, .fenceSc ⟨0, 3⟩, .spfence, .fenceSmp] : List Instr).all (fun i =>
      s0.issues .s i 2 && (fenceTicks s0 i).isSome && !fenceStalls s0.marked.self i
        && downBefore (implicitMark s0.cur s0.tried).self i == (implicitMark s0.cur s0.tried).self) = true ∧ s0.self.hold = none ∧
    (let t := withCore fun k => { k with hold := some 0 }
     t.issues .s .spfence 2 = true ∧ t.self.hold = some 0 ∧ fenceStalls t.marked.self .spfence = false ∧
     downBefore (implicitMark t.cur t.tried).self .spfence = (implicitMark t.cur t.tried).self) ∧
    s0.issues .s .ifence 2 = true ∧ s0.begun.self.ovls = [] := by decide +kernel
theorem test_wit_handles :
    goes s0 .s [.xlat ⟨2, 5, 0, 0⟩, .xlat ⟨15, 4, 0, 0⟩, .hrel ⟨7, 0, 0, 0⟩] = true ∧ (s0.begun.self.regs.rd 5).toNat < 2 ^ 56 ∧
    2 ^ 56 ≤ (s0.begun.self.regs.rd 4).toNat ∧ s0.self.htlb = [] ∧
    (let t := withCore fun k => { k with htlb := [pageRW] }
     t.issues .s (.xlat ⟨2, 15, 0, 0⟩) 2 = true ∧ (t.self.htlb.find? fun e => e.covers 0 0x10000) = some pageRW) := by decide +kernel
theorem test_wit_nops : Slot.all.all (fun sl => s0.issues sl (.nop sl) 2) = true := by decide +kernel
/-- Row operations. -/
def rowOps1 : List Instr :=
  [.vadd ⟨2, 0, 0, 0, 1, 0, 8, 0, 0, 0⟩, .vsub ⟨2, 0, 0, 0, 1, 0, 2, 0, 1, 0⟩, .vmul ⟨2, 0, 0, 0, 1, 0, 9, 4, 0, 0⟩, .vfma ⟨2, 0, 0, 0, 1, 0, 10, 0, 1, 0⟩,
    .vmin ⟨2, 0, 0, 0, 1, 0, 8, 0, 0, 0⟩, .vmax ⟨2, 0, 0, 0, 1, 0, 5, 0, 0, 0⟩, .vabs ⟨2, 0, 0, 0, 0, 0, 3, 0, 1, 0⟩, .vneg ⟨2, 0, 0, 0, 0, 0, 8, 0, 0, 0⟩,
    .vclamp ⟨2, 0, 0, 0, 1, 0, 1, 0, 0, 0⟩, .vmulh ⟨2, 0, 0, 0, 1, 0, 7, 0, 0, 0⟩, .vadds ⟨2, 0, 0, 0, 1, 0, 8, 0, 0, 0⟩, .vsubs ⟨2, 0, 0, 0, 1, 0, 2, 0, 0, 0⟩,
    .vmuls ⟨2, 0, 0, 0, 1, 0, 9, 0, 0, 0⟩, .vfmas ⟨2, 0, 0, 0, 1, 0, 8, 0, 0, 0⟩, .vmins ⟨2, 0, 0, 0, 1, 0, 8, 0, 0, 0⟩, .vmaxs ⟨2, 0, 0, 0, 1, 0, 8, 0, 0, 0⟩,
    .vand ⟨2, 0, 0, 0, 1, 0, 0x13, 0, 0, 0⟩, .vor ⟨2, 0, 0, 0, 1, 0, 4, 0, 0, 0⟩, .vxor ⟨2, 0, 0, 0, 1, 0, 4, 0, 0, 0⟩, .vnot ⟨2, 0, 0, 0, 0, 0, 4, 0, 0, 0⟩]
/-- More row operations. -/
def rowOps2 : List Instr :=
  [.vshl ⟨2, 0, 0, 0, 1, 0, 6, 0, 0, 0⟩, .vshr ⟨2, 0, 0, 0, 1, 0, 6, 0, 0, 0⟩, .vsar ⟨2, 0, 0, 0, 1, 0, 2, 0, 0, 0⟩, .vpopc ⟨2, 0, 0, 0, 0, 0, 7, 0, 0, 0⟩,
    .vcmp ⟨2, 0, 0, 0, 1, 0, 8, 7, 0, 0⟩, .vsel ⟨2, 0, 0, 0, 1, 0, 13, 0, 0, 0⟩, .vmov ⟨2, 0, 0, 0, 0, 0, 0, 0, 0, 0⟩, .vzero ⟨2, 0, 0, 0, 0, 0, 0, 0, 0, 0⟩,
    .viota ⟨2, 0, 0, 0, 0, 0, 8, 0, 0, 0⟩, .vbcast ⟨2, 0, 0, 0, 1, 0, 8, 0, 0, 0⟩, .vins ⟨2, 0, 0, 0, 1, 31, 8, 0, 0, 0⟩, .vcvt ⟨2, 0, 0, 0, 8, 13, 0, 1, 0⟩,
    .vperm ⟨2, 0, 0, 0, 1, 0, 4, 0, 0, 0⟩, .vrot ⟨2, 0, 0, 0, 1, 255, 8, 0, 0, 0⟩, .vscale ⟨2, 0, 0, 0, 1, 7, 8, 0, 0, 0⟩,
    .vrsum ⟨2, 0, 0, 0, 0, 0, 8, 0, 0, 0⟩, .vdot ⟨2, 0, 0, 0, 1, 0, 0, 0, 0, 0⟩, .vrmax ⟨2, 0, 0, 0, 0, 0, 8, 0, 0, 0⟩, .vrmin ⟨2, 0, 0, 0, 0, 0, 2, 0, 0, 0⟩,
    .vexp2 ⟨2, 0, 0, 0, 0, 0, 8, 0, 0, 0⟩, .vlog2 ⟨2, 0, 0, 0, 0, 0, 9, 0, 0, 0⟩, .vrcp ⟨2, 0, 0, 0, 0, 0, 10, 0, 0, 0⟩, .vrsq ⟨2, 0, 0, 0, 0, 0, 8, 0, 0, 0⟩,
    .vtanh ⟨2, 0, 0, 0, 0, 0, 8, 0, 0, 0⟩]
theorem test_wit_row_results :
    (rowOps1 ++ rowOps2).all (fun i => s0.issues .v0 i 2 && (rowResult s0.begun.self i).isSome) = true := by decide +kernel
/-- The test state with a port of core 0 as given. -/
def sPort (n : Nat) (p : Port) : State := withRegs fun r => { r with ports := [(n, p)] }
theorem test_wit_elements_and_ports :
    goes s0 .v0 [.vextr ⟨0, 0, 0, 0, 16, 31, 8, 0, 0, 0⟩, .pmov ⟨0, 0, 1, 0, 0x0C, 4, 0, 0, 0⟩, .pmov ⟨0, 0, 1, 0, 4, 11, 0, 0, 0⟩,
      .pmov ⟨0, 0, 1, 0, 3, 13, 0, 0, 0⟩, .ptake ⟨2, 0, 0, 0, 3, 0, 0, 0, 0⟩] = true ∧
    portNeed 4 = 2 ∧ portNeed 3 = 1 ∧ (s0.begun.self.regs.port 3).outs = [] ∧ (s0.begun.self.regs.port 3).wait = [] ∧
    (let t := sPort 3 { outs := [5, 6] }
     t.issues .v0 (.ptake ⟨2, 0, 0, 0, 3, 0, 0, 0, 0⟩) 2 = true ∧ (t.begun.self.regs.port 3).outs = [5, 6]) := by decide +kernel

/-- The test state with the words of a bundle at core 0's PC, and turn 0. -/
def placed (h : Header) (ws : List SlotWord) (s : State := s0) : State :=
  withCore (fun k => { k with ispm := k.ispm.writeRun k.pc.toNat (encodeHeader h :: ws.map encodeSlot) }) s
/-- A plain bundle of ADD. -/
def sAdd : State := placed (.plain 1) [⟨.plain, .add ⟨16, 1, 2, 0⟩⟩]
/-- The test state with a die slot held for the tick after `t`. -/
def sDue (t : W64) : State := { s0 with pkgs := [(0, { toff := 100, syncs := [⟨t, 100, { q := 0, core := 0, lid := 7, kind := 1, line := 0, opnd := 0, mask := 1, sc := 3, res := false, scout := 8 }⟩] })] }
theorem test_wit_step :
    sAdd.agenda = [] ∧ dueSyncs { sAdd with now := sAdd.now + 1 } = [] ∧ (sDue 101).agenda = [] ∧
    (dueSyncs { sDue 101 with now := (sDue 101).now + 1 }).length = 1 ∧ dueSyncs { sDue 102 with now := (sDue 102).now + 1 } = [] ∧ (nextSteps sAdd)[sAdd.turn % (nextSteps sAdd).length]? = some (0, .add ⟨16, 1, 2, 0⟩) ∧
    ((sAdd.cores.filter fun e => e.2.run == .placed)[0]?).isSome = true ∧ (sAdd.core 0).regs.held = [] ∧
    decodeBundle 0 ((sAdd.core 0).ispm.readRun (sAdd.core 0).pc.toNat 8) = some (.add ⟨16, 1, 2, 0⟩) ∧
    (let t := withCore fun k => { k with ispm := [(0, 0x0000040000000001)] }
     decodeBundle 0 ((t.core 0).ispm.readRun (t.core 0).pc.toNat 8) = none) ∧
    ((withRegs fun r => { r with held := [(0, ⟨⟨⟨1, 0, 31⟩, .nop .s⟩, false⟩)] }).core 0).regs.held ≠ [] ∧
    ({ s0 with agenda := [(3, .coreHalt 0)] } : State).agenda = [(3, .coreHalt 0)] := by decide +kernel
theorem test_wit_bundle_is_operation :
    (Instr.add ⟨16, 1, 2, 0⟩).slots.head? = some .s ∧ (sAdd.core sAdd.cur).regs.held = [] ∧
    SlotWord.encodable .x ⟨.plain, .semadd ⟨2, 0, 5, 0, 0⟩⟩ = true ∧ SlotWord.encodable .v1 ⟨⟨1, 0, 3⟩, .vadd ⟨2, 0, 0, 0, 1, 0, 8, 0, 0, 1⟩⟩ = true ∧
    ({ Header.plain 5 with wen := 1, wsem := 3, wthr := 2, wdec := 1 } : Header).wf = true := by decide +kernel
/-- A bundle of three words, one of them disabled, with a signal. -/
def sBundle : State :=
  placed { Header.plain 0b1000011 with sen := 1, ssem := 3, sinc := 2 }
    [⟨.plain, .add ⟨16, 1, 2, 0⟩⟩, ⟨⟨0, 1, 0⟩, .vadd ⟨2, 0, 0, 0, 1, 0, 8, 0, 0, 0⟩⟩, ⟨.plain, .semadd ⟨2, 0, 5, 0, 0⟩⟩]
/-- The hypotheses of `BundleIssuesClaim` for core 0. -/
def bundleGoes (s : State) : Bool :=
  let q := s.setCore 0 { s.core 0 with waiting := [] }
  let b := q.landed 0
  let k := b.core 0
  match fetch k with
  | .error _ => false
  | .ok (h, ws) =>
    let en := ws.filter fun w => w.enabled k
    let next := k.pc + 1 + BitVec.ofNat 13 (presCount h.pres)
    k.run == .placed && k.ready ≤ s.now && k.satTrap.isEmpty && k.granted.isNone && k.bad.isEmpty && (s.cluster 0).badSp.isEmpty && (wakeBanks 0 ws q).isNone && h.mark == 0
      && h.kind == 0 && h.wen == 0 && (ws.all fun w => !marksAlways w.word.op)
      && ((ctxs 0 b next en).all fun w => !marksBefore w.2 w.1.word.op
        && (match w.1.word.op with | .rpush _ | .ldsmp _ => false | _ => true))
      && !predsBusy k ws && !regsBusy k en && k.gated.length + bundleNeed h en ≤ 64
      && (ctxs 0 b next en).all (fun w => match wordProbe en w with | .go => true | _ => false)
      && (firstTrap 0 h ws en (ctxs 0 b next en) b).isNone && en.length == 2
      && (!fallsThrough k h en || k.pc.toNat % 4096 + 1 + presCount h.pres ≤ 4095)
theorem test_wit_bundle_issues : bundleGoes sBundle = true := by decide +kernel
theorem test_wit_reset : Memory.wf State.reset = true ∧ (match step State.reset with | .next _ => true | _ => false) = true := by decide +kernel

/-! Rings, the matrix unit. -/

theorem test_wit_rings :
    goes s0 .m [.rset ⟨2, 0, 5, 2, 1⟩, .rset ⟨2, 0, 0, 0, 0⟩, .rpush ⟨1, 0, 0, 0, 0⟩, .rpop ⟨0, 0, 0, 0, 0⟩, .rget ⟨0, 16, 0, 0, 1⟩] = true ∧
    (let k := s0.begun.self
     k.ringBusy 2 = false ∧ (k.regs.rd 5).toNat % 4096 = 0 ∧ (k.regs.rd 2).toNat % 512 = 3 ∧ k.unperformed = false ∧
     k.queueDown k.seq (fun _ => true) = k ∧ (k.ring 1).keep = false ∧ (k.ring 1).count + (k.ring 1).occ.length + 1 ≤ (k.ring 1).size ∧
     (k.ring 0).keep = true ∧ (k.ring 0).size ≠ 0 ∧ k.ringBusy 0 = false) := by decide +kernel
/-- The formats that the port functions name. -/
theorem test_wit_port_functions :
    fmtOf 0x0E = .flt e3m2 ∧ fmtOf 0x0F = .flt e2m3 ∧ (0x05, 4, e2m1) ∈ [((0x05 : Nat), (4 : Nat), e2m1), (0x06, 8, e4m3), (0x07, 8, e5m2)] := by
  decide +kernel
/-- An entry of the operand cache for the tile at ring 0's head, in error or not. -/
def sCached (bad : Bool := false) : State := withCore fun k => { k with opc := [⟨0, 0, 0, [], bad⟩] }
theorem test_wit_operand_fetch :
    (sCached true).acc.k.opc = [⟨0, 0, 0, [], true⟩] ∧ s0.acc.k.opc = [] ∧ (sCached).acc.k.opc = [⟨0, 0, 0, [], false⟩] ∧ (((sCached).ctx .m).k.ring 0).gen = 0 ∧ (((sCached).ctx .m).k.ring 0).head = 0 := by
  decide +kernel
/-- MMA of the two rings. -/
def mmac : MMac := ⟨8, 0, 1, 8, 8, 0, 0⟩
theorem test_wit_matrix_issue :
    goes s0 .m [.mma mmac, .mmaz mmac] = true ∧
    (let k := s0.begun.self
     let p := k.ring 0
     let q := k.ring 1
     p.size ≠ 0 ∧ q.size ≠ 0 ∧ p.empty = false ∧ q.empty = false ∧ k.mma = none ∧
     linesReady s0.begun (p.slotAddr p.head) 32 = true ∧ linesReady s0.begun (q.slotAddr q.head) 32 = true) := by decide +kernel
/-- An INT8 MMA in flight. -/
def mmaInt : Mma :=
  { tc := 3, keep := true, fa := 0, fb := 0, a := List.replicate 32 5, b := List.replicate 32 7, sa := 0, sb := 0
    old := List.replicate 32 0, rings := [0, 1], due := 0, seq := 0 }
theorem test_wit_accumulation :
    mmaInt.fa = 0 ∧ mmaInt.a.length = 32 ∧ mmaInt.old.length = 32 ∧ mmaInt.b.length = 32 ∧ mmaInt.a[31]? = some 5 ∧ mmaInt.b[0]? = some 7 ∧
    mmaInt.old[31]? = some 0 ∧
    ([.zero false, .fin false 3 0, .fin true 1 (-149)] : List XVal).all (fun x => !x.isNan && !x.isInf) = true ∧
    ([(xmul (.inf false) (.zero false)).1] : List XVal).any XVal.isNan = true := by decide +kernel
theorem test_wit_matrix_retires :
    (let t := withCore fun k => { k with mma := some mmaInt }
     (t.core 0).mma = some mmaInt ∧ mmaInt.due ≤ t.now ∧ mmaInt.keep = true) ∧
    (((withCore fun k => { k with mma := some { mmaInt with keep := false } }).core 0).mma.map fun m => (m.keep, m.due)) = some (false, 0) ∧
    (let t := withCore fun k => { k with mma := some { mmaInt with due := 9 } }
     t.now < 9 ∧ (t.core 0).mma = some { mmaInt with due := 9 }) := by decide +kernel
theorem test_wit_matrix_outputs :
    goes s0 .m [.mout ⟨8, 9, 0, 10, 0, 0, 0⟩, .mout ⟨8, 9, 15, 11, 0, 1, 1⟩, .mouts ⟨8, 5, 0, 10, 0, 0, 0⟩, .mouts ⟨8, 0, 0x17FA00, 11, 0, 0, 1⟩,
      .mzero ⟨8, 0, 0, 0, 0, 0, 0⟩] = true ∧ s0.begun.self.linesBusy 0x1000 2048 = false ∧ (0x17FA00 : Nat) % 128 = 0 ∧
    0x17FA00 + 128 * 8 + 128 ≤ 0x180000 := by decide +kernel
/-- A state with one result of the output path due. -/
def sMout (t : Option (Nat × List Row)) (k : Option (Nat × List Byte)) (l : Option (Nat × Nat × List Byte)) : State :=
  withCore fun c => { c with mout := [⟨t, k, l, some 4, 0, 0⟩] }
theorem test_wit_matrix_outputs_land :
    ((sMout (some (3, [5])) none none).core 0).mout[0]? = some ⟨some (3, [5]), none, none, some 4, 0, 0⟩ ∧
    ((sMout (some (3, [5])) (some (2, [7])) none).core 0).mout[0]? = some ⟨some (3, [5]), some (2, [7]), none, some 4, 0, 0⟩ ∧
    ((sMout none none (some (0x1000, 128, [1]))).core 0).mout[0]? = some ⟨none, none, some (0x1000, 128, [1]), some 4, 0, 0⟩ ∧
    ((sMout none none (some (0x1000, 128, [1]))).core 0).earlierZero 0 false = false ∧
    (sMout none none (some (0x1000, 128, [1]))).emptiesFirst 0 (lineKey 0x1000) 4 = false := by decide +kernel

/-! Scratchpad. -/

/-- The test state with lines 3 and 32 of the cluster's scratchpad in error. -/
def sErrors : State := s0.setCluster 0 { s0.cluster 0 with badSp := [3, 32], sp := [(3, 7), (32, 8)] }
theorem test_wit_scratchpad_errors :
    ([3, 5] : List Nat).Nodup ∧ 3 ∈ ([3, 5] : List Nat) ∧ 3 ∈ (sErrors.cluster 0).badSp ∧ 32 ∉ ([3, 5] : List Nat) ∧
    ([5, 6].all fun l => !(sErrors.cluster 0).badSp.contains l) = true ∧ (sErrors.cluster 0).sp.read 3 = 7 ∧
    spError sErrors.begun [32] = false ∧ spError (sErrors.setLaunch 7 { sErrors.launch 7 with strict := true }).begun [32] = true := by
  decide +kernel

/-- A scratchpad access at s5, at 0x1000, of a scalar, a row or tile, or a count. -/
def pf (reg : BitVec 13) (imm : BitVec 24 := 0) : PFmt := ⟨reg, 5, imm, 0⟩
theorem test_wit_scratchpad :
    goes s0 .l [.lds (pf 16), .ldsr (pf 0x60), .ldst (pf 0x60), .ldsc (pf 15)] = true ∧
    goes s0 .t [.sts (pf 16), .stsr (pf 0x60), .stst (pf 0x60), .spclr (pf 31), .spfill (pf 31)] = true ∧
    (let k := s0.begun.self
     spReach k (pf 16) 8 8 = (0x1000, true) ∧ spReach k (pf 0x60) 128 4096 = (0x1000, true) ∧ k.linesBusy 0x1000 4096 = false ∧
     linesReady s0.begun 0x1000 32 = true ∧ spReach k (pf 16 4) 8 8 = (0x1004, false) ∧
     ([8, 128, 4096] : List Nat).all (fun n => !spError s0.begun (linesOf 0x1000 n)) = true ∧ spReach k ⟨0, 0, 0x17FFF8, 0⟩ 8 8 = (0x17FFF8, true) ∧ spReach k ⟨0, 0, 0x17FF80, 0⟩ 128 4096 = (0x17FF80, false)) := by decide +kernel

/-! Global memory. -/

/-- A global access through a handle at an offset. -/
def gf (reg : BitVec 13) (h : BitVec 4 := 1) (sc : BitVec 3 := 3) (off : BitVec 19 := 0) : GFmt := ⟨reg, h, 0, 1, sc, off, 0⟩
theorem test_wit_global_reads :
    goes s0 .l [.ldg (gf 16), .ldgr (gf 0x60), .ldgt (gf 0x60), .ldscg (gf 15), .ldgAcq (gf 16), .ldgrAcq (gf 0x60), .ldgAcq (gf 16 1 0)] = true ∧
    (let k := s0.begun.self
     let at' := (k.regs.handle 1).page.at 0
     pageReady k 1 0 8 8 true false false = true ∧ pageReady k 1 61440 128 4096 true false false = true ∧
     pageReady k 1 61696 128 4096 true false false = false ∧ (s0.launch k.launch).strict = false ∧
     unreplaced s0.begun k 3 at'.1 at'.2 8 = true ∧ unreplaced s0.begun k 0 at'.1 at'.2 4096 = true ∧
     k.loadsBefore 1 at'.1 at'.2 128 = false ∧ s0.begun.seeps at'.1 at'.2 s0.cur = none) := by decide +kernel
theorem test_wit_global_stores :
    goes s0 .t [.stg (gf 16), .stgRel (gf 16), .stgr (gf 0x60), .stgrRel (gf 0x60), .stgt (gf 0x60)] = true ∧
    pageReady s0.begun.self 1 61440 128 4096 false true false = true := by decide +kernel
/-- Atomics on the word at the page's first byte. -/
def atomics (o : AFmt) : List Instr := [.aadd o, .amin o, .amax o, .aand o, .aor o, .axor o, .axchg o, .acas o]
theorem test_wit_atomics :
    goes s0 .t (atomics ⟨16, 2, 0, 1, 0, 1, 3, 2, 0⟩ ++ [.afadd ⟨16, 8, 0, 1, 0, 1, 3, 8, 0⟩]) = true ∧
    (let m := s0.marked
     let k := m.self
     let at' := (k.regs.handle 1).page.at 0
     pageReady k 1 0 4 4 true true true = true ∧ atomDown ⟨16, 2, 0, 1, 0, 1, 3, 2, 0⟩ (m.ctx .t) k = k ∧
     atomDown ⟨16, 8, 0, 1, 0, 1, 3, 8, 0⟩ (m.ctx .t) k = k ∧ k.loadsBefore 1 at'.1 at'.2 4 = false ∧
     k.storesBefore 1 at'.1 (at'.2 / 128) = false ∧ m.seeps at'.1 at'.2 s0.cur = none) := by decide +kernel
theorem test_wit_handle_traps :
    ([2, 3, 4, 1, 5, 6] : List (BitVec 4)).all (fun h => goes s0 .l [.ldg (gf 16 h), .ldgr (gf 0x60 h), .ldgt (gf 0x60 h), .ldscg (gf 15 h), .ldgAcq (gf 16 h), .ldgrAcq (gf 0x60 h)]
      && goes s0 .t [.stg (gf 16 h), .stgRel (gf 16 h), .stgr (gf 0x60 h), .stgrRel (gf 0x60 h), .stgt (gf 0x60 h)]) = true ∧
    (let h := fun n => s0.begun.self.regs.handle n
     (h 2).state = .invalid ∧ (h 3).state = .revoked ∧ (h 4).state = .faulted ∧ (h 1).state = .valid ∧ leafW (h 5).page.leaf = false ∧
     leafR (h 5).page.leaf = true ∧ leafW (h 6).page.leaf = true ∧ leafCow (h 6).page.leaf = true ∧ pageSize (h 1).page.leaf = 65536 ∧
     (let t := withRegs fun r => { r with h := [(1, ⟨.valid, 0x10000, { pageRW with leaf := 0x100000001 }⟩)] }
      leafR (t.begun.self.regs.handle 1).page.leaf = false ∧ t.issues .l (.ldg (gf 16)) 2 = true)) := by decide +kernel
theorem test_wit_atomic_traps :
    ([2, 3, 4, 1, 5, 6] : List (BitVec 4)).all (fun h => goes s0 .t (atomics ⟨16, 2, 0, h, 0, 1, 3, 2, 0⟩ ++ [.afadd ⟨16, 8, 0, h, 0, 1, 3, 8, 0⟩])) = true ∧
    goes s0 .t (atomics ⟨16, 2, 0, 1, 1, 1, 3, 2, 0⟩) = true ∧ (s0.marked.self.regs.rd 1).toNat % 4 ≠ 0 ∧
    (let h := fun n => s0.marked.self.regs.handle n
     (h 2).state = .invalid ∧ (h 3).state = .revoked ∧ (h 4).state = .faulted ∧ (h 1).state = .valid ∧
     (leafR (h 5).page.leaf && leafW (h 5).page.leaf) = false ∧ leafR (h 6).page.leaf = true ∧ leafW (h 6).page.leaf = true ∧
     leafSfmt (h 6).page.leaf = leafDfmt (h 6).page.leaf ∧ leafCow (h 6).page.leaf = true ∧ pageSize (h 6).page.leaf = 65536) ∧
    (let t := withRegs fun r => { r with h := [(1, ⟨.valid, 0x10000, { pageRW with leaf := pageRW.leaf ||| 0x4000 }⟩)] }
     let e := (t.marked.self.regs.handle 1).page.leaf
     goes t .t (atomics ⟨16, 2, 0, 1, 0, 1, 3, 2, 0⟩) = true ∧ leafR e = true ∧ leafW e = true ∧ leafSfmt e ≠ leafDfmt e) := by decide +kernel

/-! The X slot. -/

/-- A push whose command line is at s5. -/
def xc (q : BitVec 6) (fn : BitVec 4 := 1) : XCmd := ⟨q, 5, 1, 0xFFFF, 3, fn⟩
/-- The pushes with a name of their own. -/
def namedPushes (o : XCmd) : List Instr :=
  [.cpy o, .cpyt o, .cpyf o, .cpyh o, .bxch o, .allred o, .rscat o, .agath o, .bcast o, .alltoall o, .reshard o]
theorem test_wit_engine_pushes :
    goes s0 .x (namedPushes (xc 0) ++ [.epush (xc 2), .epush (xc 15 0), .plq (xc 8)]) = true ∧
    (let k := s0.begun.self
     (k.regs.rd 5).toNat = 0x1000 ∧ k.linesBusy 0x1000 128 = false ∧
     ([0, 1, 2, 8, 15] : List Nat).all (fun q => s0.begun.roomIn q (pushTarget 0 q) k.launch != 0
       && (k.elems.get [] q).length + k.resv.get 0 q < 16) = true) := by decide +kernel
theorem test_wit_status_reads :
    ([.eqstat ⟨16, 0, 0⟩, .eqstat ⟨0, 15, 0⟩, .fdrd ⟨16, 15, 3⟩, .semrd ⟨2, 0, 0, 0, 16⟩, .cstatReshard ⟨16, 15, 0⟩, .cstatLinks ⟨16, 0, 1⟩,
      .plres ⟨16, 0x3F, 15⟩] : List Instr).all (fun i => s0.issues .x i 2 && (readWord s0.begun i).isSome) = true ∧
    s0.issues .x (.epop ⟨16, 0, 0⟩) 2 = true ∧ s0.begun.self.elems.get [] 0 = [] ∧ s0.begun.self.resv.get 0 0 = 0 ∧
    (let t := withCore fun k => { k with elems := [(0, [5])] }
     t.issues .x (.epop ⟨16, 0, 0⟩) 2 = true ∧ t.begun.self.elems.get [] 0 = [5]) := by decide +kernel
theorem test_wit_row_transfers :
    goes s0 .x [.send ⟨7, 1, 0, 5, 0, 0⟩, .recv ⟨0, 1, 0, 5, 0, 0⟩, .recvadd ⟨5, 1, 0, 5, 0, 0⟩] = true ∧
    linesReady s0.marked 0x1000 1 = true ∧ (s0.marked.self.pending.all fun e => (e.fullBit 0x20).isNone) = true ∧
    ((s0.begun.self.regs.rd 5).toNat + 0) % 128 = 0 := by decide +kernel
theorem test_wit_semaphores :
    goes s0 .x [.semadd ⟨2, 0, 65526, 0, 0⟩, .semadd ⟨2, 0, 65527, 0, 0⟩, .semset ⟨2, 0, 65535, 0, 0⟩, .semset ⟨2, 12, 65535, 0, 0⟩, .semwait ⟨2, 0, 9, 1, 0⟩,
      .semwait ⟨2, 0, 0, 0, 0⟩] = true ∧ s0.begun.sem 0 2 = 9 ∧ s0.begun.adm 0 2 = 0 ∧ (s0.begun.self.regs.rd 12).toNat = 1 ∧ s0.marked.sem 0 2 = 9 := by decide +kernel
theorem test_wit_barriers :
    goes s0 .x [.barc ⟨0, 0, 0, 0, 0⟩, .barg ⟨0, 0, 0, 0, 0⟩] = true ∧
    (let w := implicitMark s0.cur s0.tried
     let k := w.self
     k.queueDown k.seq (fun _ => true) = k ∧ s0.self.pass = none ∧ k.settled = true ∧ w.pushedBy s0.cur = false) ∧
    (let t := withCore fun k => { k with pass := some 0 }
     let k := (implicitMark t.cur t.tried).self
     goes t .x [.barc ⟨0, 0, 0, 0, 0⟩, .barg ⟨0, 0, 0, 0, 0⟩] = true ∧ t.self.pass = some 0 ∧ k.queueDown k.seq (fun _ => true) = k) := by decide +kernel
/-- The eight cores of cluster 0, of which `n` have arrived. -/
def sArrived (n : Nat) (global : Bool) : State :=
  { s0 with cores := (List.range 8).map fun i => (i, { core0 with arrC := i < n && !global, arrG := i < n && global }) }
theorem test_wit_barrier_releases :
    ((clusterCores 0).any fun c => ((sArrived 8 false).core c).arrC) = true ∧ (clusterCores 0).all ((sArrived 8 false).arrived false) = true ∧
    (clusterCores 0).all ((sArrived 7 false).arrived false) = false ∧
    (let t := sArrived 8 true
     let cs := (t.parts 7).flatMap t.placedCores
     cs.any (fun c => (t.core c).arrG) = true ∧ cs.all (t.arrived true) = true ∧
     (t.engineHolds fun p => p.host && (t.parts 7).contains p.lid) = false) ∧
    (let t := sArrived 7 true
     ((t.parts 7).flatMap t.placedCores).all (t.arrived true) = false) := by decide +kernel

/-- The CRC-32C of the one word 1. -/
def crcOne : Nat := 3306475437
/-- A core with an overlay load on its way, of the word 1, whose pages its TLB holds, or `bad` ones that fail. -/
def sOvl (crc : Nat) (due : Nat) (tag : Option HalfTag := none) (va : W64 := 0x20000) (id : Nat := 1)
    (tlb : List Xlation := [⟨0, 0x10000, 0x10000000D⟩, ⟨0, 0x20000, 0x11000001D⟩]) (bad : List (Nat × Nat) := []) : State :=
  { at0 { core0 with image := 1, tagB := tag, ovls := [⟨true, 5, va, due, 0⟩], itlb := tlb, ibad := bad } with
    mem := words memT [(0x110000, BitVec.ofNat 64 (crc + 2 ^ 32)), (0x110008, BitVec.ofNat 64 (id * 2 ^ 32)), (0x110020, 1)], now := 500 }
/-- What an overlay load comes to: a page to walk; a status; its words, and whether they have the CRC of its header. -/
def ovlResult (s : State) : List (Nat × Nat × List Nat × Bool) :=
  (s.core 0).ovls.map fun o => match ovlRun 0 s o with
    | .walk p => (0, p, [], false)
    | .small st => (1, st, [], false)
    | .expand h p => (2, h.nw, p.words.map (·.toNat), ovlCrc h p == h.crc)
theorem test_wit_overlay_loads :
    goes s0 .x [.ovl ⟨1, 1, 0, 9⟩, .ovl ⟨1, 3, 11, 0⟩] = true ∧ ((s0.begun.self.regs.handle 1).va + s0.begun.self.regs.rd 0).toNat % 8 = 0 ∧
    (s0.begun.self.regs.handle 1).state = .valid ∧ s0.self.pc.getLsbD 12 = false ∧
    (⟨[], 0, true⟩ : OvlPart).past = true ∧ (⟨[], 0, false⟩ : OvlPart).past = false := by decide +kernel
theorem test_wit_overlay_runs :
    ([sOvl crcOne 0, sOvl crcOne 400, sOvl 5 400, sOvl crcOne 0 none 0x20000 1 [], sOvl crcOne 0 (some ⟨1, BitVec.ofNat 32 crcOne⟩),
      sOvl crcOne 0 none 0x50000 1 [] [(0, 5)], sOvl crcOne 0 none 0x10000, sOvl crcOne 0 none 0x20000 2] : List State).flatMap ovlResult
      = [(2, 1, [1], true), (2, 1, [1], true), (2, 1, [1], false), (0, 2, [], false), (1, 1, [], false), (1, 3, [], false),
        (1, 4, [], false), (1, 5, [], false)] := by decide +kernel

/-! Steps of a core beside its issue. -/

/-- Results on their way: a due scalar, a due row, one that is not due. -/
def sLand : State := at0 { core0 with
  region := 1
  land := [⟨.scalar true, .scalar 5, [42], 1, 0, 0, 0⟩, ⟨.row true, .row 3 2, [7], 2, 0, 1, 0⟩, ⟨.load, .scalar 6, [9], 0, 5, 0, 0⟩,
    ⟨.atomic false, .scalar 7, [9], 0, 0, 1, 0⟩] }

/-- Global loads on their way: one that has its value, one of a scale register that has none, one behind it. -/
def sLoads : State := at0 { core0 with
  loads := [⟨.scalar 5, ⟨0, 0, 0, 0, false⟩, 0x100000, 8, 0, false, 1, some (List.replicate 8 3), 0, 0, 0⟩,
    ⟨.scale 2, ⟨0, 0, 0, 0, false⟩, 0x100100, 256, 1, false, 1, none, 0, 0, 0⟩,
    ⟨.scalar 6, ⟨0, 0, 0, 0, false⟩, 0x100100, 8, 2, false, 1, none, 0, 0, 0⟩] }

/-- Committed effects of each kind. -/
def sOut : State := at0 { core0 with
  outq := [⟨0, 0, .sp 0x80 [1, 2, 3]⟩, ⟨0, 0, .store ⟨0, 0, 0, 0, false⟩ [(0x100000, 5)] 3 1 false⟩,
    ⟨0, 0, .store ⟨0, 0, 0, 0, false⟩ [(0x100080, 6), (0x100081, 7)] 4 3 false⟩] }
/-- A clearing of full bits, committed. -/
def sOutClr : State := at0 { core0 with outq := [⟨0, 0, .spclr 3 2⟩] }
/-- A release, committed. -/
def sOutRel : State := at0 { core0 with outq := [⟨0, 0, .store ⟨0, 0, 0, 0, false⟩ [(0x100000, 5)] 3 2 true⟩] }

/-- Rows on their way to a full line, to another lane's, and one that is not due. -/
def sSends : State := at0 { core0 with sends := [⟨0, 0x80, 7, 0, 0⟩, ⟨3, 0x100, 8, 0, 0⟩, ⟨0, 0, 9, 4, 0⟩] }

/-- A core with a waiting signal, a wake, a port result, a scale write and walks. -/
def sHouse : State :=
  { at0 { core0 with
      sat := [⟨0, 2, 4, 0⟩], seq := 3, tbank := 0x0005, waking := [(0, 0), (1, 9)]
      regs := { regs0 with ports := [(2, { wait := [(0, 9, 1)] })], kpend := [⟨3, 77, 0, 0⟩] } } with
    dies := [(0, { walks := [⟨0, 0x2000, 0x20000, [(.handle 0 7, 0x20000)]⟩, ⟨0, 0x2000, 0x50000, [(.handle 0 8, 0x50000)]⟩,
      ⟨0, 0x2000, 0x20000, [(.handle 0 8, 0x20000)]⟩] })] }
/-- The same where the signal's counter is nearly full, in a core as given. -/
def sHouseFull (run : RunSt) : State :=
  { sHouse with clusters := [(0, { launch := 7, sem := [(2, 65534)] })], cores := [(0, { sHouse.core 0 with run })] }

/-! The copy and berm engines. -/

/-- A command line from fields given as offset and value. -/
def line (fs : List (Nat × Nat)) : Row := BitVec.ofNat 1024 (fs.foldl (fun a f => a + f.2 * 2 ^ (8 * f.1)) 0)

/-- A command of the launch, of queue `q`. -/
def cmd (q kind : Nat) (fs : List (Nat × Nat)) (opnd : W64 := 0) : Push :=
  { q, core := 0, lid := 7, kind, line := line fs, opnd, mask := 1, sc := 3, res := true, scout := 8 }

/-- Descriptor 1 is a dense FP32 field of 2 × 2 × 2 positions of 4 channels at 0x1_0000; descriptor 2 a field in one polder
with halos of one plane at both ends of T, which wraps there. -/
def fields : Store 64 :=
  [(4, 0x0800000000010000), (5, 0x0004000200020002), (8, 0x2800000000010000), (9, 0x0004000200020002), (10, 1), (11, 0x00F000011)]

/-- A state with a command queue. -/
def withQueue (t : Nat) (q : EngQueue) (s : State := s0) : State :=
  { s with
    engqs := [(t, q)], launches := [(7, { s.launch 7 with fds := fields })]
    cores := [(0, { core0 with resv := [(0, 3), (1, 3), (2, 3), (8, 3)] })] }

/-- A CPY of one run in the scratchpad. -/
def cpyOne : Push := cmd 0 1 [(16, 2 ^ 63 + 0x40), (24, 2 ^ 63 + 0x1050), (32, 100), (36, 1), (38, 1), (40, 1), (42, 1), (44, 1)]
/-- The same as a CPYT of tick 5. -/
def cpytOne : Push := { cpyOne with kind := 2, opnd := 5 }
/-- A CPYF that reads the box of descriptor 1 into the scratchpad. -/
def cpyfRead : Push := cmd 0 3 [(16, 1), (20, 0x2000), (40, 2), (42, 2), (44, 2), (46, 4)]
/-- A CPYF that writes it from lines that are not full, and waits for them. -/
def cpyfWait : Push := cmd 0 3 [(1, 4), (16, 1), (17, 1), (20, 0x3000), (40, 2), (42, 2), (44, 2), (46, 4)]
/-- A CPYF of a descriptor that is not set. -/
def cpyfUnset : Push := cmd 0 3 [(16, 3), (20, 0x2000), (40, 2), (42, 2), (44, 2), (46, 4)]
/-- A CPYH over two lanes. -/
def cpyhTwo (base : Nat) : Push :=
  cmd 0 4 [(16, base), (20, 1), (22, 1), (24, 2), (26, 2), (28, 4), (29, 1), (30, 1), (31, 3)]
/-- The same with WAITF, where lines of its second lane are not full. -/
def cpyhWait : Push := cmd 0 4 [(1, 4), (16, 0x200), (20, 1), (22, 1), (24, 2), (26, 2), (28, 4), (29, 1), (30, 16), (31, 3)]

/-- The copy engine of cluster 0 with one command. -/
def sCopy (p : Push) : State := withQueue 10000000 { entries := [p] }

/-- A BXCH of descriptor 2, with the faces given, signalling semaphore 3 of cluster 0. -/
def bxch (fd faces : Nat) : Push := cmd 1 0x10 [(1, 1), (2, 3), (16, fd), (17, faces)]
/-- The berm engine of die 0 with one command. -/
def sBerm (p : Push) : State := withQueue 20000000 { entries := [p] }
/-- The berm engine of die 0 as it runs a BXCH of one face. -/
def sBermRun (r : Run) : State := withQueue 20000000 { running := [r] }
/-- A face on its way from die 0 to itself. -/
def face (fd : Nat) : BermMsg := ⟨7, 0, 0, fd, 0, 0, 1, 0, { at' := 0, data := List.replicate 64 5 }, none, 3⟩
/-- A face on its way to die 0, whose launch has taken `k` exchanges of the descriptor and still is owed face 0 of number 0. -/
def sFace (m : BermMsg) (k : Nat) : State :=
  let s := withQueue 20000000 { running := [{ push := bxch 2 1, out := 1 }] }
  { s with
    berms := [m]
    launches := [(7, { s.launch 7 with
      bk := [(2, BitVec.ofNat 32 k)], bcmds := [⟨0, 2, 0, 1, 0, 3, 0, 0, 0⟩] })] }
/-- A face at die 1 on its way to die 8 of the next package, their external link's ports as given. -/
def sHop (a b : LinkPort) : State :=
  let s : State := { withQueue 20000000 {} with pkgs := [(0, { topo := 0x1001 }), (1, { topo := 0x1009 })], dies := [(1, { ports := [(3, a)] }), (8, { ports := [(3, b)] })] }
  { s with berms := [⟨7, 1, 8, 2, 0, 0, 1, 0, { at' := 1, data := List.replicate 64 5 }, none, 3⟩], launches := (partKey 7 8, s.launch 7) :: s.launches }

/-! The sluice engine. -/

/-- An ALLRED of 32 FP32 elements over the box given, with marks at an address. -/
def allred (box : List Nat) (marks : Nat) (lo : List (Nat × Nat) := []) : Push :=
  cmd 2 0x20 ([(16, 0x10000), (24, 0x20000), (32, 32), (40, 8), (48, marks)]
    ++ box.zipIdx.map (fun e => (64 + e.2, e.1)) ++ lo)

/-- Dies 0 and 1 with their link UP, and a launch on a cluster of each. -/
def twoDies (s : State) (up : Nat) : State :=
  { s with
    dies := [(0, { ports := [(0, { state := up, width := 3 })], etlb := pages }),
      (1, { ports := [(0, { state := up, width := 3 })], etlb := pages })]
    launches := [(7, { s.launch 7 with lord := [5, 0, 7], desc := { (s.launch 7).desc with cmask := 0x41 } })] }

/-- The sluice engine of die 0 with one entry. -/
def sSluice (p : Push) (up : Nat := 1) : State := twoDies (withQueue 30000000 { entries := [p] }) up

/-- The same with the other member's command posted. -/
def sMatch (p q : Push) (up : Nat := 1) : State :=
  let s := sSluice p up
  { s with engqs := s.engqs ++ [(30000001, { running := [{ push := q }] })] }

/-- The pair of dies that a link joins. -/
def boxTwo : List Nat := [0, 0, 0, 2, 1, 1]
/-- Die 0 alone. -/
def boxOne : List Nat := [0, 0, 0, 1, 1, 1]

/-- The state once die 0's ALLRED has matched alone. -/
def sAlone : State := after (.collectiveMatch 0 0) (sSluice (allred boxOne 0x18000))

/-- A RESHARD of descriptor 2 (die 0 alone) to layout 2 with one head, at 0x2_0000. -/
def reshard : Push := cmd 2 0x28 [(16, 2), (17, 2), (20, 1), (24, 0x20000), (32, 1)]
/-- The state once it has matched. -/
def sReshard : State := after (.collectiveMatch 0 0) (sSluice reshard)
/-- The state once it has its staging rows and its rows are listed. -/
def sMoving : State := after (.reshardRow 0 0) (after (.stagingGrant 0) sReshard)
/-- No collective. -/
def c0 : Coll :=
  { lid := 0, lord := [], k := 0, box := [], kind := 0, dies := [], pushes := [], trees := [], need := 0, granted := 0
    started := false, live := [], fin := 0, next := 0, runs := [], counts := [], zeroed := false, moving := false, rows := []
    held := [], nrow := 0, undo := [], tau := none }
/-- A started collective as given, between dies 0 and 1. -/
def sColl (c : Coll) (up : Nat := 1) : State := { sMatch (allred boxTwo 0) (allred boxTwo 0) up with colls := [c] }

/-- A packet from die 0 to die 1 with the hop entries given, of a collective. -/
def packet (route nhop : Nat) (cid : Nat := 0) : Packet :=
  { frm := 0, peer := 1, hdr := packHeader (BitVec.ofNat 72 route) nhop 0 0 true 4 0 0 0 cid, data := 7, src := 0 }
/-- A packet on the link of dies 0 and 1. -/
def sPacket (p : Packet) (up : Nat := 1) : State := { sColl (sAlone.colls.getD 0 c0) up with packets := [p] }
/-- A chunk in flight between dies 0 and 1. -/
def run2 : ChunkRun := ⟨0, 0, 0, [⟨0, [], [], [], 0, false⟩, ⟨1, [], [], [], 0, false⟩]⟩
/-- The started ALLRED of dies 0 and 1. -/
def cTwo : Coll :=
  { (after (.collectiveMatch 0 0) (sMatch (allred boxTwo 0x18000) (allred boxTwo 0x18000))).colls.getD 0 c0 with
    started := true, live := [(0, 1)], moving := true, runs := [run2] }
/-- The ALLRED of die 0 alone, its one chunk in flight. -/
def sChunk : State := after (.stagingGrant 0) sAlone
/-- A RESHARD that commits at tick 9. -/
def sCommit (now : Nat) : State :=
  { sMoving with now, colls := sMoving.colls.map fun c => { c with rows := [], moving := false, tau := some 9 } }
/-- Links of dies 0, 1, 2 and 3 in a ring of which the one of 0 and 1 is as given. -/
def sRing (c : Coll) (up : Nat) : State :=
  let d := fun (x y : Nat) => ({ ports := [(0, { state := x, width := 3 }), (1, { state := y, width := 3 })], etlb := pages } : Die)
  { sColl c up with dies := [(0, d up 1), (1, d up 1), (2, d 1 1), (3, d 1 1)] }
/-- The ALLRED with a second tree by the other way, and a chunk on it as well. -/
def cRing (runs : List ChunkRun) : Coll :=
  { cTwo with trees := [[(1, 0)], [(2, 0), (3, 2), (1, 3)]], live := [(0, 1), (0, 2), (2, 3), (1, 3)], runs }
/-- A load of the core that uses the first page. -/
def sLoadBusy : State := at0 { core0 with loads := [⟨.scalar 4, ⟨0, 0, 0, 0, false⟩, 0x100000, 8, 1, false, 3, none, 0, 0, 0⟩] }

/-! The posting-list engine. -/

/-- The posting-list engine of memory die 0 with one entry; the launch holds one of its slots. -/
def sPle (p : Push) : State :=
  let s := withQueue 40000000 { entries := [p] }
  { s with launches := [(7, { s.launch 7 with desc := { (s.launch 7).desc with plslot := [1] } })] }
/-- A QUERY of one term at 0x1_0000, one result at 0x2_0000. -/
def query : Push := cmd 8 0x30 [(17, 1), (22, 1), (24, 0x10000), (32, 0x20000), (40, 0x10100)]
/-- A CHECK of the same term. -/
def check : Push := cmd 8 0x31 [(17, 1), (24, 0x10000), (40, 0x10100)]
/-- A QUERY whose result page is copy-on-write and has a store of the core on its way. -/
def queryWaits : Push := cmd 8 0x30 [(17, 1), (22, 1), (24, 0x10000), (32, 0x30000), (40, 0x10100)]
/-- A block of three postings from document 10. -/
def postBlock : Block :=
  { term := 0, idx := 0, first := 10, poff := 0, count := 3, dbw := 4, maxtf := 4, bound := .zero false, prev := none
    next := some 20, list := 0 }

/-! The pumphouse. -/

/-- Queue 0 amid a word, of the test launch's address space. -/
def queue0 : Queue := { root := 1, base := 0x200, log2 := 9, en := true, mapped := true, tail := 5, since := 0 }
/-- A control slot's first word. -/
def slotWord (opc a b c : Nat) : W64 := BitVec.ofNat 64 (opc + 256 * a + 65536 * b + 2 ^ 32 * c)
/-- Queue 0 of a state as given. -/
def sQueue (k : Queue) (s : State := s0) : State := { s with queues := [(0, k)] }
/-- Queue 0 amid a word of one control slot. -/
def sCtl (opc a b c : Nat) (v : W64) (s : State := s0) : State :=
  sQueue { queue0 with word := [1, slotWord opc a b c, v] } s
/-- The test state with a launch descriptor at 0x2_0000 and its image at 0x2_1000. -/
def sDesc : State :=
  { s0 with mem := words memT [(0x110000, 0x0000000900000001), (0x110008, 0x21000), (0x110010, 2), (0x110018, 0x030000),
      (0x110038, 0x10040), (0x111000, 0x0001000000000001), (0x111008, 16), (0x111010, 0x40), (0x111028, 0x100),
      (0x111030, 0x80)] }
/-- Queue 0 amid a word of one die slot, for die 0. -/
def sSlot (w0 va opnd : W64) (s : State := s0) : State :=
  sQueue { queue0 with word := [2, w0, va, opnd], ctlDone := true, dies := [0] } s

/-! Launches. -/

/-- A state in which launch 9 waits for its first placement. -/
def sWaiting : State :=
  { sDesc with launches := (9, { lid := 9, root := 0x2000, phase := .waiting, desc := { LaunchDesc.none with
      cmask := 2, tiles := 16, image := 1, imgVa := 0x21000, code := 0x40, data := 0, dlen := 8, rings := 0x80
      na := 1, args := [11, 12, 13, 14] } }) :: sDesc.launches }
/-- The test state with its launch as given. -/
def withLaunch (f : Launch → Launch) (s : State := s0) : State := s.setLaunch 7 (f (s.launch 7))
/-- Core 0 trapped with a code, as the only core of its launch that is not halted. -/
def trapped (st code : Nat) (w1 w2 : W64 := 0) : Core :=
  { core0 with run := .trapped, trap := { state := st, pc := 0x20, code, w1, w2 }, ispm := [(0x20, 1)] }
/-- A state whose cores all have halted but core 0. -/
def sHalted (k : Core) : State :=
  { at0 k with cores := (0, k) :: (List.range 7).map fun i => (i + 1, { core0 with run := .halted }) }

/-! The host, links, time, start-up, power. -/

/-- Package 0 as given, ready for the host, with the page tables. -/
def sHost (k : Pkg := {}) (s : State := sQueue queue0) : State := { s with pkgs := [(0, { k with up := true })] }
/-- A request of session 1, the first it sends. -/
def msg (type addr arg len : Nat) (body : List Byte := []) (sess : Nat := 1) (seq : Nat := 0) : VvReq :=
  { type := BitVec.ofNat 8 type, sess, seq, addr, arg, len, body }
/-- Package 0 on a fabric of two packages along x, with two ports of a link of theirs as given. -/
def sLink (a b : LinkPort) (x : Die := {}) (s : State := s0) : State :=
  { s with
    pkgs := [(0, { topo := 0x1001 }), (1, { topo := 0x1009 })]
    dies := [(1, { x with ports := [(3, a)] }), (8, { x with ports := [(3, b)] })] }

/-! Witnesses: sampled loads and results on their way. -/

/-- Core 0 about to sample descriptor 1, a dense field of FP32 vectors, at a place inside it. -/
def sSamp : State :=
  let s := at0 { core0 with tiles := 128, regs := { regs0 with x := [(1, 0x8000), (2, 0x8000), (3, 0)] } }
  { s with launches := [(7, { s.launch 7 with fds := fields })] }
/-- The samples: the nearest vector, and eight of them. -/
def samples : List QFmt := [⟨1, 0, 1, 1, 2, 3, 0, 0, 0⟩, ⟨1, 0, 1, 1, 2, 3, 1, 0, 0⟩]
theorem test_wit_sampled_loads :
    samples.all (fun o =>
      let x := sSamp.begun.ctx .l
      let d := sSamp.begun.desc 0 o.fd.toNat
      let vs := (sampleAt o d x).map (vectorVas o d (x.own d) x)
      !(sSamp.launch 7).strict && sSamp.issues .l (.ldsmp o) 2 && (sSamp.cluster 0).sampTo ≤ sSamp.now && d.layout != 2 && !d.unset
        && (o.filt != 1 || [0x08, 0x09, 0x0A].contains d.fmt) && vs.flatten.all fun v =>
          (x.sampXlate v).any fun e => leafR e.leaf) = true := by decide +kernel
theorem test_wit_results_land :
    (sLand.core 0).land.map (fun l => decide (l.due ≤ sLand.now)) = [true, true, false, true] ∧
    (sLand.core 0).land.map (·.dest) = [.scalar 5, .row 3 2, .scalar 6, .scalar 7] ∧
    (sLand.core 0).land.map (fun l => decide (l.region < (sLand.core 0).region)) = [true, false, true, false] ∧
    (let k := sLand.core 0
     k.regs.x.wf = true ∧ k.shadow.x.wf = true ∧ k.tile.wf = true) := by decide +kernel
theorem test_wit_global_loads :
    (sLoads.core 0).loads.map (fun l => (decide (l.due ≤ sLoads.now), l.val))
      = [(true, some (List.replicate 8 3)), (true, none), (true, none)] ∧
    (let free := fun i => ((sLoads.core 0).loads[i]?).any fun l => ((sLoads.core 0).loads.take i).all fun e =>
       e.val.isSome || (e.cls != l.cls && !(e.src == l.src && e.off < l.off + l.size && l.off < e.off + e.size))
     free 0 = true ∧ free 1 = true ∧ free 2 = false) := by decide +kernel
theorem test_wit_stores_arrive :
    ((sOut.core 0).mayPerform 0 0 = true ∧ (sOut.core 0).mayPerform 0 1 = true ∧ (sOut.core 0).mayPerform 0 2 = true) ∧
    (sOutClr.core 0).mayPerform 0 0 = true ∧ (sOutRel.core 0).mayPerform 0 0 = true ∧ sOut.mem.wf = true ∧ sOut.now = 0 ∧ sOut.dead = [] ∧
    (sOut.core 0).outq.map (·.eff) = [.sp 0x80 [1, 2, 3], .store ⟨0, 0, 0, 0, false⟩ [(0x100000, 5)] 3 1 false,
      .store ⟨0, 0, 0, 0, false⟩ [(0x100080, 6), (0x100081, 7)] 4 3 false] := by decide +kernel
theorem test_wit_rows_arrive :
    ((sSends.core 0).sends.map fun p => (decide (p.due ≤ sSends.now), (sSends.core 0).earlierZero p.seq true, sendBlocked 0 p sSends,
      sSends.emptiesFirst 0 (p.lane * 16384 + p.off / 128) p.due))
      = [(true, false, false, false), (true, false, false, false), (false, false, false, false)] := by decide +kernel
theorem test_wit_core_housekeeping :
    (sHouse.core 0).sat = [⟨0, 2, 4, 0⟩] ∧ (sHouse.core 0).performedTo 0 = true ∧ sHouse.sem 0 2 + 4 ≤ 65535 ∧
    ([.placed, .ended].all fun r => ((sHouseFull r).core 0).run == r && 65535 < (sHouseFull r).sem 0 2 + 4
      && ((sHouseFull r).core 0).performedTo 0 && ((sHouseFull r).core 0).sat == [⟨0, 2, 4, 0⟩]) = true ∧ ((sHouse.core 0).waking = [(0, 0), (1, 9)] ∧ sHouse.now = 0) ∧
    ((sHouse.core 0).regs.port 2).wait = [(0, 9, 1)] ∧ (sHouse.core 0).regs.kpend = [⟨3, 77, 0, 0⟩] ∧
    ((sHouse.die 0).walks.map fun w => match w.who with
      | [(.handle c h, va)] =>
        let hd := (sHouse.core c).regs.handle h
        (decide (hd.state = .pending), decide (hd.va = va), (sHouse.walk 0 w.space w.root va.toNat).isSome)
      | _ => (false, false, false)) = [(true, true, true), (true, true, false), (true, false, true)] := by decide +kernel

/-! Witnesses: the copy and berm engines. -/

/-- Whether no line of cluster 0 is in error and none of some lines is to be emptied now. -/
def mayFill (s : State) (ls : List Nat) : Bool := (s.cluster 0).badSp.isEmpty && ls.all fun l => !s.emptiesFirst 0 l s.now
/-- The status of a CPYF's plan, the kind of its end and its runs. -/
def cpyfEnd (p : Push) : Nat × Nat × Nat :=
  let s := sCopy p
  let d := descOf (s.launch p.lid).fds (lineNum p.line 16 1)
  match cpyfPlan p.line p.opnd.toNat d (d.indexOf 0) with
  | .error st => (st, 0, 0)
  | .ok plan => match copyRuns (copyCtx (startHead (copyQueue 0) p s) 0 p) 0 plan (plan.runs + 1) { push := p }
      (startHead (copyQueue 0) p s) with
    | (.ends r, _) => (0, 1, r.count)
    | (.waits r, _) => (0, 2, r.prog)
theorem test_wit_copy_commands :
    ([cmd 0 9 [], cmd 0 1 [], cpyOne, cpyfRead, cpyfWait, cpyfUnset] : List Push).all (fun p =>
      ((sCopy p).engq (copyQueue 0)).entries == [p] && ((sCopy p).engq (copyQueue 0)).running.isEmpty && !lineOrd p.line
        && lineFl p.line < 8 && !lineSig p.line && !(sCopy p).reshardHolds 0 (copyQueue 0) p) = true ∧
    cpyOk (cmd 0 1 []).line = false ∧ lineWaitf cpyOne.line = false ∧ oneRun cpyOne 0 0x40 0x1050 100 = true ∧ mayFill (sCopy cpyOne) (metLines 0x1050 100) = true ∧
    ([cpyfRead, cpyfWait, cpyfUnset].map cpyfEnd).map (fun e => (decide (e.1 = 0), e.2.1)) = [(true, 1), (true, 2), (false, 0)] := by
  decide +kernel

/-- A CPY of 2 × 2 × 2 runs whose strides and operand wrap modulo 2^64. -/
def wideLine : Row :=
  line [(16, 0x10000), (24, 0x20000), (32, 8), (36, 2), (38, 2), (40, 2), (42, 1), (44, 1), (48, 2 ^ 64 - 16), (56, 77), (88, 5), (96, 9)]
theorem test_wit_copy_run_addresses :
    (List.range 5).map (fun i => lineNum wideLine (36 + 2 * i) 2) = [2, 2, 2, 1, 1] ∧
    (lineNum wideLine 16 8).testBit 63 = false ∧ (lineNum wideLine 24 8).testBit 63 = false := by decide +kernel

/-- A time buffer and a queue of cluster 0, at tick 100. -/
def sTimed (xs : List Timed) (q : EngQueue) : State :=
  let s := withQueue 10000000 q
  { s with clusters := [(0, { s.cluster 0 with tbuf := xs })], now := 100 }
/-- An entry of the time buffer for tick `n`. -/
def timed (n : Nat) : Timed := ⟨BitVec.ofNat 64 n, 0, { cpytOne with no := n, opnd := BitVec.ofNat 64 n }⟩
/-- A command that runs. -/
def aRun : Run := { push := cpyOne }
theorem test_wit_timed_copies :
    (let free := fun (xs : List Timed) => xs.all fun x => !(x.time.toNat ≤ ((sTimed xs {}).tbase 0).toNat && x.entered + 16 ≤ 100)
     free [] = true ∧ free [timed 1000, timed 2000] = true ∧ free ((List.range 64).map fun i => timed (1000 + i)) = true ∧
     free [timed 101] = true ∧ free [⟨5, 85, cpytOne⟩] = true ∧ free [⟨5, 84, cpytOne⟩] = false) ∧
    (([timed 1000, timed 2000].map fun x => x.time.toNat).Pairwise (· ≤ ·)) ∧
    [({ running := [aRun, aRun, aRun, aRun] } : EngQueue), { running := [aRun, aRun, aRun] }].map (fun q => decide (4 ≤ q.running.length))
      = [true, false] ∧ [timed 2000].contains ⟨5, 84, cpytOne⟩ = false ∧
    cpytOne.kind = 2 ∧ lineFl cpytOne.line < 8 ∧ lineOrd cpytOne.line = false ∧ lineSig cpytOne.line = false ∧
    lineWaitf cpytOne.line = false ∧ oneRun cpytOne 0 0x40 0x1050 100 = true ∧
    mayFill (sTimed [timed 5] {}) (metLines 0x1050 100) = true := by decide +kernel
theorem test_wit_lane_halos :
    ([cpyhTwo 0x200, cpyhTwo 0x17FFF0, cmd 0 4 [], cpyhWait] : List Push).map (fun p =>
      (((sCopy p).engq (copyQueue 0)).entries == [p] && p.kind == 4 && !lineOrd p.line && lineFl p.line < 8 && !lineSig p.line
        && ((sCopy p).cluster 0).full.wf, cpyhOk p.line, decide (lineNum p.line 16 4 + cpyhBytes p.line ≤ 0x180000),
        lineWaitf p.line, cpyhWaits p.line 0 ((sCopy p).cluster 0)))
      = [(true, true, true, false, false), (true, true, false, false, false), (true, false, true, false, false),
        (true, true, true, true, true)] ∧
    ((List.range 3).all fun i => mayFill (sCopy (cpyhTwo 0x200)) (cpyhFills (cpyhTwo 0x200).line i)) = true := by decide +kernel
theorem test_wit_berm_commands :
    ([bxch 2 0, cmd 1 0x11 []] : List Push).map (fun p =>
      (!(sBerm p).reshardHolds 0 (bermQueue 0) p, decide (p.kind = 0x10), decide (lineFaces p.line = 0)))
      = [(true, true, true), (true, false, true)] ∧ bxchStatus (sBerm (bxch 2 0)) 0 (bxch 2 0) = none ∧
    ((sBerm (bxch 2 0)).launch 7).bheld = [] := by decide +kernel
/-- A face's state whose descriptor lies at another address. -/
def faceAt (va : Nat) (s : State) : State :=
  { s with launches := [(7, { s.launch 7 with fds := (s.launch 7).fds.write 8 (0x2800000000000000 + BitVec.ofNat 64 va) })] }
/-- The same with a copy-on-write page there that a store of the core is on its way to. -/
def busyCow (s : State) : State :=
  { s with
    pkgs := [(0, { frames := [⟨0x140000, 65536⟩] })]
    cores := [(0, { s.core 0 with
      regs := { regs0 with h := [(9, ⟨.valid, 0x30000, ⟨0, 0x30000, 0x12000002D⟩⟩)] }
      outq := [⟨0, 0, .store ⟨0, 0, 0, 0, false⟩ [(0x120000, 5)] 3 1 false⟩] })] }
/-- The same where the walk of that page has failed for the engine. -/
def pageFails (s : State) : State := { s with dies := [(0, { s.die 0 with ebad := [(0, 5)] })] }
/-- What becomes of a face's pages: 0 ready, 1 waits, the status of a failure. -/
def pagesCome (s : State) (m : BermMsg) : Nat :=
  let d := descOf (s.launch 7).fds m.fd
  let i := (d.indexOf 0).getD 0
  match (bermCtx s 0 7).prepare (facePages d i true (d.facePoints m.face false)) { s with berms := [] } with
  | .ready _ => 0
  | .waits _ => 1
  | .fails _ st => st
/-- What a berm engine's run makes next: 0 for no face, 1 for one sent with its pages there, 2 for one of the boundary, 3 for one
whose pages fail. -/
def nextFace (r : Run) (s : State := sBermRun r) : Nat × Nat :=
  let d := bermDesc s 0 r.push
  let i := (d.indexOf 0).getD 0
  let items := bermItems d i (lineFaces r.push.line)
  (items.length, match items[r.prog]? with
    | some (.send f _) =>
      match (bermCtx s 0 7).prepare (facePages d i false ((d.facePoints f false).map (d.sourceOf f))) s with
      | .ready _ => 1
      | .waits _ => 0
      | .fails _ _ => 3
    | some (.own f) => if d.boundOf f = 0 then 2 else 0
    | none => 0)
theorem test_wit_faces_are_sent :
    [({ push := bxch 2 1 } : Run), { push := bxch 2 4 }, { push := bxch 2 5, prog := 1 }].map (fun r => nextFace r) = [(1, 1), (1, 2), (2, 2)] ∧
    lineMode (bxch 2 1).line = 0 ∧ (let r : Run := { push := bxch 2 1, out := 1 }; nextFace r (pageFails (faceAt 0x50000 (sBermRun r)))) = (1, 3) := by
  decide +kernel
/-- The face at die 1 of `sHop`. -/
def hopFace : BermMsg := (sHop {} {}).berms.getD 0 (face 2)
theorem test_wit_faces_travel :
    ([sHop { state := 1 } { state := 1 }, sHop {} {}] : List State).map (fun s =>
      (s.berms == [hopFace], decide ((s.launch (partKey 7 8)).phase = .placed), s.nextDie 1 8, s.joined 1 8, s.external 1 8))
      = [(true, true, some 8, true, some 0), (true, true, none, false, some 0)] ∧ hopFace.carry.at' ≠ hopFace.dst ∧ hopFace.fail = none ∧
    hopFace.carry.path = [] ∧
    (let s := twoDies (sFace { face 2 with carry := { at' := 1 } } 1) 1
     s.nextDie 1 0 = some 0 ∧ s.external 1 0 = none ∧ s.joined 1 0 = true) ∧
    (let s := sFace { face 2 with carry := { at' := 1 } } 1
     s.nextDie 1 0 = none ∧ s.bermTaken 7 0 2 = 1 ∧ (s.bermCmd 7 0 2 0).any (fun b => b.faces.getLsbD 0 && !(b.got ||| b.lost).getLsbD 0) = true) := by
  decide +kernel
theorem test_wit_faces_arrive :
    pagesCome (sFace (face 2) 1) (face 2) = 0 ∧ pagesCome (pageFails (faceAt 0x50000 (sFace (face 2) 1))) (face 2) = 7 ∧
    pagesCome (faceAt 0x40000 (sFace (face 2) 1)) (face 2) = 8 ∧ pagesCome (busyCow (faceAt 0x30000 (sFace (face 2) 1))) (face 2) = 1 ∧
    pagesCome (faceAt 0x50000 (sFace (face 2) 1)) (face 2) = 1 ∧
    ([sFace (face 2) 0, sFace (face 2) 1, busyCow (faceAt 0x30000 (sFace (face 2) 1))] : List State).all (fun s =>
      decide ((s.launch 7).phase = .placed) && !bermDiffers (face 2) s) = true ∧ (face 2).fail = none ∧ (face 2).src = (face 2).dst ∧
    (sFace (face 2) 0).bermTaken 7 0 2 = 0 ∧ (sFace (face 2) 1).bermTaken 7 0 2 = 1 ∧
    ((sFace (face 2) 1).bermCmd 7 0 2 0).any (fun b => b.faces == 1 && b.mode == 0 && b.got == 0 && b.lost == 0) = true := by
  decide +kernel

/-! Witnesses: the sluice and posting-list engines. -/

/-- What a posted entry meets: whether it may post, whether its box is one, whether it holds die 0, and the outcome of its
match: 0 none yet, 1 lines that differ, 2 no tree, 3 a collective. -/
def matchOf (s : State) (p : Push) : Bool × Bool × Bool × Nat :=
  let q := s.engq (sluiceQueue 0)
  let u := s.setEngq (sluiceQueue 0) { q with entries := removeAt q.entries 0 }
  let b := u.boxOf p
  let x := s.launch p.lid
  let k := x.posts.get 0 (boxKey 0 b)
  let v := u.setLaunch p.lid { x with posts := x.posts.put (boxKey 0 b) (k + 1) }
  let r : Run := { push := p, k, status := postStatus u 0 p, before := u.naming p }
  let w := v.setEngq (sluiceQueue 0) { v.engq (sluiceQueue 0) with running := q.running ++ [r] }
  (q.entries == [p] && s.mayPost 0 0 p && (q.running.all fun e => e.push != p) && w.colls.all fun c => !c.pushes.contains p,
    u.boxOk p b, (boxDies b).contains 0,
    match (boxDies b).mapM (w.partner p.lid k b) with
    | none => 0
    | some rs =>
      if !rs.all (fun e => e.status == stDone) then 9
      else if rs.any fun e => !sameLine (rs.headD r).push e.push then 1
      else if (rs.all fun f => sameLine (rs.headD r).push f.push) && !(w.deriveTrees (boxDies b) (rootOf p (boxDies b)) 3 w.liveLinks).isEmpty
        then 3 else 2)
theorem test_wit_collectives_match :
    matchOf (sSluice (allred boxTwo 0)) (allred boxTwo 0) = (true, true, true, 0) ∧
    matchOf (sMatch (allred boxTwo 0) (allred boxTwo 0 [(33, 1)])) (allred boxTwo 0) = (true, true, true, 1) ∧
    matchOf (sMatch (allred boxTwo 0) (allred boxTwo 0) 0) (allred boxTwo 0) = (true, true, true, 2) ∧
    matchOf (sMatch (allred boxTwo 0) (allred boxTwo 0)) (allred boxTwo 0) = (true, true, true, 3) ∧
    (matchOf (sSluice (cmd 2 0x29 [])) (cmd 2 0x29 [])).1 = true ∧
    (matchOf (sSluice (allred [0, 0, 0, 9, 1, 1] 0)) (allred [0, 0, 0, 9, 1, 1] 0)).2.1 = false ∧
    (matchOf (sSluice (allred [0, 0, 0, 9, 1, 1] 0)) (allred [0, 0, 0, 9, 1, 1] 0)).1 = true ∧
    (matchOf (sSluice reshard) reshard).1 = true := by decide +kernel
/-- The first collective of a state: who is asked, its need, what the pool there holds, whether one comes before. -/
def asked (s : State) : Option Nat × Bool × Bool × Bool :=
  let c := s.colls.getD 0 c0
  let f := c.asks.getD 0
  let d := s.die f
  (c.asks, decide (c.need ≤ d.pool), s.colls.any fun x => x.asks == some f && x.need ≤ d.pool && keyLess x.key c.key,
    decide (c.granted + 1 = c.dies.length))
theorem test_wit_staging_grants :
    asked sReshard = (some 0, true, false, true) ∧ (sReshard.colls.getD 0 c0).kind = 0x28 ∧
    asked (after (.collectiveMatch 0 0) (sMatch (allred boxTwo 0) (allred boxTwo 0))) = (some 0, true, false, false) ∧
    (asked { sAlone with dies := [(0, { pool := 10 })] }).2.1 = false ∧
    ((sReshard.colls.any fun x => x.started && x.cid == (sReshard.colls.getD 0 c0).cid) = false) ∧
    (let s := { sReshard with colls := sReshard.colls ++ sReshard.colls.map fun c => { c with started := true } }
     asked s = (some 0, true, false, true) ∧ (s.colls.any fun x => x.started && x.cid == (s.colls.getD 0 c0).cid) = true) := by decide +kernel
/-- A packet from die 1 to die 8 over an external link whose far port is as given. -/
def sExternal (x : LinkPort) (cut : Option (BitVec 12)) : State :=
  { sLink { state := 1 } x with packets := [{ packet (4 * 8) 1 with frm := 1, peer := 8, cut }] }
theorem test_wit_sluice_packets :
    (sPacket (packet 0 0) 0).joined 0 1 = false ∧ (sPacket (packet 0 0)).joined 0 1 = true ∧ (sPacket (packet 0 0)).external 0 1 = none ∧
    ([packet 0 0, packet (4 * 8) 1, packet (5 * 8) 1, packet (7 * 8) 1, packet 1 2, packet 5 2, packet 6 2, packet (1 * 8) 1,
      packet (3 * 8 + 5) 2, packet (2 * 8) 1] : List Packet).map (fun p => (decide (p.nhop = 0), p.route.toNat % 8, p.route.toNat / 8 % 8))
      = [(true, 0, 0), (false, 0, 4), (false, 0, 5), (false, 0, 7), (false, 1, 0), (false, 5, 0), (false, 6, 0), (false, 0, 1),
        (false, 5, 3), (false, 0, 2)] ∧
    (let p := packet (2 * 8) 1 cTwo.cid
     let p' : Packet := { p with hdr := shiftHeader p.hdr }
     (numbered 0 (sColl cTwo).colls).find? (fun e => e.2.started && p'.isOf e.2) = some (0, cTwo) ∧
     cTwo.runs.find? (fun r => r.chunk == p'.chunk && r.tree == p'.tree) = some run2) := by decide +kernel
theorem test_wit_external_packets :
    ([sExternal { state := 1 } none, sExternal { state := 1 } (some 2), sExternal { state := 1, rx := [(1, 0, 5), (2, 0, 7)] } (some 2)] :
      List State).map (fun s => (s.external 1 8, s.joined 1 8, (sendPacket 1 3 0 0 s).isSome, (takePacket 8 3 2 s).isSome))
      = [(some 0, true, true, false), (some 0, true, true, false), (some 0, true, true, true)] := by decide +kernel
/-- A chunk's end at die 0: whether it is done there, whether everything has come, whether its pages are ready (0), waited for
(1) or fail (2), and whether it is then done everywhere. -/
def finishing (s : State) : Bool × Bool × Nat × Bool :=
  let c := s.colls.getD 0 c0
  let r := c.runs.getD 0 run2
  let m := (r.at'.find? fun m => m.die == 0).getD ⟨0, [], [], [], 0, true⟩
  (m.done, chunkHere c r m, (match (c.ctx s 0).prepare (c.chunkPages r 0) s with
    | .ready _ => 0
    | .waits _ => 1
    | .fails _ _ => 2), (r.at'.map fun x => if x.die == 0 then { x with done := true } else x).all (·.done))
/-- The same chunk where another member has not done with it. -/
def sChunkMore : State :=
  { sChunk with colls := sChunk.colls.map fun c => { c with
      runs := c.runs.map fun r => { r with at' := r.at' ++ [⟨1, [], [], [], 0, false⟩] } } }
/-- The same chunk where another member has done with it, and die 0 as well. -/
def sChunkDone : State :=
  { sChunk with colls := sChunk.colls.map fun c => { c with
      runs := c.runs.map fun r => { r with at' := r.at'.map fun m => { m with done := true } } } }
theorem test_wit_chunks_finish :
    [sChunk, sChunkMore, { sChunk with dies := [] }, { sChunk with mem := [], dies := [(0, { ebad := [(0, 1), (0, 2)] })] }].map finishing
      = [(false, true, 0, true), (false, true, 0, false), (false, true, 1, true), (false, true, 2, true)] ∧
    (finishing (sColl cTwo)).2.1 = false ∧ (finishing sChunkDone).1 = true ∧
    (let c := (sMatch (allred boxTwo 0x18000 [(42, 1), (56, 0x19000)]) (allred boxTwo 0x18000 [(42, 1), (56, 0x19000)]))
     let c := (after (.collectiveMatch 0 0) c).colls.getD 0 c0
     lineAudit (c.lineOf 0) = true ∧ c.idleIn 0 0 = false ∧ c.kind ≠ 0x24) := by decide +kernel
/-- What a recovery meets: whether it may start, a tree lost, no marks, chunks remain, trees remain, nothing staged. -/
def recovering (s : State) : Bool × Bool × Bool × Bool × Bool × Bool :=
  let c := s.colls.getD 0 c0
  let live := s.liveLinks.filter c.live.contains
  let gone := (c.runs.filter (abandoned c live)).map (·.chunk)
  (c.started && c.kind != 0x28, !c.treesLive live, c.unmarked, !(c.leaveChunks gone).runs.isEmpty,
    !(((abandonChunks 0 gone s).deriveTrees c.dies c.root 3 live).take c.trees.length).isEmpty, c.held.isEmpty)
/-- The ALLRED of dies 0 and 1 without marks. -/
def cBare : Coll :=
  { (after (.collectiveMatch 0 0) (sMatch (allred boxTwo 0) (allred boxTwo 0))).colls.getD 0 c0 with started := true, live := [(0, 1)] }
theorem test_wit_trees_recover :
    [sColl cTwo 1, sColl cBare 0, sColl cTwo 0, sRing (cRing []) 0, sRing (cRing [run2, { run2 with chunk := 1, tree := 1 }]) 0].map recovering
      = [(true, false, false, true, true, true), (true, true, true, false, false, true), (true, true, false, false, false, true),
        (true, true, false, false, true, true), (true, true, false, true, true, true)] := by decide +kernel
/-- A row of a RESHARD from one member to another. -/
def reRow (a b : Nat) : ReRow := { src := a, dst := b, phase := 0, round := 0, turn := 0, elems := [(0, [1, 2, 3, 4])], origin := none }
/-- The moving RESHARD with the rows of three members, whose room is as given. -/
def sTwoMoving (need pool : Nat) : State :=
  { sMoving with
    colls := sMoving.colls.map fun c => { c with dies := [0, 1, 2], rows := [reRow 0 1, reRow 2 1, reRow 0 2], need }
    dies := [(1, { pool }), (0, { pool })] }
/-- The moving RESHARD of die 0 with its rows listed twice. -/
def sRowsTwice : State := { sMoving with colls := sMoving.colls.map fun c => { c with rows := c.rows ++ c.rows } }
/-- A RESHARD's row that sets out: whether it is its member's first, the room at its destination, how its bytes stand after its first
way, as far as the links let them. -/
def settingOut (s : State) (k : Nat) : Bool × Nat × Nat × List Nat :=
  let c := s.colls.getD 0 c0
  let r := c.rows.getD k (reRow 0 1)
  let t := if (c.room s r.dst).1 = 0 then s.setDie 1 { s.die 1 with pool := (s.die 1).pool - 1 } else s
  let g : Carry := { at' := c.dies.getD r.src 0, path := c.rowPath r t, data := r.elems.flatMap (·.2) }
  let d : Coll := { c with rows := removeAt c.rows k, held := c.held ++ [⟨c.nrow, r.dst, (c.room s r.dst).1 == 0, 0⟩], nrow := c.nrow + 1
                           onWay := c.onWay ++ [⟨r, some c.nrow, g⟩] }
  let w := (g.run (d.rowHeader r (t.setColl 0 d)) (g.path.length + 1) (t.setColl 0 d)).2
  ((c.rows.take k).all fun q => q.src != r.src, (c.room s r.dst).1 + (c.room s r.dst).2, w.at', w.path)
theorem test_wit_reshard_rows :
    (let c := sRowsTwice.colls.getD 0 c0
     let r := c.rows.getD 0 (reRow 0 1)
     let new := c.newField sRowsTwice
     c.started = true ∧ c.kind = 0x28 ∧ c.tau = none ∧ c.ending = none ∧ c.moving = true ∧ r.src = r.dst ∧ r.origin = none ∧ r.elems ≠ [] ∧
     (r.elems.all fun e => e.2.length == new.es) = true ∧ (r.elems.all fun e => new.ownerOf e.1 == r.dst) = true ∧ 1 < c.rows.length ∧
     (match (readyNoted (c.ctx sRowsTwice 0) (r.elems.map fun e => new.elemVa e.1) sRowsTwice).2 with
       | .ready _ => true
       | _ => false) = true) ∧
    ([(0, 0), (0, 1)].map fun e =>
      let s := sTwoMoving e.1 e.2
      let c := s.colls.getD 0 c0
      ((c.room s 1).1 + (c.room s 1).2, [0, 1, 2].map fun k => (c.rows.take k).all fun q => q.src != (c.rows.getD k (reRow 0 1)).src,
        rivalled c (reRow 2 1) s))
      = [(0, [true, true, false], true), (1, [true, true, false], true)] ∧
    settingOut (sTwoMoving 0 2) 0 = (true, 2, 0, [1]) := by decide +kernel
/-- The moving RESHARD aborted, with the translations dropped then. -/
def sAborted (xs : List Xlation) (s : State := sMoving) : State :=
  { s with colls := sMoving.colls.map fun c => { c with ending := some (5, xs) }, cores := sLoadBusy.cores }
theorem test_wit_reshard_aborts :
    ([([], true), ([pageRW], false)] : List (List Xlation × Bool)).all (fun e =>
      let s := sAborted e.1
      s.quiet e.1 == e.2 && s.colls.all fun c => c.started && c.tau.isNone && c.ending == some (5, e.1)) = true := by decide +kernel
theorem test_wit_reshard_commits :
    ((sCommit 8).colls.getD 0 c0).tau = some 9 ∧ ((sCommit 8).colls.getD 0 c0).kind = 0x28 ∧ (sCommit 8).colls.length = 1 ∧
    7 ∈ ((sCommit 8).colls.getD 0 c0).parts (sCommit 8) ∧ (sCommit 8).now = 8 ∧ (sCommit 9).now = 9 := by
  decide +kernel

/-- The end of a command of the posting-list engine: its status, or 0 where it waits. -/
def pleResult : PleEnd → Nat
  | .ends _ st _ _ => st
  | .waits _ => 0
/-- The state in which a command of the posting-list engine runs. -/
def pleHeld (s : State) (p : Push) : State := s.setEngq (pleQueue 0) { s.engq (pleQueue 0) with entries := [], running := [{ push := p }] }
/-- A CHECK of the waiting page. -/
def checkWaits : Push := cmd 8 0x31 [(17, 1), (24, 0x10000), (40, 0x30100)]
theorem test_wit_posting_list_commands :
    ([query, check, queryWaits, checkWaits, cmd 8 0x30 [], cmd 8 0x31 [], cmd 8 0x32 []] : List Push).all (fun p =>
      ((sPle p).engq (pleQueue 0)).entries == [p] && pleMayStart (sPle p) 0 0 p && pleMayStart (busyCow (sPle p)) 0 0 p
        && lineFl p.line < 8 && !lineSig p.line && lineSlot p.line < (sPle p).slotsOf 0 p.lid) = true ∧
    queryOk query.line = true ∧ checkOk check.line = true ∧ queryOk (cmd 8 0x30 []).line = false ∧ checkOk (cmd 8 0x31 []).line = false ∧
    pleResult (runQuery 0 query (pleHeld (sPle query) query)) ≠ 0 ∧
    pleResult (runQuery 0 queryWaits (pleHeld (busyCow (sPle queryWaits)) queryWaits)) = 0 ∧ queryOk queryWaits.line = true ∧
    pleResult (runCheck 0 check (pleHeld (sPle check) check)) ≠ 0 ∧
    pleResult (runCheck 0 check (pleHeld { sPle check with dies := [] } check)) = 0 ∧ lineRec (cmd 8 0x32 []).line = 0 ∧
    checkOk checkWaits.line = true := by decide +kernel
theorem test_wit_posting_blocks :
    ((postBlock.decode 0x2D35).map fun ps => ps.map fun p => (p.doc, p.tf)) = some [(10, 2), (15, 4), (18, 3)] := by decide +kernel
/-- Scores of documents, two of them equal and one no number. -/
def scores : List (Nat × XVal) :=
  [(4, .fin false 2 (-1)), (6, .nan), (5, .inf true), (1, .fin false 1 0), (3, .zero true), (2, .fin false 1 2)]
theorem test_wit_ranking :
    (XVal.fin false 1 0).isNan = false ∧ xlt (.fin false 1 0) (.fin false 2 0) = true ∧ xlt (.fin false 2 0) (.fin false 1 0) = false ∧
    xeq (.fin false 1 0) (.fin false 2 0) = false ∧ xeq (.fin false 2 0) (.fin false 1 0) = false ∧ lineFusion (line []) = 0 ∧
    (scores.all fun e => match e.2 with
      | .fin _ m _ => m != 0
      | _ => true) = true ∧
    ranked scores = [(2, .fin false 1 2), (1, .fin false 1 0), (4, .fin false 2 (-1)), (3, .zero true), (5, .inf true)] := by
  decide +kernel

/-! Witnesses: the pumphouse and launches. -/

/-- Queue semaphore 4 of package 0 with a value. -/
def sSem (v : BitVec 32) : State := { s0 with pkgs := [(0, { qsem := [(4, v)] })] }
/-- Whether a queue's word is at a control slot of an operation with these fields. -/
def atSlot (s : State) (opc a b c : Nat) (v : W64) : Bool :=
  let b' := beginWord 0 s
  let x := (b'.queue 0).ctrl
  atControl 0 b' && x.opc == opc && x.a == a && x.b == b && x.c == c && x.v == v
/-- The launch saved, with its cluster. -/
def savedL : State := withLaunch fun x => { x with phase := .saved, saved := some ⟨[], [(0, {})], [], []⟩ }
theorem test_wit_queue_words :
    ([(0, 0, 0, 0, 0), (10, 0, 0, 0, 0), (2, 4, 0, 5, 0), (2, 4, 1, 5, 0), (3, 4, 0, 5, 0), (5, 0, 0, 0, 9), (5, 0, 0, 0, 0),
      (11, 0, 0, 0, 0x10008), (11, 0, 0, 0, 0x50008), (4, 2, 0, 65535, 7), (4, 2, 1, 5, 7), (4, 2, 0, 5, 8)] :
        List (Nat × Nat × Nat × Nat × W64)).all
      (fun e => atSlot (sCtl e.1 e.2.1 e.2.2.1 e.2.2.2.1 e.2.2.2.2) e.1 e.2.1 e.2.2.1 e.2.2.2.1 e.2.2.2.2) = true ∧
    ([0, 4, 5, 0xFFFFFFFA, 0xFFFFFFFB] : List (BitVec 32)).map (fun v =>
      let n := (((beginWord 0 (sCtl 2 4 0 5 0 (sSem v))).pkg 0).qsem.read 4).toNat
      (atSlot (sCtl 2 4 0 5 0 (sSem v)) 2 4 0 5 0, decide (n < 5), decide (n + 5 ≤ 0xFFFFFFFF)))
      = [(true, true, true), (true, true, true), (true, false, true), (true, false, true), (true, false, false)] ∧
    ((beginWord 0 (sCtl 5 0 0 0 9)).tbase 0).toNat = 0 ∧
    ([0x10008, 0x50008] : List Nat).map (fun va =>
      let b := beginWord 0 (sCtl 11 0 0 0 (BitVec.ofNat 64 va))
      (b.writeVa 0 0 ((b.queue 0).root.toNat * 8192) va (bytesOf 8 (b.tbase 0)) leafW).isSome) = [true, false] ∧
    atSlot (sCtl 4 2 0 5 7 savedL) 4 2 0 5 7 = true ∧ (s0.launch 7).desc.cmask.getLsbD 0 = true ∧ (s0.launch 7).phase = .placed ∧
    (savedL.launch 7).desc.cmask.getLsbD 0 = true ∧ (savedL.launch 7).phase = .saved ∧ (s0.launch 7).desc.cmask.getLsbD 1 = false ∧
    (s0.launch 8).phase = .none := by decide +kernel

/-- Queue 0 that waits for a launch. -/
def withAdmit (l : Nat) (s : State) : State := s.setQueue 0 { s.queue 0 with admitted := some l }
/-- Queue 0 that waits for accesses. -/
def withInval (xs : List Xlation) (s : State) : State := s.setQueue 0 { s.queue 0 with inval := some xs }
/-- How a launch's descriptor reads: 0 unread, 1 refused, 2 admitted. -/
def launchReading (va : Nat) (s : State) : Nat :=
  match readLaunch (beginWord 0 s) 0 va with
  | .unread => 0
  | .refused _ _ => 1
  | .admitted _ _ => 2
theorem test_wit_queue_launch_words :
    ([(1, 0, 0, 0, 0x50000), (1, 0, 0, 0, 0x10000), (1, 0, 0, 0, 0x20000), (6, 0, 0, 0, 7), (6, 0, 0, 0, 8), (7, 0, 7, 1, 0x50000),
      (7, 0, 7, 1, 0x10000), (7, 0, 8, 1, 0x10000), (9, 0, 0, 0, 7), (9, 0, 0, 0, 8), (8, 0, 0, 1, 0x50000), (8, 0, 0, 1, 0x10000)] :
        List (Nat × Nat × Nat × Nat × W64)).all (fun e =>
      let s := sCtl e.1 e.2.1 e.2.2.1 e.2.2.2.1 e.2.2.2.2 sDesc
      atSlot s e.1 e.2.1 e.2.2.1 e.2.2.2.1 e.2.2.2.2 && ((beginWord 0 s).queue 0).admitted.isNone && ((beginWord 0 s).queue 0).inval.isNone
        && atSlot (withAdmit 7 s) e.1 e.2.1 e.2.2.1 e.2.2.2.1 e.2.2.2.2 && ((beginWord 0 (withAdmit 7 s)).queue 0).admitted == some 7
        && ((beginWord 0 (withInval [pageRW] s)).queue 0).inval == some [pageRW]) = true ∧
    launchReading 0x50000 (sCtl 1 0 0 0 0x50000 sDesc) = 0 ∧ launchReading 0x10000 (sCtl 1 0 0 0 0x10000 sDesc) = 1 ∧
    launchReading 0x20000 (sCtl 1 0 0 0 0x20000 sDesc) = 2 ∧
    (sDesc.launch 7).phase = .placed ∧ (sWaiting.launch 9).phase = .waiting ∧ (sDesc.launch 7).drain = none ∧
    (sDesc.launch 7).desc.fabric = false ∧ (sDesc.launch 8).phase = .none ∧
    ([0x50000, 0x10000] : List Nat).map (fun va =>
      let b := beginWord 0 (sCtl 7 0 7 1 (BitVec.ofNat 64 va) sDesc)
      ((b.vaBytes 0 0 ((b.queue 0).root.toNat * 8192) va 8 leafR).isSome,
        (b.walk 0 0 ((b.queue 0).root.toNat * 8192) va).isSome)) = [(false, false), (true, true)] ∧
    sLoadBusy.quiet [pageRW] = false ∧ s0.quiet [pageRW] = true := by decide +kernel

/-- What a die slot meets: the state it is in, whether its line reads, its launch's phase, its home, the room in its queue. -/
def dieSlotMeets (s : State) : Bool × Bool × Bool × Bool × Bool :=
  let b := beginWord 0 s
  let k := b.queue 0
  let x := k.slotAt ((headerDies (k.word.headD 0)).length - k.dies.length)
  let l := b.launch x.lid
  let e := slotPush 0 0 x 0
  (k.en && !k.bad && k.mapped && !k.word.isEmpty && k.ctlDone && k.dies == [0] && !headerSync (k.word.headD 0) && k.tick.isNone,
    (b.vaBytes 0 0 (k.root.toNat * 8192) x.va 128 leafR).isSome, decide (l.phase = .placed), slotHome l.desc.cmask 0 x,
    b.roomIn e.q (pushTarget e.core e.q) e.lid != 0)
/-- A package with a held slot. -/
def sHeld (tick arrive : W64) : State :=
  { s0 with pkgs := [(0, { toff := 100, syncs := [⟨tick, arrive, cmd 0 1 []⟩] })] }
/-- A queue amid a SYNC word of one die slot, or of two with the second die's, whose command sits in memory. -/
def sSync (two : Bool) : State :=
  let w := if two then [0x206, 0x00070060, 0x10000, 0, 0x00070060, 0x10000, 0] else [0x202, 0x00070060, 0x10000, 0]
  sQueue { queue0 with word := w, ctlDone := true, dies := if two then [0, 1] else [0] } s0
/-- What the first slot of a SYNC word meets: that it is one with all its slots to send, its line, its launch, its home, its room. -/
def syncMeets (s : State) : Bool × Bool × Bool × Bool × Bool :=
  let b := beginWord 0 s
  let k := b.queue 0
  let n := (headerDies (k.word.headD 0)).length
  let x := k.slotAt (n - k.dies.length)
  let l := b.launch x.lid
  let e := slotPush 0 0 x 0
  let v := b.setQueue 0 { k with tick := some 16 }
  let w := v.afterRead 0 0 (k.root.toNat * 8192) x.va 128
  (k.en && !k.bad && k.mapped && !k.word.isEmpty && k.ctlDone && k.dies.head? == some 0 && headerSync (k.word.headD 0)
      && decide (k.dies.length ≤ n),
    (v.vaBytes 0 0 (k.root.toNat * 8192) x.va 128 leafR).isSome, decide (l.phase = .placed), slotHome l.desc.cmask 0 x,
    w.roomIn e.q (pushTarget e.core e.q) e.lid != 0)
theorem test_wit_sync_slots :
    [sSync false, sSync true].map syncMeets = [(true, true, true, true, true), (true, true, true, true, true)] := by decide +kernel
theorem test_wit_die_slots :
    dieSlotMeets (sSlot 0x00070060 0x50000 0) = (true, false, true, true, true) ∧
    dieSlotMeets (sSlot 0x00070060 0x10000 0) = (true, true, true, true, true) ∧
    (dieSlotMeets (sSlot 0x00080060 0x10000 0)).2.2.1 = false ∧ ((sSlot 0x00080060 0x10000 0).launch 8).phase = .none ∧
    dieSlotMeets (sSlot 0x00070060 0x10000 0 savedL) = (true, true, false, true, true) ∧
    ((beginWord 0 (sSlot 0x00070060 0x10000 0 savedL)).launch 7).phase = .saved ∧ (dieSlotMeets (sSlot 0x00070064 0x10000 0)).2.2.2.1 = false ∧
    dieSlotMeets (sSlot 0x00070060 0x10000 0 { s0 with engqs := [(10000000, { entries := List.replicate 64 (cmd 0 1 []) })] })
      = (true, true, true, true, false) ∧
    ([(100, 100), (101, 100), (100, 101), (50, 60)] : List (W64 × W64)).map (fun e =>
      let s := sHeld e.1 e.2
      (decide (max e.1.toNat e.2.toNat ≤ (s.tbase 0).toNat), decide ((s.launch (cmd 0 1 []).lid).phase = .placed)))
      = [(true, true), (false, true), (false, true), (true, true)] := by decide +kernel
theorem test_wit_queue_registers :
    ((sQueue queue0).queue 0).en = true ∧ queue0.bad = false ∧ queue0.word = [] ∧
    ([0x200, 0x201] : List (BitVec 32)).map (fun t => decide (2 ^ queue0.log2.toNat < (t - queue0.head).toNat)) = [false, true] ∧
    (let on := sQueue { queue0 with word := [1, 0, 0], bad := true }
     (on.queue 0).bad = true ∧ (on.queue 0).word ≠ []) ∧
    (let on := sQueue { queue0 with word := [1, 0, 0] }
     (on.queue 0).bad = false ∧ (on.queue 0).word ≠ [] ∧ (on.queue 0).ending = false) ∧
    ((sQueue { queue0 with ending := true }).queue 0).ending = true ∧
    ((sQueue { queue0 with en := false }).queue 0).en = false := by decide +kernel
/-- A queue that is ready, mapped or not. -/
def readyQueue (mapped : Bool) : Queue := { queue0 with mapped, word := [1, 0, 0] }
theorem test_wit_queue_slots :
    (let s := { s0 with queues := (List.range 16).map fun i => (i, readyQueue (i % 2 == 0)) }
     let qs := List.range 64
     (qs.filter fun q => (s.queue q).mapped).length = 8 ∧ (qs.filter fun q => (s.queue q).mapped || queueState s q == 2).length = 16) := by
  decide +kernel
theorem test_wit_launches_are_placed :
    s0.bestLaunch 0 = none ∧ sWaiting.bestLaunch 0 = some 9 ∧ (sWaiting.launch 9).phase = .waiting ∧ sWaiting.chosen 9 = true ∧
    sWaiting.dead = [] ∧ (sWaiting.launch 9).desc.fabric = false ∧ (sWaiting.launch 9).desc.args.length = 4 ∧ launchPkg 9 = 0 ∧
    sWaiting.placedCores 9 = [8, 9, 10, 11, 12, 13, 14, 15] := by decide +kernel
/-- A halted core. -/
def haltedCore : Core := { core0 with run := .halted }
theorem test_wit_launches_end :
    ((s0.launch 9).phase ≠ .placed) ∧
    (let s := sHalted haltedCore
     (s.launch 7).phase = .placed ∧ (s.launch 7).doom = none ∧ s.halted 7 = true ∧ (s.engineHolds fun p => p.host && p.lid == 7) = false ∧
     (s.pkgs.any fun p => p.2.syncs.any fun y => y.entry.lid == 7) = false) ∧
    (let s := withLaunch (fun x => { x with doom := some (2, 0) }) (sHalted haltedCore)
     (s.launch 7).doom = some (2, 0) ∧ ((s.placedCores 7).any fun c => (s.core c).run == .placed || (s.core c).run == .trapped) = false) ∧
    ([none, some []] : List (Option (List Xlation))).map (fun v =>
      let s := withLaunch (fun x => { x with snaps := [⟨0, [1], v⟩] }) (sHalted haltedCore)
      (s.halted 7, decide ((s.launch 7).phase = .placed), (s.parts 7).all fun m => (s.launch m).doom.isNone, s.snapsDone 7))
      = [(true, true, true, false), (true, true, true, true)] ∧
    (let s := sWaiting.setLaunch 9 { sWaiting.launch 9 with doom := some (2, 0) }
     (s.launch 9).phase = .waiting ∧ (s.launch 9).doom = some (2, 0) ∧ (s.launch 9).snaps = [] ∧ (s.launch 9).saved = none) ∧
    (let k := (at0 { core0 with run := .ended, regs := { regs0 with h := [] } }).core 0
     k.run = .ended ∧ k.settled = true ∧ k.outq = [] ∧ k.satTrap = []) := by decide +kernel

/-- The launch of the test, with PRE and the lowest priority, on two clusters. -/
def preL (s : State) : State := withLaunch (fun x => { x with desc := { x.desc with pre := true, pri := 0, cmask := 3 } }) s
/-- A launch of a higher priority that waits for one of them. -/
def sInWay : State := let s := preL sWaiting; s.setLaunch 9 { s.launch 9 with desc := { (s.launch 9).desc with pri := 5 } }
/-- The launch drained at tick 0, with its cores stopped, at a tick. -/
def sDrained (now : Nat) : State :=
  withLaunch (fun x => { x with drain := some 0 })
    { preL { s0 with cores := (List.range 16).map fun i => (i, { core0 with run := .stopped, regs := { regs0 with h := [] } }) } with now }
/-- The launch under a watchdog of 1 µs, at a tick. -/
def sDog (now : Nat) : State := withLaunch (fun x => { x with desc := { x.desc with wdog := 1 } }) { s0 with now }
theorem test_wit_preemption_steps :
    (let s := sInWay
     let x := s.launch 7
     x.phase = .placed ∧ x.desc.fabric = false ∧ x.desc.pre = true ∧ x.drain = none ∧
     (s.launches.any fun e => launchPkg e.1 == 0 && s.launchReady e.1 && !s.fits e.1 && x.desc.pri < e.2.desc.pri && s.blocks 7 e.2.desc) = true) ∧
    (let s := sDrained 0
     let x := s.launch 7
     let cs := (s.parts 7).flatMap s.placedCores
     x.phase = .placed ∧ x.desc.pre = true ∧ x.drain = some 0 ∧ 0 + 1600 * x.desc.drain ≤ s.ticks 0 ∧ x.doom = none ∧ s.halted 7 = false ∧
     (cs.all fun c => [RunSt.stopped, .ended, .halted].contains (s.core c).run && (s.core c).idle && !s.walking c) = true ∧ s.engqs = [] ∧ s.berms = []) ∧
    ([1599, 1600].map fun n =>
      let s := withLaunch (fun x => { x with desc := { x.desc with drain := 1 } }) (sDrained n)
      decide (s.ticks 0 < 0 + 1600 * (s.launch 7).desc.drain)) = [true, false] ∧
    (savedL.chosen 7 = true ∧ (savedL.launch 7).phase = .saved) ∧ (s0.launch 7).desc.pre = false ∧
    (s0.launch 7).phase = .placed ∧ (s0.launch 7).desc.fabric = false ∧ (s0.launch 7).drain = none ∧ (s0.launch 7).phase ≠ .saved ∧
    ([1600, 1601].map fun n =>
      let x := (sDog n).launch 7
      (decide (x.phase = .placed ∧ x.desc.wdog ≠ 0 ∧ x.doom = none), (sDog n).halted 7, decide (1600 * x.desc.wdog < x.ran + ((sDog n).ticks 0 - x.since))))
      = [(true, false, false), (true, false, true)] := by decide +kernel
/-- The test state with a free frame. -/
def framed (s : State) : State := { s with pkgs := [(0, { frames := [⟨0x140000, 65536⟩] })] }
/-- A core trapped on a store to a copy-on-write page whose page has an access on its way. -/
def sCowBusy : State :=
  let s := busyCow (at0 (trapped 0 0x0B 0x30000))
  s.setCore 0 { s.core 0 with run := .trapped }
theorem test_wit_trap_answers :
    ([(trapped 1 0x0E, 1), (trapped 0 0x08, 1), (trapped 1 0x0E 0 (2 ^ 63 + 5), 1), (trapped 1 0x07, 1), (trapped 1 0x0C, 1)] :
        List (Core × Nat)).map (fun e => (decide (e.1.run = .trapped), e.1.trap.state, e.1.trap.code, e.1.trap.w2.getLsbD 63,
      decide (e.1.pc.toNat % 4096 + (1 + presCount (readHeader (e.1.ispm.read e.1.pc.toNat)).pres) ≤ 4095)))
      = [(true, 1, 0x0E, false, true), (true, 0, 0x08, false, true), (true, 1, 0x0E, true, true), (true, 1, 7, false, true),
        (true, 1, 0x0C, false, true)] ∧
    ([at0 (trapped 0 0x0B 0x30000), framed (at0 (trapped 0 0x0B 0x30000)), sCowBusy] : List State).map (fun s =>
      let r := s.resolveCow 0 (s.space 0).1 (s.space 0).2 0x30000
      ((s.core 0).trap.state, (s.core 0).trap.code, s.cowQuiet 0 (s.space 0).1 (s.space 0).2 0x30000, decide (r.2 = .noFrame)))
      = [(0, 11, true, true), (0, 11, true, false), (0, 11, false, false)] := by decide +kernel

/-! Witnesses: the host, links, power, time and start-up. -/

/-- A session that expects SEQ 6 and keeps the answer to SEQ 5. -/
def sKept : State := sHost { sess := [(1, { next := 6, kept := some ⟨{ type := 0x81, seq := 5, sess := 1, len := 0 }, []⟩ })] }
theorem test_wit_message_sequence :
    ([.regrd 0 (msg 1 0x3F000000000 0 8), .regwr 0 (msg 2 0x3F000000018 0 8 (List.replicate 8 1)), .memrd 0 (msg 3 0x10000 0 8),
      .memwr 0 (msg 4 0x10000 0 8 (List.replicate 8 1)), .attestReport 0 (msg 5 0 0 32 (List.replicate 32 0)),
      .attestPublicKey 0 (msg 5 0 1 32 (List.replicate 32 0))] : List Instr).all
      (fun i => (message i).any fun m => m.1 == 0 && m.2.2 && m.2.1.sess == 1 && m.2.1.seq == 0) = true ∧
    ([msg 1 0x3F000000000 0 7, msg 3 0x3F000000000 0 8, { msg 1 0x3F000000000 0 8 with magic := 1 },
      { msg 1 0x3F000000000 0 8 with ver := 2 }, { msg 1 0x3F000000000 0 8 with status := 1 }] : List VvReq).all
      (fun r => ((message (.regrd 0 r)).map fun m => m.2.2) == some false) = true ∧ (s0.pkg 0).up = false ∧ (sHost.pkg 0).up = true ∧
    ((msg 1 0 0 8 [] 255).sess, (msg 1 0 0 8 [] 256).sess) = (255, 256) ∧
    ([5, 6, 7, 4].map fun n => (decide (n = ((sKept.pkg 0).sess.get {} 1).next.toNat), decide (n = (((sKept.pkg 0).sess.get {} 1).next - 1).toNat)))
      = [(false, true), (true, false), (false, false), (false, false)] ∧ ((sKept.pkg 0).sess.get {} 1).kept.isSome = true ∧
    ((sHost.pkg 0).sess.get {} 1).kept = none := by decide +kernel
/-- Package 0 ready for the host, with a store on its way to its copy-on-write page. -/
def sHostBusy : State := { sHost with cores := (busyCow s0).cores }
theorem test_wit_messages :
    (sHost.pkg 0).up = true ∧ (msg 1 0 0 8).seq = (((noteSession 0 (msg 1 0 0 8) sHost).pkg 0).sess.get {} 1).next.toNat ∧
    ([0x3F000000000, 0x3F000000018, 0x3F000000038, 0x3F000000004] : List Nat).map (fun a =>
      (decide (a % 8 = 0), (readReg sHost 0 a).isSome)) = [(true, true), (true, true), (true, false), (false, false)] ∧
    ([0x100000, 0x3F000000000] : List Nat).map (fun a => (memOk (msg 3 a (2 ^ 63) 8), isMemory a 8)) = [(true, true), (true, false)] ∧
    ([0x10000, 0x50000] : List Nat).map (fun a => (memOk (msg 3 a 0 8), (sHost.readVa 0 0 0x2000 a 8 leafR).isSome,
      (sHost.rangeXlate 0 0 0x2000 a 8 leafW).map fun es => es.all fun e => !leafCow e.2.leaf))
      = [(true, true, some true), (true, false, none)] ∧ ((sHost.queue 0).root.toNat * 8192) = 0x2000 ∧
    (sHost.writeVa 0 0 0x2000 0x10000 (List.replicate 8 1) leafW).isSome = true ∧ sHost.mem.wf = true ∧ sHost.dead = [] ∧
    ((message (.memwr 0 (msg 4 0x30000 0 8 (List.replicate 8 1)))).map fun m => m.2.2) = some true ∧
    ((sHostBusy.rangeXlate 0 0 0x2000 0x30000 8 leafW).map fun es =>
      es.any fun e => leafCow e.2.leaf && !sHostBusy.cowQuiet 0 0 0x2000 (e.1 * 65536)) = some true := by decide +kernel
theorem test_wit_attestation :
    ((message (.attestReport 0 (msg 5 0 0 32 (List.replicate 32 7)))).map fun m => m.2.2) = some true ∧
    ((message (.attestPublicKey 0 (msg 5 0 1 32 (List.replicate 32 7)))).map fun m => m.2.2) = some true := by decide +kernel
theorem test_wit_device_writes :
    (s0.pkg 0).homeSet = false ∧ ((64 : W64).toNat % 128 ≤ 64 ∧ 64 < (65 : W64).toNat % 128) ∧
    (({ homeSet := true } : Pkg).homeSet = true) ∧ ((8 : W64).toNat % 16 ≤ 8 ∧ 8 < (9 : W64).toNat % 16) := by decide +kernel

/-- A port that is UP. -/
def upPort : LinkPort := { state := 1 }
/-- Two packages that do not agree on their topology, their link in training. -/
def sDisagree : State :=
  let s := sLink { state := 2 } { state := 2 }
  { s with pkgs := [(0, { topo := 0x1003 }), (1, { topo := 0x1001 })] }
theorem test_wit_link_steps :
    (sLink upPort upPort).farEnd 1 3 = some 8 ∧ (sLink upPort upPort).farEnd 1 4 = none ∧
    ([sLink upPort upPort, sLink upPort {}, sLink {} {}, sLink { state := 2 } {}, sLink { state := 2 } { state := 2 },
      { sLink { state := 2 } { state := 2 } with now := 32000000 }] : List State).map (fun s =>
      let q := s.port 1 3
      ((q.state, (s.port 8 3).state), s.agrees 1 8, s.agrees 8 1, decide (q.since + 32000000 ≤ s.ticks 0)))
      = [((1, 1), true, true, false), ((1, 0), true, true, false), ((0, 0), true, true, false), ((2, 0), true, true, false),
        ((2, 2), true, true, false), ((2, 2), true, true, true)] ∧
    sDisagree.farEnd 1 3 = some 8 ∧ (sDisagree.agrees 1 8 && sDisagree.agrees 8 1) = false ∧ (sDisagree.port 1 3).state = 2 ∧
    ({ sDisagree with pkgs := [(0, { bmode := [0, 0, 0, 0, 2] })] }.pkg 0).bmode.getD 4 0 = 2 ∧
    [0, 1, 2].map (fun w => decide ((sLink { upPort with width := w } upPort).widthAsked 1 3 < 2)) = [true, true, false] := by decide +kernel
/-- A flit of SEQ 0 with no CRC, and the same with its own. -/
def flit : Flit := { seq := 0, kind := 1, ack := 3, vc := 1, rsv := 0, body := 77, crc := 0 }
/-- The same with its CRC. -/
def goodFlit : Flit := { flit with crc := crc32c (flitBytes flit) }
theorem flitBytes_crc (f : Flit) (c : BitVec 32) : flitBytes { f with crc := c } = flitBytes f := by simp only [flitBytes]
theorem test_wit_good_flit (f : Flit) : crc32c (flitBytes { f with crc := crc32c (flitBytes f) }) = crc32c (flitBytes f) := by
  rw [flitBytes_crc]
theorem test_wit_bad_flit :
    (let x : Flit := { goodFlit with rsv := 1 }
     crc32c (flitBytes x) == x.crc && x.kind.toNat < 3 && x.vc.toNat < 4 && x.rsv == 0) = false := Bool.and_false _
/-- What a flit of die 1's port 3 meets: STATE, the SEQ expected, failures, dropping, and room in the replay buffer. -/
def flitMeets (a : LinkPort) : Nat × BitVec 12 × Nat × Bool × Bool :=
  let s := sLink a upPort
  let p := (takeWire 1 3 flit s).port 1 3
  ((s.port 1 3).state, p.next, p.fails, p.drop, decide (p.out.length < 512))
theorem test_wit_flits_received :
    (goodFlit.kind.toNat < 3 && goodFlit.vc.toNat < 4 && goodFlit.rsv == 0) = true ∧ flit.seq = 0 ∧ flit.kind = 1 ∧
    ([upPort, { upPort with fails := 14 }, { upPort with fails := 15 }, { upPort with next := 3 }, { upPort with next := 4095 },
      { upPort with next := 4095, drop := true }, {}] : List LinkPort).map flitMeets
      = [(1, 0, 0, false, true), (1, 0, 14, false, true), (1, 0, 15, false, true), (1, 3, 0, false, true), (1, 4095, 0, false, true),
        (1, 4095, 0, true, true), (0, 0, 0, false, true)] ∧
    2048 ≤ (flit.seq - 3).toNat ∧ (flit.seq - 4095).toNat < 2048 ∧ (sLink upPort upPort).farEnd 1 3 = some 8 := by decide +kernel
/-- Dies 1 and 8 as given, at a tick. -/
def sPower (a b : Die) (now : Nat := 20000000) : State := { sLink upPort upPort with now, dies := [(1, a), (8, b)] }
/-- A die in an emergency that has been cool from tick 0 on. -/
def hotDie : Die := { emerg := true, cool := some 0, code := 0 }
theorem test_wit_power_steps :
    (let s := sPower { reqs := [⟨none, 3, 0⟩] } {}
     let i := if axisOpen (s.pkg 0).topo 0 then 3 else 0
     s.farEnd 1 i = some 8 ∧ 1 < 8 ∧ (s.die 8).reqs = [] ∧ 0 < s.window 1 ∧ (s.die 1).emerg = false ∧ (s.die 8).emerg = false ∧
     s.farEnd 8 i = some 1 ∧ ((sPower { reqs := [⟨none, 3, 0⟩] } { emerg := true }).die 8).emerg = true) ∧
    ((1049 : BitVec 12).toNat < 1050 ∧ 1050 ≤ (1050 : BitVec 12).toNat ∧ 0 + 16000000 ≤ (sPower hotDie {} 16000000).ticks 0 ∧
     (sPower hotDie {} 15999999).ticks 0 < 0 + 16000000 ∧ ([3, 4, 5].all fun j => ((sPower hotDie {}).port 1 j).state != 1) = true) := by decide +kernel
/-- Start-up of package 0 at a step with a flash record. -/
def sBoot (k : Pkg) : State := { s0 with pkgs := [(0, k)] }
/-- What a start's next step meets: whether the package is up, its step, its form, whether HBM_SPLIT has been written. -/
def startMeets (k : Pkg) : Bool × Nat × Nat × Bool :=
  let s := sBoot k
  ((s.pkg 0).up, (s.pkg 0).bstep, stepForm (s.pkg 0).flash (s.pkg 0).bstep, (s.pkg 0).homeSet)
theorem test_wit_time_and_startup :
    ([{ bstep := 0 }, { bstep := 1 }, { bstep := 2 }, { bstep := 2, homeSet := true }, { bstep := 5 }, { bstep := 6 }, { bstep := 7 },
      { bstep := 4, flash := [⟨4, 0, 0⟩] }] : List Pkg).map startMeets
      = [(false, 0, 0, false), (false, 1, 0, false), (false, 2, 0, false), (false, 2, 0, true), (false, 5, 0, false), (false, 6, 0, false),
        (false, 7, 0, false), (false, 4, 2, false)] ∧ (sHost.pkg 0).up = true ∧ (sBoot {}).colls = [] ∧
    (((64 : W64).toNat % 128 ≤ 64) ∧ 64 < (65 : W64).toNat % 128) ∧
    (((sBoot { bstep := 5 }).tbase 0).toNat < (9 : W64).toNat ∧ ¬ ((sBoot { bstep := 5 }).tbase 0).toNat < (0 : W64).toNat) ∧
    ((5 : BitVec 32) ≠ 0 ∧ (0xFFFFFFF0 : BitVec 32).toInt < 0 ∧ ({} : Pkg).lastAdj + 1024 ≤ 1023 + 1 ∧ 1022 + 1 < ({} : Pkg).lastAdj + 1024) ∧
    s0.homeDie (0x100000 / 256 * 256) = 0 ∧ ({ s0 with weak := [0x1000] } : State).dead.contains (0x100000 / 256) = false ∧
    ({ s0 with weak := [0x1000] } : State).weak.contains (0x100000 / 256) = true ∧
    ({ s0 with dead := [0x1000] } : State).dead.contains (0x100000 / 256) = true := by decide +kernel

/-! Single steps, with results worked out by hand from the rules named. -/

/-- The register that an operation of one cycle has written, s16, as a number. -/
def s16 (i : Instr) (s : State := s0) : Nat := (((after i s).core 0).regs.rd 16).toNat
/-- What an operation of several cycles has put on its way: its value, flags and cycles. -/
def onWay (i : Instr) (s : State := s0) : List (Nat × Nat × Nat) :=
  ((after i s).core 0).land.map fun l => ((l.val.headD 0).toNat, l.flags.toNat, l.due - s.now)
/-- The code of the trap that an operation takes. -/
def trapCode (i : Instr) (s : State := s0) : Nat × RunSt := (((after i s).core 0).trap.code, ((after i s).core 0).run)

/-- The memory at reset is canonical and the step of a placed core leaves a next state (a premise of StepKeepsMemoryCanonical). -/
theorem test_wit_step_next : Memory.wf State.reset = true ∧ Memory.wf s0 = true ∧ Memory.wf sAdd = true := by decide +kernel
/-- What a mark meets: memory with no granule in error, and loads that hold their values or still wait for them. -/
theorem test_wit_retirement_frame :
    s0.dead = [] ∧ (((s0.core 0).loads.all fun l => l.val.isSome) && (sLoadBusy.core 0).loads.all fun l => l.val.isNone) = true ∧
    ((at0 { core0 with loads := (sLoadBusy.core 0).loads.map fun l => { l with val := some [1] } }).core 0).loads.map (·.val)
      = [some [1]] := by decide +kernel
/-- R121: addition and subtraction wrap modulo 2^64. -/
theorem test_add_wraps : s16 (.add (srr 16 4 12)) = 0 ∧ s16 (.sub (srr 16 0 12)) = 2 ^ 64 - 1 := by decide +kernel
/-- R121: FN 1 of MULH is unsigned, (2^64 − 1)² / 2^64 = 2^64 − 2; FN 0 is signed, (−1)² / 2^64 = 0; both after 3 cycles. -/
theorem test_mulh : onWay (.mulh (srr 16 4 4)) = [(0, 0, 3)] ∧ onWay (.mulh (srr 16 4 4 1)) = [(2 ^ 64 - 2, 0, 3)] := by decide +kernel
/-- R122: division by zero gives all ones, the most negative number over −1 itself with remainder zero. -/
theorem test_div : onWay (.div (srr 16 1 0)) = [(2 ^ 64 - 1, 0, 34)] ∧ onWay (.div (srr 16 3 4)) = [(2 ^ 63, 0, 34)] ∧
    onWay (.rem (srr 16 3 4)) = [(0, 0, 34)] := by decide +kernel
/-- R121, R123: a shift by 64 leaves 0, or 64 copies of bit 63; an immediate is signed. -/
theorem test_shift : s16 (.shl (srr 16 12 6)) = 0 ∧ s16 (.sar (srr 16 3 6)) = 2 ^ 64 - 1 ∧ s16 (.sari (ri 16 3 63)) = 2 ^ 64 - 1 ∧ s16 (.addi (ri 16 1 (-6))) = 2 ^ 64 - 1 := by
  decide +kernel
/-- R98: a write of s0 is discarded. -/
theorem test_s0 : ((after (.add (srr 0 1 2)) s0).core 0).regs.rd 0 = 0 := by decide +kernel
/-- R129: 1 + 2 = 3 in FP32; 1 / 0 is infinity and raises DZ. -/
theorem test_float : onWay (.fadd (rf 16 8 9 8)) = [(0x40400000, 0, 4)] ∧ onWay (.fdiv (rf 16 8 0 8)) = [(0x7F800000, 2, 14)] := by
  decide +kernel
/-- R157, R158: the row whose first element is 0x3F800000, as INT32 elements, added to itself. -/
theorem test_row_add : (onWay (.vadd ⟨2, 0, 0, 0, 0, 0, 2, 0, 0, 0⟩)).map (·.1) = [2 * 0x3F800000] := by decide +kernel
/-- R132: BR goes to its target; BRL leaves the address after its bundle. -/
theorem test_branch : ((after (.br ⟨0, 0, 0x40⟩) s0).core 0).pc = 0x40 ∧ s16 (.brl ⟨16, 0, 0x40⟩) = 2 := by decide +kernel
/-- R138: a bit at or above bit 56 makes an address that is not canonical: the handle is FAULTED at once. -/
theorem test_xlat : (((after (.xlat ⟨2, 4, 0, 0⟩) s0).core 0).regs.handle 2).state = .faulted ∧
    (((after (.xlat ⟨2, 5, 0, 0⟩) s0).core 0).regs.handle 2).state = .pending := by decide +kernel
/-- R226: an addition to 65,535 is held, one to 65,536 traps SEM_OVERFLOW with the counter at 65,535. -/
theorem test_semadd : (after (.semadd ⟨2, 0, 65527, 0, 0⟩) s0).sem 0 2 = 65535 ∧ trapCode (.semadd ⟨2, 0, 65527, 0, 0⟩) = (0x0E, .trapped) ∧
    (trapCode (.semadd ⟨2, 0, 65526, 0, 0⟩)).2 = .placed := by decide +kernel
/-- A core with −7 in s1 and 2 in s2. -/
def sSeven : State := at0 { core0 with regs := { regs0 with x := [(1, BitVec.ofInt 64 (-7)), (2, 2)] } }
/-- R122: −7 ÷ 2 is −3 with remainder −1. -/
theorem test_div_signed : onWay (.div (srr 16 1 2)) sSeven = [(2 ^ 64 - 3, 0, 34)] ∧ onWay (.rem (srr 16 1 2)) sSeven = [(2 ^ 64 - 1, 0, 34)] := by
  decide +kernel
/-- R124: the pair `movi s3, 0x1234` and `movhi s3, 0x3_0000` leaves 0xC000_0000_0000_1234. -/
theorem test_movhi : s16 (.movi ⟨16, 0x1234⟩) = 0x1234 ∧
    s16 (.movhi ⟨16, 0x30000⟩) (at0 { core0 with regs := { regs0 with x := [(16, 0x1234)] } }) = 0xC000000000001234 := by decide +kernel
/-- R221: a scratchpad store to an address that is not a multiple of eight traps MISALIGN. -/
theorem test_sts_misaligned : trapCode (.sts ⟨1, 2, 0, 0⟩) = (0x0D, .trapped) ∧ (trapCode (.sts ⟨1, 5, 0, 0⟩)).2 = .placed := by
  decide +kernel

end Sys2Proof.Tests
end

section
/-! PROOF. Host messages (R438 to R440): a message is served by one rule, whatever its operation; a MEMWR to a physical address
leaves its bytes. -/

namespace Sys2Proof

open Machine

/-! One rule for every message. -/

/-- What a message of the host is: the service of its request, by its type, its limits and what its expected request does. -/
theorem exec_message {i : Instr} {p : Nat} {r : VvReq} {ok : Bool} (h : message i = some (p, r, ok)) :
    ∃ type good f, ok = (messageOk r type && good) ∧ ∀ s, exec i s = .next (serve p r type good f s) := by
  unfold message at h
  split at h <;> cases h
  · exact ⟨1, _, _, by simp [requests, messageOk, Bool.and_assoc], fun _ => rfl⟩
  · exact ⟨2, _, _, by simp [requests, messageOk, Bool.and_assoc], fun _ => rfl⟩
  · exact ⟨3, _, _, by simp [requests, messageOk, Bool.and_assoc], fun _ => rfl⟩
  · exact ⟨4, _, _, by simp [requests, messageOk, Bool.and_assoc], fun _ => rfl⟩
  · exact ⟨5, _, _, by simp [requests, messageOk, attestOk, Bool.and_assoc], fun _ => rfl⟩
  · exact ⟨5, _, _, by simp [requests, messageOk, attestOk, Bool.and_assoc], fun _ => rfl⟩

/-- What the expected request of a session leaves, by what its service gives (R440): it is answered, it uses its SEQ up where its
address is refused, it is kept, once, where it must wait. `n` is the state with the session noted. -/
def served (p : Nat) (r : VvReq) (n : State) : Served → State
  | .done t st bs => answers p r st bs t
  | .rejected => answers p r 1 [] (n.setPkg p { n.pkg p with rejects := (n.pkg p).rejects + 1 })
  | .waits => if (n.pkg p).vwait.contains r then n else n.setPkg p { n.pkg p with vwait := (n.pkg p).vwait ++ [r] }

section
variable {p : Nat} {r : VvReq} {type : Nat} {good : Bool} {f : State → Served} {s : State}

/-- Before start-up has ended no message is served. -/
theorem serve_down (hup : (s.pkg p).up = false) : serve p r type good f s = s := by simp [serve, hup]

theorem serve_malformed (hup : (s.pkg p).up = true) (h : (messageOk r type && good) = false ∨ 255 < r.sess) :
    serve p r type good f s = reject p r s := by
  have hbad : (!messageOk r type || !good || decide (255 < r.sess)) = true := by
    rcases h with h | h
    · cases hm : messageOk r type <;> simp_all
    · simp [h]
  simp [serve, hup, hbad]

/-- A good message notes its session, and is then judged by its SEQ. -/
theorem serve_good (hup : (s.pkg p).up = true) (hok : (messageOk r type && good) = true) (hs : r.sess ≤ 255) :
    (!(s.pkg p).up) = false ∧ (!messageOk r type || !good || decide (255 < r.sess)) = false := by
  rw [Bool.and_eq_true] at hok
  simp [hup, hok.1, hok.2, hs]

theorem serve_repeated (hup : (s.pkg p).up = true) (hok : (messageOk r type && good) = true) (hs : r.sess ≤ 255)
    (hne : r.seq ≠ (((noteSession p r s).pkg p).sess.get {} r.sess).next.toNat)
    (hp : r.seq = ((((noteSession p r s).pkg p).sess.get {} r.sess).next - 1).toNat) {a : Response}
    (ha : (((noteSession p r s).pkg p).sess.get {} r.sess).kept = some a) :
    serve p r type good f s = (noteSession p r s).setPkg p { (noteSession p r s).pkg p with
      answers := ((noteSession p r s).pkg p).answers ++ [a], resent := sat16 ((noteSession p r s).pkg p).resent } := by
  obtain ⟨h1, h2⟩ := serve_good hup hok hs
  unfold serve
  dsimp only
  rw [h1, h2, if_neg (by simp), if_neg (by simp), if_neg (by simpa using hne), if_pos (by simpa using hp), ha]

theorem serve_gap (hup : (s.pkg p).up = true) (hok : (messageOk r type && good) = true) (hs : r.sess ≤ 255)
    (hne : r.seq ≠ (((noteSession p r s).pkg p).sess.get {} r.sess).next.toNat)
    (hp : r.seq ≠ ((((noteSession p r s).pkg p).sess.get {} r.sess).next - 1).toNat
      ∨ (((noteSession p r s).pkg p).sess.get {} r.sess).kept = none) :
    serve p r type good f s = (noteSession p r s).setPkg p { (noteSession p r s).pkg p with
      gaps := sat16 ((noteSession p r s).pkg p).gaps } := by
  obtain ⟨h1, h2⟩ := serve_good hup hok hs
  unfold serve
  dsimp only
  rw [h1, h2, if_neg (by simp), if_neg (by simp), if_neg (by simpa using hne)]
  split
  · rw [hp.resolve_left (by simp_all)]
  · rfl

/-- The expected request leaves what its service says. -/
theorem serve_expected (hup : (s.pkg p).up = true) (hok : (messageOk r type && good) = true) (hs : r.sess ≤ 255)
    (hseq : r.seq = (((noteSession p r s).pkg p).sess.get {} r.sess).next.toNat) :
    serve p r type good f s = served p r (noteSession p r s) (f (noteSession p r s)) := by
  obtain ⟨h1, h2⟩ := serve_good hup hok hs
  have hnext : (((noteSession p r s).pkg p).sess.get {} r.sess).next + 1 = BitVec.ofNat 32 (r.seq + 1) := by
    rw [hseq, BitVec.ofNat_add, BitVec.ofNat_toNat, BitVec.setWidth_eq]; rfl
  unfold serve
  dsimp only
  rw [h1, h2, if_neg (by simp), if_neg (by simp), if_pos (by simpa using hseq), hnext]
  cases f (noteSession p r s) <;> rfl

end

/-- The first message of session 0 sends what was held. -/
theorem noteSession_eq (p : Nat) (r : VvReq) (s : State) :
    noteSession p r s = if r.sess = 0 ∧ (s.pkg p).noteTo = false then
      s.setPkg p { (s.pkg p).held.foldl Pkg.sendNote (s.pkg p) with noteTo := true, held := [] } else s := by
  simp [noteSession]

theorem reject_eq (p : Nat) (r : VvReq) (s : State) :
    reject p r s = s.setPkg p { s.pkg p with
      rejects := (s.pkg p).rejects + 1
      answers := if r.sess < 256 then (s.pkg p).answers ++ [reply r 1 []] else (s.pkg p).answers } := by
  unfold reject
  split <;> rfl

/-- The messages are taken in the order of their session. -/
theorem messageSequence : MessageSequenceClaim := by
  refine ⟨fun _ _ => rfl, ?_⟩
  intro s i p r ok hi
  obtain ⟨type, good, f, rfl, hexec⟩ := exec_message hi
  simp only [hexec, ← noteSession_eq]
  refine ⟨fun hup => ?_, fun hup hbad => ?_, fun hup hok hs hne => ⟨fun a hp ha => ?_, fun hp => ?_⟩⟩
  · rw [serve_down hup]
  · rw [serve_malformed hup hbad, reject_eq]
  · rw [serve_repeated hup hok hs hne hp ha]
  · rw [serve_gap hup hok hs hne hp]

/-! A MEMWR to a physical address. -/

/-- The source of a physical address: no codec stands before it. -/
abbrev physSrc : Src := ⟨0, 0, 0, 0, false⟩

theorem foldl_setByte_mem (ws : List (Nat × Byte)) (s : State) :
    (ws.foldl (fun s w => s.setByte w.1 w.2) s).mem = ws.foldl (fun m w => m.write w.1 w.2) s.mem :=
  (List.foldl_hom State.mem fun _ _ => rfl).symm

theorem foldl_setByte_dead (ws : List (Nat × Byte)) (s : State) :
    (ws.foldl (fun s w => s.setByte w.1 w.2) s).dead = s.dead :=
  foldl_keeps (p := fun t : State => t.dead = s.dead) (fun s w => s.setByte w.1 w.2) (fun _ _ h => h) ws rfl

/-- Where no granule is in error beyond correction, what a write finds changes no byte. -/
theorem meetWrite_of_dead_nil (gs : List Nat) {s : State} (h : s.dead = []) :
    (s.meetWrite gs).mem = s.mem ∧ (s.meetWrite gs).dead = [] := by
  have key : ∀ (t : State) (g : Nat), t.mem = s.mem ∧ t.dead = [] →
      (meetGranule t g).mem = s.mem ∧ (meetGranule t g).dead = [] := ?_
  · exact ite_keeps (p := fun t : State => t.mem = s.mem ∧ t.dead = []) _ ⟨rfl, h⟩
      (foldl_keeps (p := fun t : State => t.mem = s.mem ∧ t.dead = []) _ key gs ⟨rfl, h⟩)
  intro t g ⟨hm, hd⟩
  unfold meetGranule
  dsimp only
  rw [hd, if_neg (by simp)]
  split <;> exact ⟨hm, hd⟩

/-- A write of one granule at physical addresses is a write of its bytes. -/
theorem writeGranule_phys (ws : List (Nat × Byte)) {s : State} (h : s.dead = []) :
    (writeGranule physSrc s ws).mem = ws.foldl (fun m w => m.write w.1 w.2) s.mem ∧ (writeGranule physSrc s ws).dead = [] := by
  obtain ⟨hm, hd⟩ := meetWrite_of_dead_nil (touchedGranules physSrc ws []) h
  rw [show writeGranule physSrc s ws
      = ws.foldl (fun s w => s.setByte w.1 w.2) (s.meetWrite (touchedGranules physSrc ws [])) from rfl,
    foldl_setByte_mem, foldl_setByte_dead, hm]
  exact ⟨rfl, hd⟩

/-- What memory reads after those of some placed bytes that lie in one granule are written. -/
theorem read_write_granule (g a : Nat) (bs : List Byte) (o : Nat) {m : Store 8} (h : m.wf = true) :
    (((placed o bs).filter fun w => w.1 / 256 == g).foldl (fun m w => m.write w.1 w.2) m).read a
      = if a / 256 = g ∧ o ≤ a ∧ a < o + bs.length then bs.getD (a - o) 0 else m.read a := by
  induction bs generalizing o m with
  | nil => simp [placed]
  | cons b bs ih =>
    simp only [placed, List.filter_cons, List.length_cons]
    by_cases hg : o / 256 = g
    · simp only [hg, beq_self_eq_true, if_true, List.foldl_cons]
      rw [ih (o + 1) (Store.wf_write h o b)]
      by_cases ha : a = o
      · subst ha
        simp [hg, Store.read_write_same h]
      · rw [Store.read_write_other ha]
        by_cases hr : a / 256 = g ∧ o + 1 ≤ a ∧ a < o + 1 + bs.length
        · rw [if_pos hr, if_pos (by omega), show a - o = a - (o + 1) + 1 by omega, List.getD_cons_succ]
        · rw [if_neg hr, if_neg (by omega)]
    · rw [if_neg (by simpa using hg), ih (o + 1) h]
      by_cases hr : a / 256 = g ∧ o + 1 ≤ a ∧ a < o + 1 + bs.length
      · rw [if_pos hr, if_pos (by omega), show a - o = a - (o + 1) + 1 by omega, List.getD_cons_succ]
      · have : a ≠ o ∨ a / 256 ≠ g := by by_cases ha : a = o <;> simp_all
        rw [if_neg hr, if_neg (by omega)]

/-- What memory reads after a write of placed bytes, granule by granule. -/
theorem read_write_granules (o : Nat) (bs : List Byte) (a : Nat) (gs : List Nat) {s : State} (h : Memory.wf s = true)
    (hd : s.dead = []) :
    ((gs.foldl (fun s g => writeGranule physSrc s ((placed o bs).filter fun w => w.1 / 256 == g)) s).mem).read a
      = if a / 256 ∈ gs ∧ o ≤ a ∧ a < o + bs.length then bs.getD (a - o) 0 else s.mem.read a := by
  induction gs generalizing s with
  | nil => simp
  | cons g gs ih =>
    obtain ⟨hm, hd'⟩ := writeGranule_phys ((placed o bs).filter fun w => w.1 / 256 == g) hd
    rw [List.foldl_cons, ih (wf_writeGranule _ h _) hd', hm, read_write_granule g a bs o h]
    by_cases hr : o ≤ a ∧ a < o + bs.length <;> by_cases h1 : a / 256 = g <;> by_cases h2 : a / 256 ∈ gs <;>
      simp [hr, h1, h2]

theorem mem_nubNat {a : Nat} {l : List Nat} : a ∈ nubNat l ↔ a ∈ l := by
  induction l with
  | nil => simp [nubNat]
  | cons x xs ih => by_cases h : a = x <;> simp [nubNat, ih, h]

theorem mem_placed {a o : Nat} {bs : List Byte} (h : o ≤ a ∧ a < o + bs.length) : ∃ b, (a, b) ∈ placed o bs := by
  induction bs generalizing o with
  | nil => simp at h; omega
  | cons b bs ih =>
    by_cases ha : a = o
    · exact ⟨b, by simp [placed, ha]⟩
    · obtain ⟨c, hc⟩ := ih (o := o + 1) (by simp at h; omega)
      exact ⟨c, List.mem_cons_of_mem _ hc⟩

/-- Bytes written at a run of physical addresses read as written; every other byte reads as before. -/
theorem read_deliverTo_phys (o : Nat) (bs : List Byte) (a : Nat) {s : State} (h : Memory.wf s = true) (hd : s.dead = []) :
    (s.deliverTo physSrc (placed o bs)).mem.read a
      = if o ≤ a ∧ a < o + bs.length then bs.getD (a - o) 0 else s.mem.read a := by
  rw [State.deliverTo, read_write_granules o bs a _ h hd]
  by_cases hr : o ≤ a ∧ a < o + bs.length
  · obtain ⟨b, hb⟩ := mem_placed hr
    have : a / 256 ∈ nubNat ((placed o bs).map fun w => w.1 / 256) :=
      mem_nubNat.2 (List.mem_map.2 ⟨_, hb, rfl⟩)
    rw [if_pos ⟨this, hr⟩, if_pos hr]
  · rw [if_neg (fun hc => hr hc.2), if_neg hr]

theorem noteSession_mem (p : Nat) (r : VvReq) (s : State) : (noteSession p r s).mem = s.mem := by
  unfold noteSession; dsimp only; split <;> rfl
theorem noteSession_dead (p : Nat) (r : VvReq) (s : State) : (noteSession p r s).dead = s.dead := by
  unfold noteSession; dsimp only; split <;> rfl

/-! The messages of registers and of memory. -/

theorem message_regrd (p : Nat) (r : VvReq) :
    message (.regrd p r) = some (p, r, messageOk r 1 && (r.arg == 0 && r.len == 8 && r.body.isEmpty)) := by
  simp [message, requests, messageOk, Bool.and_assoc]
theorem message_regwr (p : Nat) (r : VvReq) :
    message (.regwr p r) = some (p, r, messageOk r 2 && (r.arg == 0 && r.len == 8 && r.body.length == 8)) := by
  simp [message, requests, messageOk, Bool.and_assoc]
theorem message_memrd (p : Nat) (r : VvReq) :
    message (.memrd p r) = some (p, r, messageOk r 3 && (memOk r && r.body.isEmpty)) := by
  simp [message, requests, messageOk, Bool.and_assoc]
theorem message_memwr (p : Nat) (r : VvReq) :
    message (.memwr p r) = some (p, r, messageOk r 4 && (memOk r && r.body.length == r.len)) := by
  simp [message, requests, messageOk, Bool.and_assoc]

/-- The body of a MEMWR that keeps its limits is as long as its LEN says. -/
theorem memwr_length {p : Nat} {r : VvReq} (h : ((message (.memwr p r)).any fun m => m.2.2) = true) :
    r.body.length = r.len := by
  rw [message_memwr] at h
  simp only [Option.any_some, Bool.and_eq_true, beq_iff_eq] at h
  exact h.2.2

section
variable {i : Instr} {p : Nat} {r : VvReq} {type : Nat} {good : Bool} {f : State → Served} {s : State}
  (hexec : exec i s = .next (serve p r type good f s)) (hmsg : message i = some (p, r, messageOk r type && good))
  (hup : (s.pkg p).up = true) (hs : r.sess ≤ 255)
  (hseq : r.seq = (((noteSession p r s).pkg p).sess.get {} r.sess).next.toNat)
  (hok : ((message i).any fun m => m.2.2) = true)
include hexec hmsg hup hs hseq hok

/-- The step of the expected message of a session, by what its service gives. -/
theorem exec_served {v : Served} (hf : f (noteSession p r s) = v) :
    exec i s = .next (served p r (noteSession p r s) v) := by
  rw [hmsg] at hok
  rw [hexec, serve_expected hup hok hs hseq, hf]

theorem exec_done {t : State} {st : Nat} {bs : List Byte} (hf : f (noteSession p r s) = .done t st bs) :
    exec i s = .next (answers p r st bs t) :=
  exec_served hexec hmsg hup hs hseq hok hf

theorem exec_rejected (hf : f (noteSession p r s) = .rejected) :
    exec i s = .next (answers p r 1 [] ((noteSession p r s).setPkg p
      { (noteSession p r s).pkg p with rejects := ((noteSession p r s).pkg p).rejects + 1 })) :=
  exec_served hexec hmsg hup hs hseq hok hf

theorem exec_waits (hf : f (noteSession p r s) = .waits) :
    exec i s = .next (if ((noteSession p r s).pkg p).vwait.contains r then noteSession p r s
      else (noteSession p r s).setPkg p { (noteSession p r s).pkg p with
        vwait := ((noteSession p r s).pkg p).vwait ++ [r] }) :=
  exec_served hexec hmsg hup hs hseq hok hf

end

/-- A message names a physical address or a queue, not both. -/
theorem memPhys_of_le {r : VvReq} (h : 2 ^ 63 ≤ r.arg) : memPhys r = true := by simpa [memPhys] using h
theorem memPhys_of_lt {r : VvReq} (h : r.arg < 64) : memPhys r = false := by simp [memPhys]; omega

/-- What the expected message of a session does. -/
theorem messages : MessagesClaim := by
  intro s p r n ok rejected space hup hs hseq
  refine ⟨fun v hok ha hv => ?_, fun v hok ha hv => ?_, fun hno => ⟨fun hok => ?_, fun hok => ?_⟩,
    fun hok harg => ⟨fun hm => ?_, fun hm => ?_⟩, fun hok harg => ⟨fun t z bs hrd => ?_, fun hrd => ?_⟩,
    fun hok harg => ⟨fun hm => ?_, fun hm hwf hdead => ?_, fun hm => ?_⟩,
    fun hok harg => ⟨fun hx => ?_, fun es t hx hcow hw => ?_, fun es hx hcow => ?_⟩⟩
  · exact exec_done rfl (message_regrd p r) hup hs hseq hok (by simp [ha, hv, n])
  · exact exec_done rfl (message_regwr p r) hup hs hseq hok (by simp [ha, hv, n])
  · exact exec_rejected rfl (message_regrd p r) hup hs hseq hok (by rcases hno with h | h <;> simp [h, n])
  · exact exec_rejected rfl (message_regwr p r) hup hs hseq hok (by rcases hno with h | h <;> simp [h, n])
  · exact exec_done rfl (message_memrd p r) hup hs hseq hok (by simp [memPhys_of_le harg, hm, n])
  · exact exec_rejected rfl (message_memrd p r) hup hs hseq hok (by simp [memPhys_of_le harg, hm])
  · exact exec_done rfl (message_memrd p r) hup hs hseq hok (by simp [memPhys_of_lt harg, space, n, hrd])
  · exact exec_done rfl (message_memrd p r) hup hs hseq hok (by simp [memPhys_of_lt harg, space, n, hrd])
  · exact exec_done rfl (message_memwr p r) hup hs hseq hok (by simp [memPhys_of_le harg, hm, n])
  · refine ⟨_, exec_done rfl (message_memwr p r) hup hs hseq hok
      (show _ = Served.done _ 0 [] by simp only [memPhys_of_le harg, hm, if_true]; rfl), fun a => ?_⟩
    rw [← memwr_length hok, ← noteSession_mem p r s]
    exact read_deliverTo_phys _ _ a (wf_of_mem (noteSession_mem p r s) hwf) ((noteSession_dead p r s).trans hdead)
  · exact exec_rejected rfl (message_memwr p r) hup hs hseq hok (by simp [memPhys_of_le harg, hm])
  · exact exec_done rfl (message_memwr p r) hup hs hseq hok (by simp [memPhys_of_lt harg, space, n, hx])
  · have hno : es.filter (fun e => leafCow e.2.leaf) = [] := by simpa using hcow
    exact exec_done rfl (message_memwr p r) hup hs hseq hok
      (by simp [memPhys_of_lt harg, space, n, hx, hno, resolvePages, hw])
  · have hcow' : ((es.filter fun e => leafCow e.2.leaf).any fun e => !n.cowQuiet p (space n).1 (space n).2 (e.1 * 65536)) = true := by
      simpa [List.any_filter] using hcow
    exact exec_waits rfl (message_memwr p r) hup hs hseq hok (by
        dsimp only [space, n] at hx hcow'
        simp only [memPhys_of_lt harg, Bool.false_eq_true, if_false, hx, hcow', if_true])

/-- Settles O55: a message is served by one rule, `serve`, and each clause is one of its cases; the bytes that a MEMWR leaves are
those of `read_deliverTo_phys`. -/
theorem hostMessages : Obligations.HostMessages := ⟨messageSequence, messages⟩

end Sys2Proof
end

section
/-! PROOF. The issue of a plain bundle whose own check traps (R13, R57, R426): nothing of the bundle takes effect, and the trap is
taken on the state at which the bundle was tried. -/

namespace Sys2Proof.Machine

/-- The one enabled word of the plain bundle of an operation. -/
abbrev plainIWord (sl : Slot) (i : Instr) : IWord := ⟨sl, ⟨.plain, i⟩⟩

theorem begun_pc_self (s : State) : s.begun.self.pc = s.self.pc := by rw [begun_self, landScales_pc]

/-- What is left of the bad words of a core, once the scale writes that land now have made theirs good, being nothing, each is
of a scale register. -/
theorem bad_scale_of_landed {k : Core} (h : k.landScales.bad = []) {b : BadWord} (hb : b ∈ k.bad) :
    ∃ n, b.reg = .scale n := by
  have := List.filter_eq_nil_iff.1 h b hb
  cases hr : b.reg <;> simp_all

/-- A plain word that reads no scale register corrects none. -/
theorem correctRead_of_landed {k : Core} {sl : Slot} {i : Instr} (h : k.landScales.bad = [])
    (hk : ∀ n, (regReads k.regs.rrb i).any (Reg.k n).meets = false) :
    correctRead [plainIWord sl i] [plainIWord sl i] k = k := by
  have hit : ∀ b ∈ k.bad, (b.fixable k && (([plainIWord sl i].any fun w => b.reg.readBy k.regs.rrb w.word)
      || b.reg == .preds && [plainIWord sl i].any fun w => decide (w.word.ctl.psel.toNat < 24))) = false := by
    intro b hb
    obtain ⟨n, hn⟩ := bad_scale_of_landed h hb
    simp [hn, Checked.readBy, hk n]
  have hkeep : (k.bad.filter fun b => !(b.fixable k && (([plainIWord sl i].any fun w => b.reg.readBy k.regs.rrb w.word)
      || b.reg == .preds && [plainIWord sl i].any fun w => decide (w.word.ctl.psel.toNat < 24)))) = k.bad :=
    List.filter_eq_self.2 fun b hb => by rw [hit b hb]; rfl
  have hnone : (k.bad.filter fun b => (b.fixable k && (([plainIWord sl i].any fun w => b.reg.readBy k.regs.rrb w.word)
      || b.reg == .preds && [plainIWord sl i].any fun w => decide (w.word.ctl.psel.toNat < 24)))) = [] :=
    List.filter_eq_nil_iff.2 fun b hb => by rw [hit b hb]; simp
  unfold correctRead
  dsimp only
  rw [hkeep, hnone, List.length_nil, Nat.add_zero, corr_same, ite_self]

/-- The probe of the word of a plain bundle that reads no bad word is its operation's own. -/
theorem wordProbe_plain {b : State} {sl : Slot} {i : Instr} (hbad : b.self.bad = []) :
    wordProbe [plainIWord sl i] (plainIWord sl i, b.ctx sl) = slotProbe none (b.ctx sl) i := by
  have hv : v0Of [plainIWord sl i] (plainIWord sl i) = none := by cases sl <;> rfl
  have hr : badRead (b.ctx sl).k (plainIWord sl i) = none := by
    rw [show (b.ctx sl).k = b.self from rfl, badRead, hbad]
    rfl
  simp only [wordProbe, hr, hv]

/-- What stops a bundle before it is tried to issue, none of it being there: an operation that takes no mark, starts no
write-down and no walk, is no fence, no barrier and no SEMWAIT, and whose probe is no stall. -/
theorem tryIssue_unmarked {s : State} {sl : Slot} {i : Instr} (h : s.issues sl i 2 = true)
    (hma : marksAlways i = false) (hm : ∀ x, marksBefore x i = false) (hsw : ∀ o, i ≠ .semwait o)
    (hd : downBefore s.tried.self i = s.tried.self) (hwl : walksBefore (s.begun.ctx sl) i s.tried = s.tried)
    (hst : (slotProbe none (s.begun.ctx sl) i).isStall = false) :
    tryIssue s.cur (plainHeader sl) [plainIWord sl i] false s.tried
      = issueNow s.cur (plainHeader sl) [plainIWord sl i] [plainIWord sl i] (s.tried.self.pc + 2) [] s.tried := by
  obtain ⟨-, -, -, -, -, hbad, -, -, hroom, htiles, hbusy, hgate⟩ := issues_parts h
  have hself : s.tried.core s.cur = s.tried.self := rfl
  have hland : s.tried.landed s.cur = s.begun := rfl
  have hbs : s.begun.self = s.tried.self.landScales := by rw [begun_self, tried_self]
  have hwk : wakeBanks s.cur [plainIWord sl i] s.tried = none :=
    wakeBanks_none _ (by rw [hself, ← begun_tileOn, ← begun_rrb]; exact htiles)
  have hx : ctxs s.cur s.begun (s.tried.self.pc + 2) [plainIWord sl i] = [(plainIWord sl i, s.begun.ctx sl)] := by
    rw [← begun_pc]; exact ctxs_one s.begun sl i
  have hnext : s.tried.self.pc + 1 + BitVec.ofNat 13 (presCount (plainHeader sl).pres) = s.tried.self.pc + 2 := by
    rw [presCount_header, BitVec.add_assoc]; rfl
  have hpb : predsBusy s.tried.self [plainIWord sl i] = false := by simp [predsBusy, Ctl.plain]
  have hen : [plainIWord sl i].filter (fun w => w.enabled s.tried.self) = [plainIWord sl i] := rfl
  have hrb : regsBusy s.tried.self [plainIWord sl i] = false := by
    rw [hbs] at hbusy
    simpa [regsBusy, Core.isBusy, Core.busy] using hbusy
  have hneed : ¬ 64 < s.tried.self.gated.length + bundleNeed (plainHeader sl) [plainIWord sl i] := by
    rw [hbs] at hgate
    simpa [bundleNeed, Header.plain] using hgate
  have hft : ¬ 4095 < s.tried.self.pc.toNat % 4096 + 1 + presCount (plainHeader sl).pres := by
    rw [begun_pc] at hroom
    rw [presCount_header]
    omega
  have hprep : prepare s.cur [plainIWord sl i] [plainIWord sl i] (s.tried.self.pc + 2) s.tried = s.tried := by
    simp only [prepare, hland, hx, List.any_cons, List.any_nil, Bool.or_false, hma, hm, Bool.false_eq_true, if_false,
      List.foldl_cons, List.foldl_nil, hself, hd, show s.tried.setCore s.cur s.tried.self = s.tried from tried_touched s,
      hrb, hwl]
  have hfence : fenceHold s.cur [plainIWord sl i] s.tried = none := by
    simp only [fenceHold, List.findSome?, fenceTime_none hm _ (s.begun.ctx sl)]
  unfold tryIssue
  rw [hwk]
  simp only [hself, hpb, Bool.false_eq_true, if_false, hen, hnext, hprep, hland, hx, List.map_cons, List.map_nil,
    wordProbe_plain hbad, hst, hrb, hneed, List.any_cons, List.any_nil, Bool.or_false, Bool.or_self, decide_false, hfence, hft,
    Bool.and_false, barrierOf_none (hm (s.begun.ctx sl)) sl, semWaits_none hsw, headerWait,
    show ((plainHeader sl).wen == 1) = false from rfl, List.append_nil, List.isEmpty_nil, if_true]

/-- The first trap of a plain bundle is that of its operation's own check. -/
theorem firstTrap_plain {b : State} {sl : Slot} {i : Instr} {t : Trap} {w1 w2 : W64} (hbad : b.self.bad = [])
    (hp : slotProbe none (b.ctx sl) i = .trap t w1 w2) :
    firstTrap b.cur (plainHeader sl) [plainIWord sl i] [plainIWord sl i] [(plainIWord sl i, b.ctx sl)] b
      = some (sl.num, .trap t w1 w2) := by
  have hw := (wordProbe_plain (sl := sl) (i := i) hbad).trans hp
  have hstop : wordStop [plainIWord sl i] (plainIWord sl i, b.ctx sl) = .trap t w1 w2 := by
    simp only [wordStop, hw, Probe.first]
  have hoff : offTrap (b.core b.cur) [plainIWord sl i] [plainIWord sl i] = none := by simp [offTrap]
  simp only [firstTrap, slotStop, hoff, slotTrap, List.findSome?, hstop, earlierTrap]
  rfl

/-- The step of an operation whose own check traps, where nothing else stands in its way: the trap is taken, and nothing of the
bundle takes effect. -/
theorem exec_trapped {s : State} {sl : Slot} {i : Instr} {t : Trap} {w1 w2 : W64} (h0 : i.slots.head? = some sl)
    (h : s.issues sl i 2 = true) (hma : marksAlways i = false) (hm : ∀ x, marksBefore x i = false)
    (hsw : ∀ o, i ≠ .semwait o) (hd : downBefore s.tried.self i = s.tried.self)
    (hwl : walksBefore (s.begun.ctx sl) i s.tried = s.tried)
    (hk : ∀ b n, (regReads b i).any (Reg.k n).meets = false)
    (hp : slotProbe none (s.begun.ctx sl) i = .trap t w1 w2) (hre : t ≠ .regError) (hso : t ≠ .semOverflow) :
    exec i s = .next (drain s.cur (takeTrap s.cur sl.num t w1 w2 s.tried)) := by
  have hbad := (issues_parts h).2.2.2.2.2.1
  have hland : s.tried.landed s.cur = s.begun := rfl
  have hx : ctxs s.cur s.begun (s.tried.self.pc + 2) [plainIWord sl i] = [(plainIWord sl i, s.begun.ctx sl)] := by
    rw [← begun_pc]; exact ctxs_one s.begun sl i
  have hft : firstTrap s.cur (plainHeader sl) [plainIWord sl i] [plainIWord sl i]
      [(plainIWord sl i, s.begun.ctx sl)] s.begun = some (sl.num, .trap t w1 w2) := firstTrap_plain hbad hp
  have hc : correctRead [plainIWord sl i] [plainIWord sl i] s.tried.self = s.tried.self :=
    correctRead_of_landed (by rw [tried_self, ← begun_self]; exact hbad) fun n => hk _ n
  rw [exec_slot h0, issueOne_fetched h (by omega), tryIssue_unmarked h hma hm hsw hd hwl (by rw [hp]; rfl)]
  simp only [issueNow, show ((plainHeader sl).mark == 1) = false from rfl, Bool.false_eq_true, if_false, headerPass,
    List.foldl_nil, show s.tried.core s.cur = s.tried.self from rfl,
    show s.tried.setCore s.cur s.tried.self = s.tried from tried_touched s, hland, hx, hft, hc]
  cases t <;> first | rfl | exact absurd rfl hre | exact absurd rfl hso

/-- TRAP takes its trap where it stands. -/
theorem trapInstruction : TrapInstructionClaim := by
  intro s o h
  dsimp only
  rw [exec_trapped (t := .trap) (w1 := o.imm.zeroExtend 64) (w2 := 0) rfl h rfl (fun _ => rfl) (fun _ hc => by cases hc) rfl rfl
    (fun _ _ => rfl) rfl (by decide) (by decide)]
  rfl

end Sys2Proof.Machine
end

section
/-! PROOF. What a commit, a restart mark and a rollback leave of a core (R34, R272, R274): whatever performs on the way, the core is
as it was but for its L1, its effects on their way, the values its loads have taken and its waits. -/

namespace Sys2Proof.Machine

/-- A core without what the memory side of a commit or of a rollback works on: the L1, the committed effects, the signals and
reservations of effects, the values that loads have taken, the waits that a change of a semaphore may meet. -/
def Core.unqueued (k : Core) : Core :=
  { k with l1 := [], outq := [], sat := [], resv := [], waiting := [], granted := none
           loads := k.loads.map fun l => { l with val := none } }

/-- Two cores that are the same but for that. -/
abbrev Core.agrees (j k : Core) : Prop := j.unqueued = k.unqueued

/-- What is no part of that is the same in cores that agree. -/
theorem agrees_field {α : Type} {f : Core → α} (hf : ∀ k : Core, f k.unqueued = f k) {j k : Core} (h : j.agrees k) :
    f j = f k := by rw [← hf j, ← hf k, h]

/-! The memory side of a core. -/

theorem agrees_meetL1 (k : Core) (pick : L1Line → Bool) : (k.meetL1 pick).agrees k := by
  unfold Core.meetL1; split <;> rfl

theorem agrees_queueDown (k : Core) (n : Nat) (pick : L1Line → Bool) : (k.queueDown n pick).agrees k :=
  agrees_meetL1 k pick

theorem agrees_makeRoom (k : Core) (free line : Nat) : (k.makeRoom free line).agrees k := by
  unfold Core.makeRoom
  dsimp only
  split
  · rfl
  · split
    · rfl
    · next v _ => exact agrees_queueDown k k.seq fun e => e.src == v.src && e.line == v.line

/-- A line of the L1 that is looked for is held, or room is made for it. -/
theorem agrees_roomFor (k : Core) (src : Src) (line free : Nat) (pick : L1Line → Bool) :
    (if ((k.meetL1 pick).l1Line src line).isSome then k.meetL1 pick else (k.meetL1 pick).makeRoom free line).agrees k :=
  ite_keeps (p := fun j : Core => j.agrees k) _ (agrees_meetL1 ..) ((agrees_makeRoom ..).trans (agrees_meetL1 ..))

theorem agrees_storeByte (k : Core) (src : Src) (cls : Nat) (loose : Bool) (free : Nat) (w : Nat × Byte) :
    (k.storeByte src cls loose free w).agrees k := agrees_roomFor ..

theorem agrees_fillLine (k : Core) (src : Src) (line free : Nat) (bs : List Byte) :
    (k.fillLine src line free bs).agrees k := agrees_roomFor ..

/-! The state beside its cores. -/

/-- A state with the cores, the tick and the current core of another. -/
structure SameCores (s t : State) : Prop where
  cores : t.cores = s.cores
  now : t.now = s.now
  cur : t.cur = s.cur

theorem SameCores.refl (s : State) : SameCores s s := ⟨rfl, rfl, rfl⟩

theorem SameCores.trans {s t u : State} (h : SameCores s t) (h' : SameCores t u) : SameCores s u :=
  ⟨h'.cores.trans h.cores, h'.now.trans h.now, h'.cur.trans h.cur⟩

theorem SameCores.core {s t : State} (h : SameCores s t) (c : Nat) : t.core c = s.core c := by
  simp only [State.core, h.cores]

/-- A fold whose every step leaves the cores leaves them. -/
theorem sameCores_foldl {α : Type} (f : State → α → State) (h : ∀ t a, SameCores t (f t a)) (l : List α) (s : State) :
    SameCores s (l.foldl f s) :=
  foldl_keeps (p := SameCores s) f (fun t a ht => ht.trans (h t a)) l (.refl s)

theorem sameCores_setByte (s : State) (a : Nat) (b : Byte) : SameCores s (s.setByte a b) := ⟨rfl, rfl, rfl⟩

theorem sameCores_setBytes (bs : List Byte) (s : State) (a : Nat) : SameCores s (s.setBytes a bs) := by
  induction bs generalizing s a with
  | nil => exact .refl s
  | cons b bs ih => exact (sameCores_setByte s a b).trans (ih _ _)

theorem sameCores_fresh (s : State) : SameCores s s.fresh.2 := ⟨rfl, rfl, rfl⟩

theorem sameCores_addSats (s : State) (f n : Nat) : SameCores s (s.addSats f n) := by
  unfold State.addSats; split <;> exact ⟨rfl, rfl, rfl⟩

theorem sameCores_addZeroed (s : State) (l n : Nat) : SameCores s (s.addZeroed l n) := by
  unfold State.addZeroed; split <;> exact ⟨rfl, rfl, rfl⟩

theorem sameCores_countRead (s : State) (src : Src) (o n : Nat) : SameCores s (s.countRead src o n) := by
  unfold State.countRead
  split
  · exact .refl s
  · exact sameCores_addSats ..

theorem sameCores_meetGranule (s : State) (g : Nat) : SameCores s (meetGranule s g) := by
  unfold meetGranule
  dsimp only
  split
  · exact ⟨rfl, rfl, rfl⟩
  · split <;> exact ⟨rfl, rfl, rfl⟩

theorem sameCores_meet (s : State) (src : Src) (o n : Nat) : SameCores s (s.meet src o n).1 := by
  unfold State.meet
  split
  · exact .refl s
  · exact sameCores_foldl _ sameCores_meetGranule _ s

theorem sameCores_meetWrite (gs : List Nat) (s : State) : SameCores s (s.meetWrite gs) :=
  ite_keeps (p := SameCores s) _ (.refl s) (sameCores_foldl _ sameCores_meetGranule gs s)

theorem sameCores_writeBlock (src : Src) (es : List (Nat × XVal)) (s : State) (b : Nat) :
    SameCores s (writeBlock src es s b) := by
  have key : ∀ c codes f n, SameCores s ((storeBlock s src b c codes).addSats f n) := fun c codes f n =>
    ((sameCores_setBytes _ s _).trans ⟨rfl, rfl, rfl⟩ : SameCores s (storeBlock s src b c codes)).trans
      (sameCores_addSats _ f n)
  unfold writeBlock
  dsimp only
  split
  · exact (key _ _ _ _).trans ⟨rfl, rfl, rfl⟩
  · exact key _ _ _ _

theorem sameCores_writeElem (src : Src) (s : State) (e : Nat × XVal) : SameCores s (writeElem src s e) :=
  (sameCores_setBytes _ s _).trans (sameCores_addSats ..)

theorem sameCores_writeGranule (src : Src) (s : State) (ws : List (Nat × Byte)) :
    SameCores s (writeGranule src s ws) := by
  have key : ∀ u es, SameCores u
      (if src.isPlain then ws.foldl (fun s w => s.setByte w.1 w.2) u
      else if src.sfmt == src.dfmt then
        ws.foldl (fun s w => if mxHole src.dfmt src.size w.1 then s else s.setByte (src.frame + w.1) w.2) u
      else if isMxCode src.sfmt then (nubNat (es.map fun e => e.1 / 32)).foldl (writeBlock src es) u
      else es.foldl (writeElem src) u) := by
    intro u es
    split
    · exact sameCores_foldl (fun s w => s.setByte w.1 w.2) (fun _ _ => sameCores_setByte ..) ws u
    · split
      · refine sameCores_foldl
          (fun s w => if mxHole src.dfmt src.size w.1 then s else s.setByte (src.frame + w.1) w.2) (fun t _ => ?_) ws u
        exact ite_keeps (p := SameCores t) _ (.refl t) (sameCores_setByte ..)
      · exact ite_keeps (p := SameCores u) _ (sameCores_foldl _ (sameCores_writeBlock src es) _ u)
          (sameCores_foldl _ (sameCores_writeElem src) es u)
  have hw := fun gs es => (sameCores_meetWrite gs s).trans (key (s.meetWrite gs) es)
  exact ite_keeps (p := SameCores s) _ 
    ((hw _ _).trans (sameCores_foldl (fun s g => countGranule s (g * 256)) (fun _ _ => ⟨rfl, rfl, rfl⟩) _ _)) (hw _ _)

theorem sameCores_deliverTo (src : Src) (ws : List (Nat × Byte)) (s : State) : SameCores s (s.deliverTo src ws) :=
  sameCores_foldl _ (fun t _ => sameCores_writeGranule src t _) _ s

theorem sameCores_readLine (l : Nat) (src : Src) (line : Nat) (s : State) : SameCores s (s.readLine l src line) :=
  ((sameCores_meet s src _ _).trans (sameCores_addZeroed ..)).trans (sameCores_countRead ..)

/-! Loads that take their values early. -/

theorem readLines_agrees (l : Nat) (src : Src) (f : Nat) (lines : List Nat) (s : State) (k : Core) :
    SameCores s (readLines l src f lines s k).1 ∧ (readLines l src f lines s k).2.agrees k :=
  foldl_keeps (p := fun a : State × Core => SameCores s a.1 ∧ a.2.agrees k) _
    (fun _ _ ⟨hs, hk⟩ => ⟨hs.trans (sameCores_readLine ..), (agrees_fillLine ..).trans hk⟩) lines ⟨.refl s, rfl⟩

theorem take_agrees (l : LoadPend) (s : State) (k : Core) :
    SameCores s (l.take s k).2.1 ∧ (l.take s k).2.2.agrees k := by
  unfold LoadPend.take
  split
  · exact ⟨.refl s, rfl⟩
  · obtain ⟨u, j, huj⟩ : ∃ u j, findL1 l.src (linesOf l.off l.size) s k = (u, j) := ⟨_, _, rfl⟩
    have hu : SameCores s u := by
      rw [show u = (findL1 l.src (linesOf l.off l.size) s k).1 by rw [huj]]
      exact sameCores_addZeroed ..
    have hj : j.agrees k := by
      rw [show j = (findL1 l.src (linesOf l.off l.size) s k).2 by rw [huj]]
      exact agrees_meetL1 ..
    have hread := readLines_agrees j.launch l.src u.fresh.1 (l.misses j) u.fresh.2 j
    rw [huj]
    exact ⟨(hu.trans (sameCores_fresh u)).trans hread.1, hread.2.trans hj⟩

/-- A load that takes its value, put back in its place, leaves the loads as they were but for the value. -/
theorem agrees_setVal {j k : Core} (h : j.agrees k) {i : Nat} {l : LoadPend} (hl : k.loads[i]? = some l)
    (v : Option (List Byte)) : ({ j with loads := j.loads.set i { l with val := v } } : Core).agrees k := by
  have hmap : j.loads.map (fun l => { l with val := none }) = k.loads.map fun l => { l with val := none } :=
    congrArg Core.loads h
  have hset : (j.loads.set i { l with val := v }).map (fun l => { l with val := none })
      = k.loads.map fun l => { l with val := none } := by
    rw [List.map_set, hmap]
    refine List.ext_getElem? fun n => ?_
    rw [List.getElem?_set]
    split
    · next hn => subst hn; split <;> simp_all
    · rfl
  refine Eq.trans ?_ h
  simp only [Core.unqueued, hset, hmap]

theorem takeEarly_agrees (i : Nat) (a : State × Core) :
    SameCores a.1 (takeEarly i a).1 ∧ (takeEarly i a).2.agrees a.2 := by
  unfold takeEarly
  split
  · next l hl => exact ⟨(take_agrees l a.1 a.2).1, agrees_setVal (take_agrees l a.1 a.2).2 hl _⟩
  · exact ⟨.refl _, rfl⟩

theorem settleLoads_agrees (pick : LoadPend → Bool) (s : State) (k : Core) :
    SameCores s (settleLoads pick s k).1 ∧ (settleLoads pick s k).2.agrees k :=
  foldl_keeps (p := fun a : State × Core => SameCores s a.1 ∧ a.2.agrees k) _
    (fun a i ⟨hs, hk⟩ => ite_keeps (p := fun a : State × Core => SameCores s a.1 ∧ a.2.agrees k) _
      ⟨hs.trans (takeEarly_agrees i a).1, (takeEarly_agrees i a).2.trans hk⟩ ⟨hs, hk⟩) _ ⟨.refl s, rfl⟩

/-! What performs. -/

/-- A state whose cores agree with those of another, at the same tick and with the same current core. -/
structure Keeps (s t : State) : Prop where
  core : ∀ c, (t.core c).agrees (s.core c)
  now : t.now = s.now
  cur : t.cur = s.cur

theorem SameCores.keeps {s t : State} (h : SameCores s t) : Keeps s t :=
  ⟨fun c => by rw [h.core c], h.now, h.cur⟩

theorem Keeps.refl (s : State) : Keeps s s := ⟨fun _ => rfl, rfl, rfl⟩

theorem Keeps.trans {s t u : State} (h : Keeps s t) (h' : Keeps t u) : Keeps s u :=
  ⟨fun c => (h'.core c).trans (h.core c), h'.now.trans h.now, h'.cur.trans h.cur⟩

theorem keeps_setCore {s : State} {c : Nat} {k : Core} (h : k.agrees (s.core c)) : Keeps s (s.setCore c k) := by
  refine ⟨fun d => ?_, rfl, rfl⟩
  by_cases hd : d = c
  · subst hd; rwa [State.setCore_same]
  · rw [State.setCore_other _ _ _ _ hd]

theorem keeps_foldl {α : Type} (f : State → α → State) (h : ∀ t a, Keeps t (f t a)) (l : List α) (s : State) :
    Keeps s (l.foldl f s) :=
  foldl_keeps (p := Keeps s) f (fun t a ht => ht.trans (h t a)) l (.refl s)

theorem keeps_grant (c : Nat) (s : State) : Keeps s (s.grant c) := by
  have hds := fun ds => sameCores_foldl (fun s (d : Nat × Nat × Nat) =>
    (s.setSem (coreCluster c) d.1 (s.sem (coreCluster c) d.1 - d.2.1)).passed c d.1) (fun _ _ => ⟨rfl, rfl, rfl⟩) ds s
  exact (hds _).keeps.trans (keeps_setCore rfl)

theorem keeps_testWaits (cl n : Nat) (s : State) : Keeps s (s.testWaits cl n) := by
  have key : ∀ cs : List Nat, Keeps s (cs.foldl (fun a c =>
      if a.1.grants n c then (a.1.grant c, a.2 ++ [(0, Instr.bundleIssue c)]) else a) (s, ([] : List (Nat × Instr)))).1 :=
    fun cs => foldl_keeps (p := fun a : State × List (Nat × Instr) => Keeps s a.1) _
      (fun a c ha => ite_keeps (p := fun a : State × List (Nat × Instr) => Keeps s a.1) _
        (ha.trans (keeps_grant c a.1)) ha) cs (.refl s)
  unfold State.testWaits
  generalize s.round cl n = cs
  obtain ⟨hcore, hnow, hcur⟩ := key cs
  exact ⟨hcore, hnow, hcur⟩

theorem sameCores_setSem (s : State) (cl n v : Nat) : SameCores s (s.setSem cl n v) := ⟨rfl, rfl, rfl⟩

theorem sameCores_addSem (s : State) (cl n v : Nat) : SameCores s (s.addSem cl n v) := sameCores_setSem ..

theorem sameCores_setAdm (s : State) (cl n v : Nat) : SameCores s (s.setAdm cl n v) := ⟨rfl, rfl, rfl⟩

theorem keeps_moveSem (cl n v : Nat) (s : State) : Keeps s (s.moveSem cl n v) :=
  (sameCores_setSem s cl n v).keeps.trans (keeps_testWaits cl n _)

theorem keeps_incSem (cl n v : Nat) (s : State) : Keeps s (s.incSem cl n v) :=
  (sameCores_addSem s cl n v).keeps.trans (keeps_testWaits cl n _)

theorem keeps_applyAdm (cl n v : Nat) (s : State) : Keeps s (s.applyAdm cl n v) :=
  (keeps_incSem cl n v s).trans (sameCores_setAdm _ cl n _).keeps

theorem keeps_performEff (c : Nat) (s : State) (e : Effect) : Keeps s (performEff c s e) := by
  cases e with
  | store src ws cls sc rel =>
    have h := (sameCores_deliverTo src ws s).keeps.trans (keeps_setCore (c := c) (k := ((s.deliverTo src ws).core c).cleanBytes src ws) rfl)
    exact ite_keeps (p := Keeps s) _
      (h.trans (sameCores_foldl (fun s l => s.setSeep src (l * 128) sc c) (fun _ _ => ⟨rfl, rfl, rfl⟩) _ _).keeps) h
  | signal n v | semadd n v => exact keeps_applyAdm ..
  | semset n v => exact keeps_moveSem ..
  | _ => exact SameCores.keeps ⟨rfl, rfl, rfl⟩

theorem keeps_performAt (c i : Nat) (s : State) : Keeps s (performAt c i s) := by
  unfold performAt
  dsimp only
  split
  · split
    · exact .refl s
    · refine Keeps.trans ?_ (keeps_performEff ..)
      exact keeps_setCore rfl
  · exact .refl s

theorem keeps_drainFrom (c fuel i : Nat) (s : State) : Keeps s (drainFrom c fuel i s) := by
  induction fuel generalizing i s with
  | zero => exact .refl s
  | succ n ih =>
    unfold drainFrom
    split
    · exact .refl s
    · split
      · exact (keeps_performAt ..).trans (ih ..)
      · exact ih ..

/-- What performs as soon as it may leaves every core as it is. -/
theorem keeps_drain (c : Nat) (s : State) : Keeps s (drain c s) := keeps_drainFrom ..

/-! Commits and marks. -/

theorem keeps_commitOne (c : Nat) (s : State) (g : Gate) : Keeps s (commitOne c s g) := by
  have hdown := agrees_queueDown (s.core c) g.seq g.eff.downs
  unfold commitOne
  dsimp only
  split
  · refine Keeps.trans ?_ (keeps_drain ..)
    exact keeps_setCore hdown
  · exact keeps_setCore hdown
  · next src ws cls sc rel _ =>
    obtain ⟨hs, hk⟩ := settleLoads_agrees (fun l => l.seq ≤ g.seq && l.before g.eff) s ((s.core c).queueDown g.seq g.eff.downs)
    obtain ⟨u, j, huj⟩ : ∃ u j, settleLoads (fun l => l.seq ≤ g.seq && l.before g.eff) s
      ((s.core c).queueDown g.seq g.eff.downs) = (u, j) := ⟨_, _, rfl⟩
    rw [huj] at hs hk ⊢
    have hj : (ws.foldl (fun k w => k.storeByte src cls (sc == 0) u.fresh.1 w) j).agrees (u.core c) :=
      foldl_keeps (p := fun i : Core => i.agrees (u.core c)) _ (fun _ _ h => (agrees_storeByte ..).trans h) ws
        (by rw [hs.core c]; exact hk.trans hdown)
    refine (hs.trans (sameCores_fresh u)).keeps.trans (keeps_setCore ?_)
    exact ite_keeps (p := fun i : Core => i.agrees (u.core c)) _ hj hj
  all_goals exact keeps_setCore hdown

/-- A commit leaves every core as it is, its own with nothing gated. -/
theorem keeps_commit (c : Nat) (s : State) : Keeps (s.setCore c { s.core c with gated := [] }) (commit c s) :=
  (keeps_foldl (commitOne c) (keeps_commitOne c) _ _).trans (keeps_drain ..)

theorem takeMark_now (c : Nat) (pc : BitVec 13) (s : State) : (takeMark c pc s).now = s.now := (keeps_commit c s).now
theorem takeMark_cur (c : Nat) (pc : BitVec 13) (s : State) : (takeMark c pc s).cur = s.cur := (keeps_commit c s).cur

/-- A register is busy in a core where it is in one that agrees with it. -/
theorem agrees_busy {j k : Core} (h : j.agrees k) : j.busy = k.busy := by
  have hl : j.loads.map (fun l => { l with val := none }) = k.loads.map fun l => { l with val := none } :=
    congrArg Core.loads h
  have hloads : j.loads.filterMap (·.dest.reg) = k.loads.filterMap (·.dest.reg) := by
    simpa [List.filterMap_map, Function.comp_def] using congrArg (List.filterMap fun l : LoadPend => l.dest.reg) hl
  have hland : j.land = k.land := agrees_field (f := Core.land) (fun _ => rfl) h
  have hmma : j.mma = k.mma := agrees_field (f := Core.mma) (fun _ => rfl) h
  have hmout : j.mout = k.mout := agrees_field (f := Core.mout) (fun _ => rfl) h
  have hovls : j.ovls = k.ovls := agrees_field (f := Core.ovls) (fun _ => rfl) h
  simp only [Core.busy, hloads, hland, hmma, hmout, hovls]

/-- A state that a bundle is judged by as it is by another: of its current core the PC, the registers and what makes them wait are
the same, and nothing is gated. -/
structure MarkedAs (s m : State) : Prop where
  cur : m.cur = s.cur
  now : m.now = s.now
  pc : m.self.pc = s.self.pc
  regs : m.self.regs = s.self.regs
  bad : m.self.bad = s.self.bad
  busy : m.self.busy = s.self.busy
  gated : m.self.gated = []

/-- What a restart mark leaves of its core (R34). -/
theorem takeMark_markedAs (pc : BitVec 13) (s : State) : MarkedAs s (takeMark s.cur pc s) := by
  have hj := (keeps_commit s.cur s).core s.cur
  rw [State.setCore_same] at hj
  have hpc := agrees_field (f := Core.pc) (fun _ => rfl) hj
  have hregs := agrees_field (f := Core.regs) (fun _ => rfl) hj
  have hbad := agrees_field (f := Core.bad) (fun _ => rfl) hj
  have hbusy := agrees_busy hj
  have hgated := agrees_field (f := Core.gated) (fun _ => rfl) hj
  have hself : (takeMark s.cur pc s).self = { (commit s.cur s).core s.cur with
      shadow := ((commit s.cur s).core s.cur).regs, mark := pc, region := ((commit s.cur s).core s.cur).region + 1
      markSeq := ((commit s.cur s).core s.cur).seq, decr := [] } := by
    rw [State.self, takeMark_cur]
    unfold takeMark
    dsimp only
    rw [State.setCore_same]
  refine ⟨takeMark_cur .., takeMark_now .., ?_, ?_, ?_, ?_, ?_⟩ <;> rw [hself]
  · exact hpc
  · exact hregs
  · exact hbad
  · exact hbusy
  · exact hgated

/-- The implicit mark before a bundle (R62) changes nothing that the bundle is judged by. -/
theorem implicitMark_markedAs (s : State) : MarkedAs s (implicitMark s.cur s) := by
  unfold implicitMark
  split
  · next hf =>
    simp only [Core.fresh, Bool.and_eq_true, List.isEmpty_iff] at hf
    exact ⟨rfl, rfl, rfl, rfl, rfl, rfl, hf.2⟩
  · exact takeMark_markedAs _ s

/-- The state that an implicit mark leaves has its current core's record written. -/
theorem implicitMark_touched {s : State} (h : s.touched) : (implicitMark s.cur s).touched := by
  have hcur := (implicitMark_markedAs s).cur
  unfold State.touched
  rw [hcur]
  unfold implicitMark at hcur ⊢
  split
  · exact h
  · next hf =>
    rw [if_neg hf] at hcur
    rw [State.self, hcur]
    unfold takeMark
    dsimp only
    rw [State.setCore_same, State.setCore_twice]

/-! Rollback. -/

/-- What a rollback gives back or drops leaves every core as it is. -/
theorem keeps_dropGated (c : Nat) (s : State) (g : Gate) : Keeps s (dropGated c s g) := by
  unfold dropGated
  split
  · exact (sameCores_setAdm ..).keeps
  · exact (sameCores_setAdm ..).keeps
  · next p _ =>
    have h : Keeps s (s.setEngq (pushTarget p.core p.q) ((s.engq (pushTarget p.core p.q)).reserve p.lid false)) :=
      SameCores.keeps ⟨rfl, rfl, rfl⟩
    exact ite_keeps (p := Keeps s) _ (h.trans (keeps_setCore rfl)) h
  · exact .refl s

theorem sameCores_queueWalk (s : State) (f space root : Nat) (va : W64) (who : WalkFor) :
    SameCores s (s.queueWalk f space root va who) := ⟨rfl, rfl, rfl⟩

theorem sameCores_queueWalks (c : Nat) (s : State) : SameCores s (queueWalks c s) :=
  sameCores_foldl (fun s (h : Nat × Handle) => if h.2.state == .pending then
      s.queueWalk (coreDie c) (s.space c).1 (s.space c).2 h.2.va (.handle c h.1) else s)
    (fun t _ => ite_keeps (p := SameCores t) _ (sameCores_queueWalk ..) (.refl t)) _ s

/-- What a rollback leaves of its core (R274). -/
theorem rollback_core (c : Nat) (s : State) :
    let k := s.core c
    let k' := (rollback c s).core c
    k'.regs = { k.shadow with h := k.shadow.h.mapVal fun _ h => h.again } ∧ k'.pc = k.mark ∧ k'.gated = [] ∧ k'.decr = [] ∧
      k'.tile = k.tile ∧ k'.tbank = k.tbank := by
  obtain ⟨u, k, huk⟩ : ∃ u k, settleLoads (fun l => l.region == (s.core c).region && !l.dest.shadowed) s (s.core c) = (u, k) :=
    ⟨_, _, rfl⟩
  obtain ⟨hs, hk⟩ := settleLoads_agrees (fun l => l.region == (s.core c).region && !l.dest.shadowed) s (s.core c)
  rw [huk] at hs hk
  have hset : Keeps s (u.setCore c k) := hs.keeps.trans (keeps_setCore (by rw [hs.core c]; exact hk))
  have hdrop := hset.trans (keeps_foldl (dropGated c) (keeps_dropGated c) k.gated (u.setCore c k))
  have hadd := hdrop.trans (sameCores_foldl (fun s d => s.addSem (coreCluster c) d.1 d.2) (fun _ _ => sameCores_addSem ..)
    k.decr.reverse _).keeps
  have htest := hadd.trans (keeps_foldl (fun s n => s.testWaits (coreCluster c) n) (fun _ _ => keeps_testWaits ..)
    (nubNat (k.decr.map (·.1))) _)
  have hj := htest.core c
  dsimp only
  unfold rollback
  dsimp only
  rw [huk]
  dsimp only
  rw [(sameCores_queueWalks ..).core c, State.setCore_same]
  have hsh := agrees_field (f := Core.shadow) (fun _ => rfl) hj
  have hmark := agrees_field (f := Core.mark) (fun _ => rfl) hj
  have htile := agrees_field (f := Core.tile) (fun _ => rfl) hj
  have htbank := agrees_field (f := Core.tbank) (fun _ => rfl) hj
  exact ⟨by rw [hsh], hmark, rfl, rfl, htile, htbank⟩

/-! Taking a trap. -/

theorem Tab.find_mapVal {α β : Type} (t : Tab α) (f : Nat → α → β) (n : Nat) :
    (t.mapVal f).find n = (t.find n).map (f n) := by
  induction t with
  | nil => rfl
  | cons e t ih =>
    obtain ⟨a, x⟩ := e
    by_cases h : a = n
    · subst h; simp [Tab.mapVal, Tab.find]
    · have hne : (a == n) = false := by simpa using h
      simpa [Tab.mapVal, Tab.find, hne] using ih

/-- A handle of a register file whose handles are all to be walked again (R139). -/
theorem handle_again (r : Regs) (n : Nat) :
    ({ r with h := r.h.mapVal fun _ h => h.again } : Regs).handle n = (r.handle n).again := by
  unfold Regs.handle Tab.get
  rw [Tab.find_mapVal]
  cases Tab.find r.h n <;> rfl

/-- What taking a page-class trap leaves of its core. -/
theorem takeTrap_core (c slot : Nat) (t : Trap) (w1 w2 : W64) (s : State) (ht : t.pageClass = true) :
    (takeTrap c slot t w1 w2 s).core c = { (rollback c s).core c with
      run := .trapped, loopBuf := none, hold := none, waiting := [], granted := none, arrC := false, arrG := false
      trap := { state := t.state, pc := ((rollback c s).core c).pc, rb := true, slot, code := t.code, w1, w2 } } := by
  unfold takeTrap
  dsimp only
  rw [ht, if_pos rfl]
  split <;> simp

/-- A page-class trap rolls its core back. -/
theorem pageTrapRollsBack : PageTrapRollsBackClaim := by
  intro s c slot t w1 w2 ht k k'
  obtain ⟨hregs, hpc, hgated, hdecr, htile, htbank⟩ := rollback_core c s
  have hk : k' = _ := takeTrap_core c slot t w1 w2 s ht
  have hkregs : k'.regs = { k.shadow with h := k.shadow.h.mapVal fun _ h => h.again } := by rw [hk]; exact hregs
  have hh : ∀ n, k'.regs.handle n = (k.shadow.handle n).again := fun n => by rw [hkregs, handle_again]
  refine ⟨?_, ?_, ?_, ?_, ?_, ?_, ?_, fun n => ?_, fun n => ?_, ?_, ?_, ?_, ?_, ?_, ?_⟩
  · rw [hk]
  · rw [hk]; exact hpc
  · rw [hk]; exact hgated
  · rw [hk]; exact hdecr
  · rw [hk]; exact htile
  · rw [hk]; exact htbank
  · rw [hkregs]
  · rw [hh, Handle.again]
    simp only [beq_iff_eq]
    split <;> simp_all
  · rw [hh, Handle.again]
    split <;> rfl
  all_goals rw [hk]
  exact hpc

/-- Settles O15: TRAP's own check traps and nothing of its bundle takes effect (`exec_trapped`); a page-class trap leaves what its
rollback leaves (`rollback_core`). -/
theorem takingTraps : Obligations.TakingTraps := ⟨trapInstruction, pageTrapRollsBack⟩

end Sys2Proof.Machine
end

section
/-! PROOF. MFCR and MTCR (R108 to R117, R140, R148): what a control register reads, what its write leaves, and the write of TBANK
after the implicit mark of its bundle. -/

namespace Sys2Proof.Machine

/-! Control registers. -/

theorem zeroExtend_eq_ofNat {w n : Nat} (v : BitVec w) : v.zeroExtend n = BitVec.ofNat n v.toNat :=
  BitVec.eq_of_toNat_eq (by simp)

theorem truncate_eq_low {w n : Nat} (v : BitVec w) : v.truncate n = BitVec.ofNat n (v.toNat % 2 ^ n) :=
  BitVec.eq_of_toNat_eq (by simp)

/-- A control register is read as its map says. -/
theorem cr_eq (s : State) (sl : Slot) (n : BitVec 12) : (s.begun.ctx sl).cr n = controlValue s n.toNat := by
  have hbit : ∀ (b : Bool) (m : Nat), b.toNat * m = if b then m else 0 := fun b m => by cases b <;> simp
  unfold Ctx.cr controlValue
  generalize n.toNat = m
  dsimp only
  split
  case h_2 | h_3 | h_5 | h_6 | h_7 | h_8 | h_17 | h_18 | h_20 => exact zeroExtend_eq_ofNat _
  case h_4 => rw [hbit]; rfl
  case h_9 => rw [escWord, hbit]; rfl
  case h_21 =>
    split
    case h_15 => rw [if_neg (by simp only [imp_false] at *; omega)]
    all_goals exact absurd rfl ‹_›
  all_goals rfl

/-- A control register but TBANK takes its value as its map says. -/
theorem writeCr_eq (now : Nat) (n : BitVec 12) (v : W64) (k : Core) (h : n ≠ 0x040) :
    writeCr now n v k = controlWritten k n.toNat v := by
  have h' : n.toNat ≠ 0x040 := fun hc => h (BitVec.eq_of_toNat_eq hc)
  have hmode : ∀ m < 8, ((BitVec.ofNat 3 m == 0 || BitVec.ofNat 3 m == 6 || BitVec.ofNat 3 m == 7) = true)
      ↔ ¬ (1 ≤ m ∧ m ≤ 5) := by decide
  have hseed : (if v.truncate 32 == (0 : BitVec 32) then 1 else v.truncate 32)
      = BitVec.ofNat 32 (if v.toNat % 2 ^ 32 = 0 then 1 else v.toNat % 2 ^ 32) := by
    have hz : v.truncate 32 == (0 : BitVec 32) ↔ v.toNat % 2 ^ 32 = 0 := by simp [← BitVec.toNat_inj]
    by_cases h0 : v.toNat % 2 ^ 32 = 0
    · rw [if_pos (hz.2 h0), if_pos h0]; rfl
    · rw [if_neg (fun hc => h0 (hz.1 hc)), if_neg h0, truncate_eq_low]
  have hscout : (v.extractLsb' 0 7).toNat = v.toNat % 2 ^ 7 := by simp
  unfold writeCr controlWritten
  generalize n.toNat = m at *
  dsimp only
  split
  case h_1 =>
    have hm := hmode (v.toNat % 2 ^ 3) (by omega)
    simp only [truncate_eq_low]
    by_cases h1 : 1 ≤ v.toNat % 2 ^ 3 ∧ v.toNat % 2 ^ 3 ≤ 5
    · rw [if_neg (fun hc => hm.1 hc h1), if_pos h1]
    · rw [if_pos (hm.2 h1), if_neg h1]
  case h_3 => rw [hseed]; rfl
  case h_5 =>
    have h4 : v.extractLsb' 4 3 = BitVec.ofNat 3 (v.toNat / 2 ^ 4) := by
      simp [BitVec.extractLsb', Nat.shiftRight_eq_div_pow]
    have h0 : v.extractLsb' 0 3 = BitVec.ofNat 3 (v.toNat % 2 ^ 3) := BitVec.eq_of_toNat_eq (by simp)
    simp only [h4, h0]
  case h_13 => exact absurd rfl h'
  case h_14 =>
    simp only [hscout, truncate_eq_low]
    split <;> split <;> first | rfl | omega
  case h_15 =>
    split
    case h_8 => rw [if_neg (by simp only [imp_false] at *; omega)]
    all_goals exact absurd rfl ‹_›
  case h_2 | h_4 | h_12 => simp only [truncate_eq_low]
  all_goals rfl

/-! TBANK. -/

/-- A row of a core after a bank is turned off: the bank's rows read zero (R148). -/
theorem bankOff_row (b : Nat) (k : Core) {t r : Nat} (hr : r < 32) :
    (bankOff b k).row t r = if t / 16 = b then 0 else k.row t r := by
  rw [Core.row, show (bankOff b k).tile = k.tile.clearRange (16 * b * 32) (16 * (b + 1) * 32) from rfl, Store.read_clearRange]
  by_cases h : t / 16 = b
  · rw [if_pos (by omega), if_pos h]
  · rw [if_neg (by omega), if_neg h]; rfl

/-- One bank's move leaves TBANK, the registers and the good check bits. -/
theorem bankMove_keeps (now : Nat) (v : BitVec 16) (k : Core) (b : Nat) :
    (bankMove now v k b).tbank = k.tbank ∧ (bankMove now v k b).regs = k.regs
      ∧ (k.bad = [] → (bankMove now v k b).bad = []) := by
  unfold bankMove
  dsimp only
  split
  · exact ⟨rfl, rfl, fun h => by simp [bankOff, h]⟩
  · split <;> exact ⟨rfl, rfl, id⟩

theorem bankMove_row (now : Nat) (v : BitVec 16) (k : Core) (b : Nat) {t r : Nat} (hr : r < 32) :
    (bankMove now v k b).row t r
      = if t / 16 = b ∧ bankCode v b = 2 ∧ bankCode k.tbank b ≠ 2 then 0 else k.row t r := by
  unfold bankMove
  dsimp only
  split
  · next h =>
    have h : bankCode v b = 2 ∧ bankCode k.tbank b ≠ 2 := by simpa using h
    rw [bankOff_row _ _ hr]
    simp only [h.1, h.2, ne_eq, not_false_eq_true, and_true]
    rfl
  · next h =>
    have h : ¬ (bankCode v b = 2 ∧ bankCode k.tbank b ≠ 2) := by simpa using h
    refine Eq.trans ?_ (if_neg fun hc => h hc.2).symm
    by_cases hw : (bankCode v b == 0 && bankCode k.tbank b == 1) = true
    · rw [if_pos hw]; rfl
    · rw [if_neg hw]; rfl

/-- A bank that is to wake does so in the move of its own bank, and no move of a bank forgets the wake of one that is ON. -/
theorem bankMove_waking (now : Nat) (v : BitVec 16) (k : Core) (b d : Nat) (hd : bankCode v d = 0) :
    (∀ w, (d, w) ∈ k.waking → (d, w) ∈ (bankMove now v k b).waking)
      ∧ (b = d → bankCode k.tbank d = 1 → (d, now + 64) ∈ (bankMove now v k b).waking) := by
  have hkeep : ∀ w, (d, w) ∈ k.waking → (d, w) ∈ if bankCode v b == 0 then k.waking else k.waking.filter fun w => w.1 != b := by
    intro w hw
    split
    · exact hw
    · next hb =>
      have hne : d ≠ b := by rintro rfl; simp [hd] at hb
      simpa [hne] using hw
  unfold bankMove
  dsimp only
  split
  · next h => exact ⟨hkeep, by rintro rfl; simp [hd] at h⟩
  · split
    · exact ⟨fun w hw => List.mem_append_left _ (hkeep w hw), by rintro rfl _; simp⟩
    · next h => exact ⟨hkeep, by rintro rfl ht; simp [hd, ht] at h⟩

/-- The moves of some banks leave TBANK, the registers and the good check bits. -/
theorem bankMoves_keep (now : Nat) (v : BitVec 16) (bs : List Nat) (k : Core) :
    (bs.foldl (bankMove now v) k).tbank = k.tbank ∧ (bs.foldl (bankMove now v) k).regs = k.regs
      ∧ (k.bad = [] → (bs.foldl (bankMove now v) k).bad = []) :=
  foldl_keeps (p := fun j : Core => j.tbank = k.tbank ∧ j.regs = k.regs ∧ (k.bad = [] → j.bad = [])) _
    (fun j b ⟨ht, hr, hb⟩ => by
      obtain ⟨ht', hr', hb'⟩ := bankMove_keeps now v j b
      exact ⟨ht'.trans ht, hr'.trans hr, fun h => hb' (hb h)⟩) bs ⟨rfl, rfl, id⟩

theorem bankMoves_row (now : Nat) (v : BitVec 16) (bs : List Nat) (k : Core) {t r : Nat} (hr : r < 32) :
    (bs.foldl (bankMove now v) k).row t r
      = if t / 16 ∈ bs ∧ bankCode v (t / 16) = 2 ∧ bankCode k.tbank (t / 16) ≠ 2 then 0 else k.row t r := by
  induction bs generalizing k with
  | nil => simp
  | cons b bs ih =>
    rw [List.foldl_cons, ih, (bankMove_keeps now v k b).1, bankMove_row _ _ _ _ hr]
    by_cases hb : t / 16 = b
    · subst hb
      by_cases hc : bankCode v (t / 16) = 2 ∧ bankCode k.tbank (t / 16) ≠ 2
      · rw [if_pos (And.intro rfl hc), ite_self, if_pos ⟨List.mem_cons_self, hc⟩]
      · rw [if_neg fun h => hc h.2, if_neg fun h => hc h.2, if_neg fun h => hc h.2]
    · simp only [hb, List.mem_cons, false_or, false_and, if_false]

theorem bankMoves_waking (now : Nat) (v : BitVec 16) (bs : List Nat) (k : Core) {d : Nat} (hd : bankCode v d = 0)
    (hb : d ∈ bs) (ht : bankCode k.tbank d = 1) : (d, now + 64) ∈ (bs.foldl (bankMove now v) k).waking := by
  induction bs generalizing k with
  | nil => cases hb
  | cons b bs ih =>
    obtain ⟨-, hown⟩ := bankMove_waking now v k b d hd
    rw [List.foldl_cons]
    by_cases hin : d ∈ bs
    · exact ih _ hin (by rw [(bankMove_keeps now v k b).1]; exact ht)
    · have hbd : b = d := by simpa [hin, eq_comm] using hb
      exact foldl_keeps (p := fun j : Core => (d, now + 64) ∈ j.waking) _
        (fun j c hj => (bankMove_waking now v j c d hd).1 _ hj) bs (hown hbd ht)

/-- A value of TBANK that is not discarded, said of its fields (R148). -/
theorem tbankBad_eq (k : Core) (v : BitVec 16) :
    tbankBad k v = (List.range 8).any fun b => bankCode v b == 3 || (decide (k.tiles.toNat ≤ 16 * b) && bankCode v b != 2) := by
  simp [tbankBad, allotted, ← decide_not]

theorem tbankBad_false {k : Core} {v : BitVec 16}
    (h : ((List.range 8).all fun b => bankCode v b != 3 && (decide (16 * b < k.tiles.toNat) || bankCode v b == 2)) = true) :
    tbankBad k v = false := by
  rw [tbankBad, List.any_eq_false]
  intro b hb
  have hfield := List.all_eq_true.1 h b hb
  simp only [Bool.and_eq_true, Bool.or_eq_true, decide_eq_true_eq] at hfield
  obtain ⟨h3, hlow | h2⟩ := hfield
  · simp_all [allotted]
  · simp_all

/-- A write of TBANK leaves the registers, and no bad check bits where there were none. -/
theorem writeTbank_keeps (now : Nat) (v : BitVec 16) (k : Core) :
    (writeTbank now v k).regs = k.regs ∧ (k.bad = [] → (writeTbank now v k).bad = []) := by
  unfold writeTbank
  split
  · exact ⟨rfl, id⟩
  · exact (bankMoves_keep now v _ k).2

/-- A write of a control register changes no held word. -/
theorem writeCr_held (now : Nat) (n : BitVec 12) (v : W64) (k : Core) : (writeCr now n v k).regs.held = k.regs.held := by
  unfold writeCr
  dsimp only
  split
  case h_1 => split <;> rfl
  case h_13 => rw [(writeTbank_keeps ..).1]
  case h_14 => split <;> rfl
  all_goals rfl

theorem writeCr_bad (now : Nat) (n : BitVec 12) (v : W64) {k : Core} (h : k.bad = []) : (writeCr now n v k).bad = [] := by
  unfold writeCr
  dsimp only
  split
  case h_1 => split <;> exact h
  case h_13 => exact (writeTbank_keeps ..).2 h
  case h_14 => split <;> exact h
  all_goals exact h

/-! The issue of an MTCR. -/

/-- A retired plain bundle that writes a control register: the write comes after its effects (R140). -/
theorem retire_mtcr (sl : Slot) (i : Instr) (before : Core) (a : Acc) {n : BitVec 12} {v : W64} (hm : a.mtcr = some (n, v))
    (hh : a.k.regs.held = []) (hb : a.k.bad = []) :
    retire (plainHeader sl) [plainIWord sl i] [plainIWord sl i] before a
      = (writeCr a.s.now n v { a.k with regs := { a.k.regs with seed := a.rnd.seed } }).retired a.s.now a.next a.bubble := by
  obtain ⟨s, k, rnd, next, bubble, relHeld, mtcr, mark⟩ := a
  simp only at hm hh hb
  subst hm
  generalize hw : writeCr s.now n v { k with regs := { k.regs with seed := rnd.seed } } = j
  have hjh : j.regs.held = [] := by rw [← hw, writeCr_held]; exact hh
  have hjb : j.bad = [] := by rw [← hw]; exact writeCr_bad _ _ _ hb
  have hheld : (if relHeld || (plainHeader sl).kind == 1 then []
      else heldAfter (plainHeader sl).pres [plainIWord sl i] j.regs.held) = j.regs.held := by
    rw [hjh]
    cases relHeld <;> simp [Header.plain, heldAfter, Ctl.plain, Tab.drop]
  simp only [retire, dropCount_one, bconf_same, hw, hheld, Core.retired, hjb, List.filter_nil]

theorem marked_from (s : State) : MarkedAs s.tried (implicitMark s.cur s.tried) := implicitMark_markedAs s.tried

theorem marked_now (s : State) : s.marked.now = s.now := (marked_from s).now

/-- The core of `State.marked`. -/
theorem marked_self (s : State) : s.marked.self = (implicitMark s.cur s.tried).self.landScales := by
  have := landed_self (implicitMark s.cur s.tried)
  rwa [show (implicitMark s.cur s.tried).cur = s.cur from (marked_from s).cur] at this

theorem tried_landed (s : State) : s.begun.self = s.tried.self.landScales := by rw [begun_self, tried_self]

/-- The implicit mark changes no register, no check bit and no PC of what issues after it. -/
theorem marked_regs (s : State) : s.marked.self.regs = s.begun.self.regs := by
  rw [marked_self, tried_landed, landScales_regs, landScales_regs, (marked_from s).regs]
theorem marked_bad (s : State) : s.marked.self.bad = s.begun.self.bad := by
  rw [marked_self, tried_landed, Core.landScales, Core.landScales, (marked_from s).bad, (marked_from s).regs]
theorem marked_pc (s : State) : s.marked.self.pc = s.self.pc := by
  rw [marked_self, landScales_pc, (marked_from s).pc, tried_self]

/-- The step of an operation that takes a mark before its bundle, where nothing stands in its way: what its issue comes to on the
state that the mark leaves. -/
theorem exec_marked {s : State} {sl : Slot} {i : Instr} (h0 : i.slots.head? = some sl) (h : s.issues sl i 2 = true)
    (hmk : (marksAlways i || marksBefore (s.begun.ctx sl) i) = true) (hsw : semWaits [(plainIWord sl i, s.marked.ctx sl)] = [])
    (hd : downBefore (implicitMark s.cur s.tried).self i = (implicitMark s.cur s.tried).self)
    (hda : downAtomic (s.marked.ctx sl) (implicitMark s.cur s.tried).self i = (implicitMark s.cur s.tried).self)
    (hwl : walksBefore (s.marked.ctx sl) i (implicitMark s.cur s.tried) = implicitMark s.cur s.tried)
    (hp : slotProbe none (s.marked.ctx sl) i = .go) (hans : slotAnswer (s.marked.ctx sl) i = .go)
    (hadm : ∀ o, i ≠ .semadd o) (hfh : fenceHold s.cur [plainIWord sl i] (implicitMark s.cur s.tried) = none)
    (hba : barrierOf [plainIWord sl i] = none) :
    exec i s = .next (drain s.cur (plainIssue (implicitMark s.cur s.tried) s.marked sl i)) := by
  obtain ⟨-, -, -, -, -, hbad, -, -, hroom, htiles, hbusy, hgate⟩ := issues_parts h
  have hmark := marked_from s
  have hcur : (implicitMark s.cur s.tried).cur = s.cur := hmark.cur
  have key := tryIssue_plain (s := s.tried) (m := implicitMark s.cur s.tried) (b := s.marked) (sl := sl) (i := i)
    (by rw [hcur, show s.tried.landed s.cur = s.begun from rfl, if_pos hmk]) hcur.symm (by rw [hcur]; rfl) hmark.pc.symm
    (by
      rw [hcur]
      refine wakeBanks_none _ ?_
      rw [show s.tried.core s.cur = s.tried.self from rfl, ← begun_tileOn, ← begun_rrb]
      exact htiles)
    (implicitMark_touched (tried_touched s))
    (by rw [marked_bad]; exact hbad)
    (by
      rw [tried_landed, landScales_isBusy, ← tried_landed] at hbusy
      have hib : (implicitMark s.cur s.tried).self.isBusy = s.tried.self.isBusy :=
        funext fun r => by simp only [Core.isBusy, hmark.busy]
      rwa [marked_regs, marked_self, landScales_isBusy, hib])
    (by
      rw [marked_self, landScales_gated, hmark.gated]
      exact Nat.le_trans (Nat.add_le_add_right (Nat.zero_le _) _) hgate)
    hd hda hwl hp hans (fun o ho => absurd ho (hadm o))
    (by
      rintro ⟨-, hend⟩
      rw [hmark.pc, ← begun_pc] at hend
      omega)
    (by rw [hcur]; exact hfh) hba hsw
  rw [exec_slot h0, issueOne_fetched h (by omega)]
  rw [hcur] at key
  rw [key]

/-! The statements. -/

/-- What an MTCR puts into its bundle: the write that comes after it. -/
theorem mtcr_effect (b : State) (c : Nat) (o : SCtl) :
    slotEffect (.mtcr o) (b.ctx .s) { b.acc with s := meetReads c (spReads (b.ctx .s) (.mtcr o)) b }
      = { b.acc with mtcr := some (o.cr, b.self.regs.rd o.ra) } := by
  rw [show spReads (b.ctx .s) (.mtcr o) = [] from rfl, meetReads_nil]
  rfl

/-- The core that an MTCR leaves: its register written, its bundle retired. -/
theorem retire_mtcr_effect (b : State) (o : SCtl) (before : Core) (hh : b.self.regs.held = []) (hb : b.self.bad = []) :
    retire (plainHeader .s) [plainIWord .s (.mtcr o)] [plainIWord .s (.mtcr o)] before
        { b.acc with mtcr := some (o.cr, b.self.regs.rd o.ra) }
      = (writeCr b.now o.cr (b.self.regs.rd o.ra) b.self).retired b.now (b.self.pc + 2) 0 :=
  retire_mtcr .s (.mtcr o) before { b.acc with mtcr := some (o.cr, b.self.regs.rd o.ra) } rfl hh hb

/-- MFCR and MTCR, TBANK apart. -/
theorem controlRegisters : ControlRegistersClaim := by
  intro s o
  refine ⟨fun h hflags => ?_, fun h hcr => ?_⟩
  · have hno : (o.cr == 0x011 && s.begun.self.flagsPending) = false := by
      cases hc : o.cr == 0x011
      · rfl
      · exact hflags (eq_of_beq hc)
    have hgo : slotProbe none (s.begun.ctx .s) (.mfcr o) = .go :=
      show Probe.stallIf (o.cr == 0x011 && s.begun.self.flagsPending) false = .go by rw [hno]; rfl
    have hquiet : Quiet s .s (.mfcr o) :=
      ⟨rfl, fun _ => rfl, (fun _ hc => by cases hc), rfl, rfl, rfl, hgo, rfl⟩
    rw [exec_scalar rfl h hquiet (fun _ hc => by cases hc) rfl o.rd (controlValue s o.cr.toNat) 1
      (by rw [← cr_eq s .s]; rfl), begun_pc_self]
  · have hno : (o.cr == 0x040) = false := beq_false_of_ne hcr
    have hgo : slotProbe none (s.begun.ctx .s) (.mtcr o) = .go :=
      show Probe.stallIf (o.cr == 0x040 && bankBusy s.begun.self ((s.begun.self.regs.rd o.ra).truncate 16)) false = .go by
        rw [hno]; rfl
    have hquiet : Quiet s .s (.mtcr o) :=
      ⟨hno, fun _ => rfl, (fun _ hc => by cases hc), rfl, rfl, rfl, hgo, rfl⟩
    obtain ⟨-, -, -, -, hheld, hbad, -⟩ := issues_parts h
    rw [exec_plain rfl h (by omega) (fun _ => by omega) hquiet (fun _ hc => by cases hc), mtcr_effect]
    dsimp only
    rw [retire_mtcr_effect _ _ _ hheld hbad, writeCr_eq _ _ _ _ hcr, begun_pc_self]
    rfl

/-- The step of an MTCR of TBANK. -/
theorem exec_mtcr_tbank {s : State} {o : SCtl} (h : s.issues .s (.mtcr o) 2 = true) (hcr : o.cr = 0x040)
    (hbank : bankBusy s.marked.self ((s.marked.self.regs.rd o.ra).truncate 16) = false) :
    exec (.mtcr o) s = .next (s.leaves s.marked
      (writeTbank s.now ((s.marked.self.regs.rd o.ra).truncate 16) s.marked.self) (s.self.pc + 2) 0) := by
  obtain ⟨-, -, -, -, hheld, hbad, -⟩ := issues_parts h
  have hcr' : (o.cr == 0x040) = true := by rw [hcr]; rfl
  have hgo : slotProbe none (s.marked.ctx .s) (.mtcr o) = .go :=
    show Probe.stallIf (o.cr == 0x040 && bankBusy s.marked.self ((s.marked.self.regs.rd o.ra).truncate 16)) false = .go by
      rw [hbank, Bool.and_false]; rfl
  have hwrite : ∀ x k, writeCr s.now o.cr x k = writeTbank s.now (x.truncate 16) k := fun x k => by rw [hcr]; rfl
  rw [exec_marked rfl h (by rw [show marksAlways (.mtcr o) = (o.cr == 0x040) from rfl, hcr']; rfl) rfl rfl rfl rfl hgo rfl
    (fun _ hc => by cases hc) rfl rfl]
  unfold plainIssue
  dsimp only
  rw [mtcr_effect, retire_mtcr_effect _ _ _ (by rw [marked_regs]; exact hheld) (by rw [marked_bad]; exact hbad), marked_now,
    hwrite, marked_pc, show (implicitMark s.cur s.tried).cur = s.cur from (marked_from s).cur]
  rfl

/-- MTCR of TBANK. -/
theorem tileBankWrite : TileBankWriteClaim := by
  intro s o h hcr k v hbank
  refine ⟨writeTbank s.now v k, exec_mtcr_tbank h hcr hbank, fun hbad => ?_, fun hgood => ?_⟩
  · rw [writeTbank, tbankBad_eq, if_pos hbad]
  · have hw : writeTbank s.now v k = { (List.range 8).foldl (bankMove s.now v) k with tbank := v } := by
      rw [writeTbank, tbankBad_false hgood, if_neg (by simp)]
    refine ⟨by rw [hw], (writeTbank_keeps ..).1, fun t r ht hr => ?_, fun b hb hon hret => ?_⟩
    · have hrow := bankMoves_row s.now v (List.range 8) k (t := t) hr
      rw [hw, show Core.row { (List.range 8).foldl (bankMove s.now v) k with tbank := v } t r
        = ((List.range 8).foldl (bankMove s.now v) k).row t r from rfl, hrow]
      simp only [show t / 16 ∈ List.range 8 from List.mem_range.2 (by omega), true_and]
    · rw [hw]
      exact bankMoves_waking s.now v (List.range 8) k hon (List.mem_range.2 hb) hret

/-- Settles O14: an MFCR is its read, an MTCR its write after the bundle (`retire_mtcr`); an MTCR of TBANK issues on the state that
its implicit mark leaves (`exec_marked`), and moves its banks one by one (`bankMove_row`, `bankMove_waking`). -/
theorem controlRegisterInstructions : Obligations.ControlRegisterInstructions := ⟨controlRegisters, tileBankWrite⟩

end Sys2Proof.Machine
end

section
/-! PROOF. Scratchpad (R218, R221, R450): what the reads of a bundle do to lines in error, where the table of lines is in its
canonical form; what goes wrong where it is not. -/

namespace Sys2Proof

open Machine

/-! Lines in error. -/

/-- Lines written with zeros read zero, every other as before. -/
theorem read_zeroed {w : Nat} (zs : List Nat) {t : Store w} (h : t.wf = true) (l : Nat) :
    (zs.foldl (fun t l => t.write l 0) t).read l = if l ∈ zs then 0 else t.read l := by
  induction zs generalizing t with
  | nil => simp
  | cons z zs ih =>
    rw [List.foldl_cons, ih (Store.wf_write h z 0)]
    by_cases hz : l = z
    · subst hz
      rw [Store.read_write_same h, ite_self, if_pos List.mem_cons_self]
    · rw [Store.read_write_other hz]
      simp only [List.mem_cons, hz, false_or]

theorem badLines_eq_zero {k : Cluster} {ls : List Nat} : k.badLines ls = 0 ↔ ∀ l ∈ ls, l ∉ k.badSp := by
  simp [Cluster.badLines, mem_nubNat]

/-- The cluster once the errors of some lines have been met, where none of them is in error too. -/
theorem meetReads_cluster (c : Nat) (ls : List Nat) (s : State) :
    (meetReads c ls s).cluster (coreCluster c) = (s.cluster (coreCluster c)).meetSp ls := by
  unfold meetReads
  dsimp only
  split
  · next h =>
    have h0 := badLines_eq_zero.1 (eq_of_beq h)
    have hf : ls.filter (s.cluster (coreCluster c)).badSp.contains = [] := by
      rw [List.filter_eq_nil_iff]
      exact fun l hl => by simpa using h0 l hl
    have hk : ((s.cluster (coreCluster c)).badSp.filter fun l => !ls.contains l) = (s.cluster (coreCluster c)).badSp :=
      List.filter_eq_self.2 fun l hl => by simpa using fun hls => h0 l hls hl
    unfold Cluster.meetSp
    rw [hf, hk, List.foldl_nil, ite_self]
  · rw [State.setCluster_same]

theorem meetSp_full (k : Cluster) (ls : List Nat) : (k.meetSp ls).full = k.full := by
  unfold Cluster.meetSp; split <;> rfl

theorem mem_meetSp_badSp (k : Cluster) (ls : List Nat) (l : Nat) :
    l ∈ (k.meetSp ls).badSp ↔ l ∈ k.badSp ∧ l ∉ ls := by
  unfold Cluster.meetSp
  split
  · next h => rw [List.isEmpty_iff.1 h]; simp
  · simp

theorem meetSp_read {k : Cluster} (h : k.sp.wf = true) (ls : List Nat) (l : Nat) :
    (k.meetSp ls).sp.read l = if l ∈ ls ∧ l ∈ k.badSp then 0 else k.sp.read l := by
  unfold Cluster.meetSp
  split
  · next he => rw [List.isEmpty_iff.1 he]; simp
  · rw [read_zeroed _ h]
    simp only [List.mem_filter, List.contains_iff_mem]

/-- Every line reads as before: one in error did read zero. -/
theorem meetSp_spLine {k : Cluster} (h : k.sp.wf = true) (ls : List Nat) (l : Nat) :
    (k.meetSp ls).spLine l = k.spLine l := by
  simp only [Cluster.spLine, List.contains_iff_mem, mem_meetSp_badSp, meetSp_read h]
  by_cases hb : l ∈ k.badSp
  · by_cases hl : l ∈ ls <;> simp only [hb, hl, not_true, not_false_eq_true, and_false, and_true, and_self, if_true, if_false]
  · simp only [hb, false_and, and_false, if_false]

theorem nubNat_of_nodup {ls : List Nat} (h : ls.Nodup) : nubNat ls = ls := by
  induction ls with
  | nil => rfl
  | cons x xs ih =>
    obtain ⟨hx, hxs⟩ := List.nodup_cons.1 h
    rw [nubNat, ih hxs, List.filter_eq_self.2 fun y hy => by simpa using fun hxy : y = x => hx (hxy ▸ hy)]

/-- The launch's record counts the lines found in error. -/
theorem meetReads_zeroed (c : Nat) (ls : List Nat) (s : State) :
    ((meetReads c ls s).launch (s.core c).launch).zeroed
      = (s.launch (s.core c).launch).zeroed + (s.cluster (coreCluster c)).badLines ls := by
  unfold meetReads State.addZeroed
  dsimp only
  split
  · next h => rw [eq_of_beq h]; rfl
  · simp

/-- What the reads of a bundle do to lines in error, where the table of lines is in its canonical form. -/
theorem scratchpadErrors_of_wf (s : State) (c : Nat) (ls : List Nat) (hwf : (s.cluster (coreCluster c)).sp.wf = true) :
    let cl := coreCluster c
    let t := meetReads c ls s
    ((ls.all fun l => !(s.cluster cl).badSp.contains l) = true → t = s) ∧
    (∀ l, (t.cluster cl).spLine l = (s.cluster cl).spLine l) ∧
    (∀ l, l ∈ ls → l ∈ (s.cluster cl).badSp → (t.cluster cl).sp.read l = 0) ∧
    (∀ l, l ∈ (t.cluster cl).badSp ↔ l ∈ (s.cluster cl).badSp ∧ l ∉ ls) ∧
    (t.cluster cl).full = (s.cluster cl).full ∧
    (ls.Nodup → (t.launch (s.core c).launch).zeroed
      = (s.launch (s.core c).launch).zeroed + (ls.filter (s.cluster cl).badSp.contains).length) ∧
    t.cores = s.cores ∧ t.mem = s.mem ∧ t.mdies = s.mdies := by
  dsimp only
  rw [meetReads_cluster]
  refine ⟨fun hno => ?_, meetSp_spLine hwf ls, fun l hl hb => ?_, mem_meetSp_badSp _ ls, meetSp_full _ ls, fun hnd => ?_, ?_⟩
  · have h0 : (s.cluster (coreCluster c)).badLines ls = 0 := badLines_eq_zero.2 (by simpa using hno)
    unfold meetReads
    dsimp only
    rw [h0]
    rfl
  · rw [meetSp_read hwf, if_pos ⟨hl, hb⟩]
  · rw [meetReads_zeroed, Cluster.badLines, nubNat_of_nodup hnd]
  · unfold meetReads State.addZeroed
    dsimp only
    split <;> exact ⟨rfl, rfl, rfl⟩

/-! The accesses (R221). -/

/-- The address of an access, and whether it lies where it may, as its slot finds them. -/
theorem spReach_eq (b : State) (sl : Slot) (o : PFmt) (align size : Nat) :
    spReach b.self o align size = (spAddr o (b.ctx sl), spOk (spAddr o (b.ctx sl)) align size) := by
  have hmod : (spAddr o (b.ctx sl) % align == 0) = decide (spAddr o (b.ctx sl) % align = 0) := by
    rw [Bool.eq_iff_iff, beq_iff_eq, decide_eq_true_eq]
  rw [spOk, hmod]
  rfl

/-- A scratchpad access that is not aligned, or leaves its lane, traps. -/
theorem scratchpadMisalign : ScratchpadMisalignClaim := by
  intro s o i sl align size hmem h hno
  rw [spReach_eq s.begun sl] at hno ⊢
  have hno : spOk (spAddr o (s.begun.ctx sl)) align size = false := hno
  have htrap : Probe.trapIf (!spOk (spAddr o (s.begun.ctx sl)) align size) .misalign
      (BitVec.ofNat 64 (spAddr o (s.begun.ctx sl))) 0 = .trap .misalign (BitVec.ofNat 64 (spAddr o (s.begun.ctx sl))) 0 := by
    rw [hno]
    rfl
  have hfirst : ∀ ps, Probe.first (.trapIf (!spOk (spAddr o (s.begun.ctx sl)) align size) .misalign
      (BitVec.ofNat 64 (spAddr o (s.begun.ctx sl))) 0 :: ps) = .trap .misalign (BitVec.ofNat 64 (spAddr o (s.begun.ctx sl))) 0 :=
    fun ps => by rw [htrap]; rfl
  simp only [List.mem_cons, Prod.mk.injEq, List.not_mem_nil, or_false] at hmem
  rcases hmem with ⟨rfl, rfl, rfl, rfl⟩ | ⟨rfl, rfl, rfl, rfl⟩ | ⟨rfl, rfl, rfl, rfl⟩ | ⟨rfl, rfl, rfl, rfl⟩ | ⟨rfl, rfl, rfl, rfl⟩ |
    ⟨rfl, rfl, rfl, rfl⟩ | ⟨rfl, rfl, rfl, rfl⟩ | ⟨rfl, rfl, rfl, rfl⟩ | ⟨rfl, rfl, rfl, rfl⟩ <;>
    refine exec_trapped rfl h rfl (fun _ => rfl) (fun _ hc => by cases hc) rfl rfl (fun _ _ => rfl) ?_ (by decide) (by decide)
  iterate 7 exact hfirst _
  all_goals exact htrap

/-- The members of a run of numbers are numbered by themselves. -/
theorem numbered_range' (n m : Nat) : numbered n (List.range' n m) = (List.range' n m).map fun r => (r, r) := by
  induction m generalizing n with
  | zero => rfl
  | succ m ih => simp only [List.range'_succ, numbered, ih, List.map_cons]

theorem numbered_map {α β : Type} (f : α → β) (n : Nat) (l : List α) :
    numbered n (l.map f) = (numbered n l).map fun e => (e.1, f e.2) := by
  induction l generalizing n with
  | nil => rfl
  | cons x xs ih => simp only [List.map_cons, numbered, ih]

/-- The rows of a tile with their numbers. -/
theorem numbered_rows (k : Core) (t : Nat) : numbered 0 (k.rows t) = (List.range 32).map fun r => (r, k.row t r) := by
  rw [Core.rows, numbered_map, List.range_eq_range', numbered_range', List.map_map]
  rfl

/-- The step of an operation whose whole effect is to gate some effects. -/
theorem exec_gates {s : State} {sl : Slot} {i : Instr} (h0 : i.slots.head? = some sl) (h : s.issues sl i 2 = true)
    (hq : Quiet s sl i) (hns : ∀ o, i ≠ .semadd o) (hrd : spReads (s.begun.ctx sl) i = []) (es : List Effect)
    (ha : slotEffect i (s.begun.ctx sl) s.begun.acc = s.begun.acc.gate es) :
    exec i s = .next (s.leaves s.begun (gates s.begun.self es) (s.self.pc + 2) 0) := by
  rw [exec_core h0 h hq hns hrd (gates s.begun.self es) ha rfl rfl rfl, begun_pc_self]

/-- The scratchpad stores, SPCLR and SPFILL. -/
theorem scratchpadStores : ScratchpadStoresClaim := by
  intro s o
  have hgo : ∀ {align size n}, spOk (spAddr o (s.begun.ctx .t)) align size = true →
      s.begun.self.linesBusy (spAddr o (s.begun.ctx .t)) n = false →
      Probe.first [.trapIf (!spOk (spAddr o (s.begun.ctx .t)) align size) .misalign (BitVec.ofNat 64 (spAddr o (s.begun.ctx .t))),
        .stallIf (s.begun.self.linesBusy (spAddr o (s.begun.ctx .t)) n) false] = .go := by
    intro align size n hok hfree
    rw [hok, hfree]
    rfl
  have hfill : spOk (spAddr o (s.begun.ctx .t)) 128 (128 * fillCount o) = true → probeFill o (s.begun.ctx .t) = .go := by
    intro hok
    unfold probeFill
    dsimp only
    rw [hok]
    rfl
  simp only [spReach_eq s.begun .t]
  refine ⟨fun h hok hfree => ?_, fun h hok hfree => ?_, fun h hok hfree => ?_, fun h hok => ?_, fun h hok => ?_⟩
  · exact exec_gates rfl h ⟨rfl, fun _ => rfl, (fun _ hc => by cases hc), rfl, rfl, rfl, hgo hok hfree, rfl⟩
      (fun _ hc => by cases hc) rfl _ rfl
  · exact exec_gates rfl h ⟨rfl, fun _ => rfl, (fun _ hc => by cases hc), rfl, rfl, rfl, hgo hok hfree, rfl⟩
      (fun _ hc => by cases hc) rfl _ rfl
  · refine exec_gates rfl h ⟨rfl, fun _ => rfl, (fun _ hc => by cases hc), rfl, rfl, rfl, hgo hok hfree, rfl⟩
      (fun _ hc => by cases hc) rfl _ ?_
    rw [show slotEffect (.stst o) (s.begun.ctx .t) s.begun.acc = s.begun.acc.gate
      ((numbered 0 (s.begun.self.rows (physTile s.begun.self.regs.rrb (regHigh o.reg)))).map fun r =>
        .sp (spAddr o (s.begun.ctx .t) + 128 * r.1) (rowBytes r.2)) from rfl, numbered_rows, List.map_map]
    rfl
  · exact exec_gates rfl h ⟨rfl, fun _ => rfl, (fun _ hc => by cases hc), rfl, rfl, rfl, hfill hok, rfl⟩
      (fun _ hc => by cases hc) rfl _ rfl
  · exact exec_gates rfl h ⟨rfl, fun _ => rfl, (fun _ hc => by cases hc), rfl, rfl, rfl, hfill hok, rfl⟩
      (fun _ hc => by cases hc) rfl _ rfl

/-! The loads, where the table of lines is in its canonical form. -/

/-- Whether a read of some lines takes DATA_ERROR, as its slot finds it. -/
theorem answerSp_go {b : State} {sl : Slot} {i : Instr} (h : spError b (spReads (b.ctx sl) i) = false) :
    answerSp (b.ctx sl) i = .go := by
  have hstop : ((b.launch b.self.launch).strict
      && (b.cluster (coreCluster b.cur)).badLines (spReads (b.ctx sl) i) != 0) = false := by
    rw [spError] at h
    cases hs : (b.launch b.self.launch).strict
    · rfl
    · rw [hs, Bool.true_and, List.any_eq_false] at h
      have h0 : (b.cluster (coreCluster b.cur)).badLines (spReads (b.ctx sl) i) = 0 :=
        badLines_eq_zero.2 fun l hl hb => h l hl (List.contains_iff_mem.2 hb)
      rw [h0]
      rfl
  unfold answerSp
  dsimp only
  exact if_neg (by rw [show ((b.ctx sl).s.launch (b.ctx sl).k.launch).strict = (b.launch b.self.launch).strict from rfl,
    show (b.ctx sl).s.cluster (coreCluster (b.ctx sl).c) = b.cluster (coreCluster b.cur) from rfl, hstop]; simp)

/-- A load of lines that are ready and lie where they may waits for nothing. -/
theorem loadProbe_go {b : State} {sl : Slot} {w : W64} {ok : Bool} {a n : Nat} (hok : ok = true)
    (hready : linesReady b a n = true) :
    Probe.first [.trapIf (!ok) .misalign w, probeLines (b.ctx sl) a n] = .go := by
  simp only [linesReady, Bool.and_eq_true, Bool.not_eq_true'] at hready
  obtain ⟨⟨hbusy, hloads⟩, hfull⟩ := hready
  have hl : (b.self.loads.any fun l => l.cls == 0) = false := by
    rw [List.any_eq_false]
    exact fun l hl => by simpa using List.all_eq_true.1 hloads l hl
  have hlines : probeLines (b.ctx sl) a n = .go := by
    rw [probeLines, show (b.ctx sl).k = b.self from rfl, show (b.ctx sl).s = b from rfl, show (b.ctx sl).c = b.cur from rfl, hbusy,
      hl, hfull]
    rfl
  rw [hok, hlines]
  rfl

section
variable {s : State} (hwf : (s.cluster (coreCluster s.cur)).sp.wf = true)
include hwf

/-- A line that a slot reads, the errors of its bundle's reads met, is the line as the core sees it. -/
theorem acc_spView (sl : Slot) (ls : List Nat) (addr : Nat) :
    ({ s.begun.acc with s := meetReads s.cur ls s.begun } : Acc).spView (s.begun.ctx sl) addr = s.begun.spView s.cur addr := by
  have hline : ((meetReads s.cur ls s.begun).cluster (coreCluster s.cur)).spLine (lineKey (addr / 128 * 128))
      = (s.begun.cluster (coreCluster s.cur)).spLine (lineKey (addr / 128 * 128)) := by
    rw [meetReads_cluster]
    exact meetSp_spLine (k := s.begun.cluster (coreCluster s.cur)) hwf ls _
  exact congrArg (s.begun.self.overLine (addr / 128 * 128)) hline

theorem acc_spRows (sl : Slot) (ls : List Nat) (addr n : Nat) :
    ({ s.begun.acc with s := meetReads s.cur ls s.begun } : Acc).spRows (s.begun.ctx sl) addr n
      = s.begun.spRows s.cur addr n :=
  List.map_congr_left fun _ _ => acc_spView hwf sl ls _

theorem acc_spBytes (sl : Slot) (ls : List Nat) (addr n : Nat) :
    ({ s.begun.acc with s := meetReads s.cur ls s.begun } : Acc).spBytes (s.begun.ctx sl) addr n
      = s.begun.spBytes s.cur addr n :=
  List.map_congr_left fun _ _ => by rw [acc_spView hwf]

end

/-- The step of a scratchpad read that is given by what it makes of its core. -/
theorem exec_spRead {s : State} {sl : Slot} {i : Instr} (h0 : i.slots.head? = some sl) (h : s.issues sl i 2 = true)
    (hq : Quiet s sl i) (hns : ∀ o, i ≠ .semadd o) (k : Core)
    (ha : slotEffect i (s.begun.ctx sl) { s.begun.acc with s := meetReads s.cur (spReads (s.begun.ctx sl) i) s.begun }
      = { s.begun.acc with s := meetReads s.cur (spReads (s.begun.ctx sl) i) s.begun, k })
    (hh : k.regs.held = s.begun.self.regs.held) (hs : k.regs.seed = s.begun.self.regs.seed) (hb : k.bad = s.begun.self.bad) :
    exec i s = .next (s.leaves (meetReads s.cur (spReads (s.begun.ctx sl) i) s.begun) k (s.self.pc + 2) 0) := by
  obtain ⟨-, -, -, -, hheld, hbad, -⟩ := issues_parts h
  have hk : ({ k with regs := { k.regs with seed := s.begun.self.regs.seed } } : Core) = k := by
    rw [seed_same _ _ hs.symm]
  rw [exec_effect h0 h (by omega) (fun _ => by omega) hq hns ha rfl rfl (hh.trans hheld) (hb.trans hbad) (meetReads_now ..)]
  dsimp only [State.acc]
  rw [hk, begun_pc_self]

/-- A row or a tile read from scratchpad is on its way for its latency. -/
theorem spLoad_eq (b : State) (sl : Slot) (ls : List Nat) (d : Dest) (p own other : Nat) (v : List Row) (ho : 1 < own) (ho' : 1 < other) :
    spLoad d p own other v (b.ctx sl) { b.acc with s := meetReads b.cur ls b }
      = { b.acc with s := meetReads b.cur ls b
                     k := b.self.awaits .load d v 0 (b.now + if p / 2 ^ 21 = b.cur % 8 then own else other) } := by
  have hlat : spLatency b.cur p own other = if p / 2 ^ 21 = b.cur % 8 then own else other := by
    simp only [spLatency, coreLane, beq_iff_eq]
  have h1 : ¬ (if p / 2 ^ 21 = b.cur % 8 then own else other) ≤ 1 := by split <;> omega
  rw [spLoad, show (b.ctx sl).c = b.cur from rfl, hlat, Acc.put, if_neg h1, meetReads_now]
  rfl

/-- The scratchpad loads, where the table of lines is in its canonical form. -/
theorem scratchpadLoads_of_wf (s : State) (o : PFmt) (hwf : (s.cluster (coreCluster s.cur)).sp.wf = true) :
    let k := s.begun.self
    let wait := fun (a own other : Nat) => s.now + if a / 2 ^ 21 = s.cur % 8 then own else other
    (let (a, ok) := spReach k o 8 8
     s.issues .l (.lds o) 2 = true → ok = true → linesReady s.begun (a / 128 * 128) 1 = true →
      spError s.begun (linesOf a 8) = false →
      exec (.lds o) s = .next (s.leaves (meetReads s.cur (linesOf a 8) s.begun) (k.awaits .load (k.scalarDest (regLow o.reg))
        [rowOfBytes (s.begun.spBytes s.cur a 8)] 0 (wait a 4 12)) (s.self.pc + 2) 0)) ∧
    (let (a, ok) := spReach k o 128 128
     s.issues .l (.ldsr o) 2 = true → ok = true → linesReady s.begun a 1 = true →
      spError s.begun (linesOf a 128) = false →
      exec (.ldsr o) s = .next (s.leaves (meetReads s.cur (linesOf a 128) s.begun) (k.awaits .load (k.rowDest (regHigh o.reg) (regLow o.reg))
        [s.begun.spView s.cur a] 0 (wait a 4 12)) (s.self.pc + 2) 0)) ∧
    (let (a, ok) := spReach k o 128 4096
     s.issues .l (.ldst o) 2 = true → ok = true → linesReady s.begun a 32 = true →
      spError s.begun (linesOf a 4096) = false →
      exec (.ldst o) s = .next (s.leaves (meetReads s.cur (linesOf a 4096) s.begun) (k.awaits .load (.tile (physTile k.regs.rrb (regHigh o.reg)))
        (s.begun.spRows s.cur a 32) 0 (wait a 35 43)) (s.self.pc + 2) 0)) ∧
    (let (a, ok) := spReach k o 128 4096
     s.issues .l (.ldsc o) 2 = true → ok = true → linesReady s.begun a 32 = true →
      spError s.begun (linesOf a 4096) = false →
      let v : Scale := BitVec.ofNat 2048 (pack 64 ((s.begun.spRows s.cur a 32).map fun r => r.toNat % 2 ^ 64))
      exec (.ldsc o) s = .next (s.leaves (meetReads s.cur (linesOf a 4096) s.begun)
        { k with regs := { k.regs with kpend := k.regs.kpend ++ [⟨o.reg.toNat % 16, v, 6, k.seq⟩] } } (s.self.pc + 2) 0)) := by
  have hline : ∀ {n}, spOk (spAddr o (s.begun.ctx .l)) 128 n = true →
      spAddr o (s.begun.ctx .l) / 128 * 128 = spAddr o (s.begun.ctx .l) := by
    intro n hok
    simp only [spOk, Bool.and_eq_true, beq_iff_eq] at hok
    omega
  simp only [spReach_eq s.begun .l]
  refine ⟨fun h hok hready herr => ?_, fun h hok hready herr => ?_, fun h hok hready herr => ?_, fun h hok hready herr => ?_⟩
  · refine exec_spRead rfl h ⟨rfl, fun _ => rfl, (fun _ hc => by cases hc), rfl, rfl, rfl, loadProbe_go hok hready, answerSp_go herr⟩
      (fun _ hc => by cases hc) _ ?_ rfl rfl rfl
    refine Eq.trans ?_ (spLoad_eq s.begun .l _ _ _ 4 12 _ (by omega) (by omega))
    rw [← acc_spBytes hwf .l (spReads (s.begun.ctx .l) (.lds o))]
    rfl
  · have hprobe : probeSpLoad o 128 128 (s.begun.ctx .l) = .go :=
      loadProbe_go hok (by rw [hline hok]; exact hready)
    refine exec_spRead rfl h ⟨rfl, fun _ => rfl, (fun _ hc => by cases hc), rfl, rfl, rfl, hprobe, answerSp_go herr⟩
      (fun _ hc => by cases hc) _ ?_ rfl rfl rfl
    refine Eq.trans ?_ (spLoad_eq s.begun .l _ _ _ 4 12 _ (by omega) (by omega))
    rw [← acc_spView hwf .l (spReads (s.begun.ctx .l) (.ldsr o))]
    rfl
  · have hprobe : probeSpLoad o 128 4096 (s.begun.ctx .l) = .go :=
      loadProbe_go hok (by rw [hline hok]; exact hready)
    refine exec_spRead rfl h ⟨rfl, fun _ => rfl, (fun _ hc => by cases hc), rfl, rfl, rfl, hprobe, answerSp_go herr⟩
      (fun _ hc => by cases hc) _ ?_ rfl rfl rfl
    refine Eq.trans ?_ (spLoad_eq s.begun .l _ _ _ 35 43 _ (by omega) (by omega))
    rw [← acc_spRows hwf .l (spReads (s.begun.ctx .l) (.ldst o))]
    rfl
  · refine exec_spRead rfl h ⟨rfl, fun _ => rfl, (fun _ hc => by cases hc), rfl, rfl, rfl, loadProbe_go hok hready, answerSp_go herr⟩
      (fun _ hc => by cases hc) _ ?_ rfl rfl rfl
    rw [← acc_spRows hwf .l (spReads (s.begun.ctx .l) (.ldsc o))]
    rfl

/-! The refutation. -/

/-- A cluster whose table of scratchpad lines is out of order, with line 3 in error. Writes keep the order (`Store.wf_write`), but the
statement ranges over every state. -/
def unordered : State := State.reset.setCluster 0 { sp := [(5, 1), (3, 1)], badSp := [3] }

/-- The zero that is to replace line 3 is written before line 5, where it changes nothing: line 3 keeps its 1. -/
theorem unordered_line : ((meetReads 0 [3] unordered).cluster (coreCluster 0)).sp.read 3 ≠ 0 := by decide +kernel

theorem not_scratchpadErrors : ¬ ScratchpadErrorsClaim := by
  intro h
  obtain ⟨-, -, hzero, -⟩ := h unordered 0 [3]
  exact unordered_line (hzero 3 (by decide) (by decide))

/-- Refutes O24: its clause that a line in error reads zero once a bundle has read it, which ranges over every state, fails where the
table of lines is out of its canonical order (`unordered`); in canonical order the clause holds (`scratchpadErrors_of_wf`). -/
theorem not_scratchpadAccesses : ¬ Obligations.ScratchpadAccesses := fun ⟨_, herr, _⟩ => not_scratchpadErrors herr

end Sys2Proof
end

section
/-! PROOF. Physical memory stays in its canonical form (O7), the cores: what the issue of a bundle, its traps and the steps at which a
core's results land make of memory. The rules for the records of the state come first; an operation's proof then has the shape of
its definition. -/

namespace Sys2Proof.Machine

/-- A fold of steps that keep memory's canonical form keeps it. -/
theorem wf_foldl {α : Type} {f : State → α → State} (hf : ∀ t a, Memory.wf t = true → Memory.wf (f t a) = true) (l : List α)
    {s : State} (h : Memory.wf s = true) : Memory.wf (l.foldl f s) = true :=
  foldl_keeps (p := fun t => Memory.wf t = true) f hf l h

/-- The same of a fold that carries more than the state. -/
theorem wf_foldl_of {α β : Type} (g : β → State) {f : β → α → β}
    (hf : ∀ b a, Memory.wf (g b) = true → Memory.wf (g (f b a)) = true) (l : List α) {b : β} (h : Memory.wf (g b) = true) :
    Memory.wf (g (l.foldl f b)) = true :=
  foldl_keeps (p := fun b => Memory.wf (g b) = true) f hf l h

/-- The state within a result that has been looked at. -/
theorem wf_at {α : Type} (g : α → State) {a b : α} (e : a = b) (h : Memory.wf (g a) = true) : Memory.wf (g b) = true := e ▸ h

theorem wf_ite {c : Prop} {_ : Decidable c} {s t : State} (hs : Memory.wf s = true) (ht : Memory.wf t = true) :
    Memory.wf (if c then s else t) = true :=
  ite_keeps (p := fun t => Memory.wf t = true) c hs ht

/-- A choice of two results that carry more than the state. -/
theorem wf_ite_of {α : Type} (g : α → State) {c : Prop} {_ : Decidable c} {a b : α} (ha : Memory.wf (g a) = true)
    (hb : Memory.wf (g b) = true) : Memory.wf (g (if c then a else b)) = true :=
  ite_keeps (p := fun a => Memory.wf (g a) = true) c ha hb

section
variable {s : State} (h : Memory.wf s = true)
include h

/-! A record of the state replaced. -/

theorem wf_setCore (c : Nat) (k : Core) : Memory.wf (s.setCore c k) = true := h
theorem wf_setCluster (n : Nat) (k : Cluster) : Memory.wf (s.setCluster n k) = true := h
theorem wf_setDie (f : Nat) (k : Die) : Memory.wf (s.setDie f k) = true := h
theorem wf_setMdie (f : Nat) (k : MemDie) : Memory.wf (s.setMdie f k) = true := h
theorem wf_setPkg (p : Nat) (k : Pkg) : Memory.wf (s.setPkg p k) = true := h
theorem wf_setQueue (q : Nat) (k : Queue) : Memory.wf (s.setQueue q k) = true := h
theorem wf_setLaunch (l : Nat) (k : Launch) : Memory.wf (s.setLaunch l k) = true := h
theorem wf_setEngq (t : Nat) (q : EngQueue) : Memory.wf (s.setEngq t q) = true := h
theorem wf_notify (p : Nat) (n : Note) : Memory.wf (s.notify p n) = true := h
theorem wf_addSem (cl n v : Nat) : Memory.wf (s.addSem cl n v) = true := h
theorem wf_fresh : Memory.wf s.fresh.2 = true := h
theorem wf_queueWalk (f space root : Nat) (va : W64) (who : WalkFor) :
    Memory.wf (s.queueWalk f space root va who) = true := h
theorem wf_fillLines (cl l n : Nat) : Memory.wf (s.fillLines cl l n) = true := h
theorem wf_landLines (cl : Nat) (l : Nat × Nat × List Byte) : Memory.wf (s.landLines cl l) = true := h
theorem wf_releaseSlots (c n : Nat) : Memory.wf (releaseSlots c n s) = true := h

/-! Semaphores, reads and pushes. -/

theorem wf_addZeroed (l n : Nat) : Memory.wf (s.addZeroed l n) = true := wf_of_mem (addZeroed_mem s l n) h
theorem wf_countRead (src : Src) (o n : Nat) : Memory.wf (s.countRead src o n) = true := wf_of_mem (countRead_mem s src o n) h
theorem wf_testWaits (cl n : Nat) : Memory.wf (s.testWaits cl n) = true := wf_of_mem (testWaits_mem cl n s) h
theorem wf_incSem (cl n v : Nat) : Memory.wf (s.incSem cl n v) = true := wf_of_mem (incSem_mem s cl n v) h
theorem wf_moveSem (cl n v : Nat) : Memory.wf (s.moveSem cl n v) = true := wf_of_mem (moveSem_mem s cl n v) h
theorem wf_countSemovf (c : Nat) : Memory.wf (s.countSemovf c) = true := h

theorem wf_findL1 (src : Src) (ls : List Nat) (k : Core) : Memory.wf (findL1 src ls s k).1 = true := wf_addZeroed h _ _

theorem wf_retest (c : Nat) (ds : List (Nat × Nat × Nat)) : Memory.wf (retest c ds s) = true :=
  wf_foldl (fun _ _ ht => wf_testWaits ht _ _) _ h

theorem wf_unpass (c : Nat) (d : Nat × Nat × Nat) : Memory.wf (s.unpass c d) = true :=
  wf_ite (wf_setCluster (wf_addSem h _ _ _) _ _) (wf_addSem h _ _ _)

theorem wf_takeBack (c : Nat) : Memory.wf (s.takeBack c) = true := by
  unfold State.takeBack
  split
  · exact h
  · exact wf_setCore (wf_foldl (fun _ _ ht => wf_unpass ht _ _) _ h) _ _

theorem wf_cancelPush (p : Push) : Memory.wf (s.cancelPush p) = true :=
  wf_ite (wf_setCore (wf_setEngq h _ _) _ _) (wf_setEngq h _ _)

theorem wf_dropGated (c : Nat) (g : Gate) : Memory.wf (dropGated c s g) = true := by
  unfold dropGated
  split
  case h_3 => exact wf_cancelPush h _
  all_goals exact h

theorem wf_queueWalks (c : Nat) : Memory.wf (queueWalks c s) = true :=
  wf_foldl (fun _ _ ht => wf_ite (wf_queueWalk ht _ _ _ _ _) ht) _ h

theorem wf_meetReads (c : Nat) (ls : List Nat) : Memory.wf (meetReads c ls s) = true :=
  wf_ite h (wf_setCluster (wf_addZeroed h _ _) _ _)

theorem wf_forgetWalk (c va : Nat) : Memory.wf (forgetWalk c va s) = true := wf_ite h (wf_setCluster h _ _)

theorem wf_smpWalks (o : QFmt) (x : Ctx) : Memory.wf (smpWalks o x s) = true :=
  wf_foldl (fun _ _ ht => wf_queueWalk ht _ _ _ _ _) _ h

/-! Traps. -/

theorem wf_rollback (c : Nat) : Memory.wf (rollback c s) = true := by
  unfold rollback
  exact wf_queueWalks (wf_setCore (wf_foldl (fun _ _ ht => wf_testWaits ht _ _) _ (wf_foldl (fun _ _ ht => wf_addSem ht _ _ _) _
    (wf_foldl (fun _ _ ht => wf_dropGated ht _ _) _ (wf_setCore (wf_settleLoads _ _ h) _ _)))) _ _) _

theorem wf_takeTrap (c slot : Nat) (t : Trap) (w1 w2 : W64) : Memory.wf (takeTrap c slot t w1 w2 s) = true :=
  have hback : ∀ k l x, Memory.wf (((if t.pageClass then rollback c s else s).setCore c k).setLaunch l x) = true :=
    fun _ _ _ => wf_setLaunch (wf_setCore (wf_ite (wf_rollback h c) h) _ _) _ _
  wf_ite (wf_notify (hback _ _ _) _ _) (hback _ _ _)

theorem wf_implicitMark (c : Nat) : Memory.wf (implicitMark c s) = true := wf_ite h (wf_takeMark c _ h)

theorem wf_stayWaiting (c : Nat) (ws : List (Nat × Nat × Bool)) : Memory.wf (stayWaiting c ws s) = true :=
  wf_setCore (wf_implicitMark h c) _ _

theorem wf_takeSatTrap (c : Nat) : Memory.wf (takeSatTrap c s) = true := by
  unfold takeSatTrap
  dsimp only
  split
  · exact h
  · exact wf_setCore (wf_takeTrap (wf_setCore h _ _) _ _ _ _ _) _ _

theorem wf_takeProbe (c slot : Nat) (p : Probe) : Memory.wf (takeProbe c slot p s) = true := by
  unfold takeProbe
  split
  · refine wf_takeTrap ?_ _ _ _ _ _
    split <;> exact h
  · exact wf_takeTrap (wf_forgetWalk h _ _) _ _ _ _ _
  · exact wf_takeTrap (wf_countSemovf (wf_moveSem h _ _ _) _) _ _ _ _ _
  · exact wf_takeTrap (wf_setMdie h _ _) _ _ _ _ _
  · exact wf_takeTrap (wf_meetReads (wf_foldl (fun _ _ ht => wf_readLine _ _ _ ht) _
      (wf_foldl (fun _ _ ht => wf_setCore (wf_findL1 ht _ _ _) _ _) _ h)) _ _) _ _ _ _ _
  · exact h

end

end Sys2Proof.Machine
end

section
/-! PROOF. Memory's canonical form (O7): the effects of slots, all but a few of which leave the rest of the state as it is. -/

namespace Sys2Proof.Machine

section
variable (a : Acc) (x : Ctx)

@[simp] theorem put_s (kind : LandKind) (d : Dest) (v : List Row) (fl : BitVec 5) (lat : Nat) : (a.put kind d v fl lat).s = a.s := by
  unfold Acc.put
  split <;> rfl

@[simp] theorem putX_s (rd : BitVec 5) (v : W64) (lat : Nat) : (a.putX x rd v lat).s = a.s := put_s ..
@[simp] theorem putXF_s (rd : BitVec 5) (v : W64) (fl : BitVec 5) (lat : Nat) : (a.putXF x rd v fl lat).s = a.s := put_s ..
@[simp] theorem putRow_s (t : BitVec 8) (r : BitVec 5) (v lat : Nat) : (a.putRow x t r v lat).s = a.s := put_s ..
@[simp] theorem putRowF_s (t : BitVec 8) (r : BitVec 5) (v : Nat) (fl : BitVec 5) (lat : Nat) :
    (a.putRowF x t r v fl lat).s = a.s := put_s ..

@[simp] theorem arithRow_s (op : ElemOp) (ty : BitVec 5) (rm : BitVec 3) (sat : BitVec 1) (td : BitVec 8) (rowd : BitVec 5) (lat : Nat)
    (ea eb ed : Nat → Nat) : (arithRow op ty rm sat td rowd lat ea eb ed x a).s = a.s := by
  unfold arithRow
  split <;> simp

@[simp] theorem transRow_s (g : XVal → XVal × BitVec 5) (o : VThree) : (transRow g o x a).s = a.s := by
  unfold transRow
  split <;> simp

@[simp] theorem reduceF_s (o : VThree) (f : FloatFmt) (leaf : Nat → Rnd → XVal × Rnd) (op : XVal → XVal → Rnd → XVal × Rnd)
    (last : Bool) : (reduceF o f leaf op last x a).s = a.s := by
  unfold reduceF
  dsimp only
  repeat' split
  all_goals simp

@[simp] theorem reduceI_s (o : VThree) (sg : Bool) (w : Nat) (leaf : Nat → Int) (op : Int → Int → Int) :
    (reduceI o sg w leaf op x a).s = a.s := by
  unfold reduceI
  split <;> simp

@[simp] theorem backEdge_s (t : BitVec 13) : (backEdge t x a).s = a.s := rfl

@[simp] theorem floatResult_s (o : SFloat) (lat : Nat) (v : XVal × BitVec 5) : (floatResult o lat v x a).s = a.s := put_s ..

theorem effFcvt_s (o : SFloat) : (effFcvt o x a).s = a.s := by
  unfold effFcvt
  split <;> simp

theorem effLoopb_s (o : SBranch) : (effLoopb o x a).s = a.s := by
  unfold effLoopb
  dsimp only
  split <;> rfl

theorem effVcmp_s (o : VThree) : (effVcmp o x a).s = a.s := by
  unfold effVcmp
  dsimp only
  split <;> simp

theorem effVcvt_s (o : VConv) : (effVcvt o x a).s = a.s := by
  unfold effVcvt
  dsimp only
  split
  · simp
  · split <;> simp

theorem effVscale_s (o : VScalar) : (effVscale o x a).s = a.s := by
  unfold effVscale
  split <;> simp

theorem effVmulh_s (o : VThree) : (effVmulh o x a).s = a.s := by
  unfold effVmulh
  split <;> simp

theorem effVrsum_s (o : VThree) : (effVrsum o x a).s = a.s := by
  unfold effVrsum
  dsimp only
  split <;> simp

theorem effVdot_s (o : VThree) : (effVdot o x a).s = a.s := by
  unfold effVdot
  dsimp only
  split <;> simp

theorem effVrmax_s (o : VThree) : (effVrmax o x a).s = a.s := by
  unfold effVrmax
  dsimp only
  split <;> simp

theorem effVrmin_s (o : VThree) : (effVrmin o x a).s = a.s := by
  unfold effVrmin
  dsimp only
  split <;> simp

theorem effPmov_s (o : VPort) : (effPmov o x a).s = a.s := by
  unfold effPmov
  dsimp only
  split
  · rfl
  · split <;> rfl

theorem effPtake_s (o : VPort) : (effPtake o x a).s = a.s := by
  unfold effPtake
  dsimp only
  split <;> simp

theorem effEpop_s (o : XPop) : (effEpop o x a).s = a.s := by
  unfold effEpop
  dsimp only
  split <;> simp

/-- The operand cache draws at most a free value. -/
theorem fetchTile_mem (n : Nat) : (fetchTile x n a).2.s.mem = a.s.mem := by
  unfold fetchTile
  dsimp only
  split <;> rfl

theorem macIssue_mem (o : MMac) (old : List Row) : (macIssue o old x a).s.mem = a.s.mem := by
  unfold macIssue
  dsimp only
  rw [fetchTile_mem, fetchTile_mem]

theorem dropWalk_mem (c n : Nat) : (dropWalk c n a).s.mem = a.s.mem := by
  unfold dropWalk
  dsimp only
  split <;> rfl

end

theorem wf_sampLines (l cl : Nat) (ps : List (Src × Nat)) {s : State} (h : Memory.wf s = true) :
    Memory.wf (sampLines l cl ps s).2 = true := by
  have hone : ∀ (p : Src × Nat) (t : State), Memory.wf t = true → Memory.wf (sampLine l p.1 p.2 cl t).2 = true := by
    intro p t ht
    unfold sampLine
    dsimp only
    split
    · split
      · exact ht
      · exact wf_setCluster (wf_readLine _ _ _ (wf_fresh ht)) _ _
    · exact wf_setCluster (wf_readLine _ _ _ ht) _ _
  induction ps generalizing s with
  | nil => exact h
  | cons p ps ih =>
    unfold sampLines
    dsimp only
    split
    · exact ih h
    · exact hone p _ (ih h)

theorem wf_iteAcc {c : Prop} {_ : Decidable c} {a b : Acc} (ha : Memory.wf a.s = true) (hb : Memory.wf b.s = true) :
    Memory.wf (if c then a else b).s = true :=
  ite_keeps (p := fun a : Acc => Memory.wf a.s = true) c ha hb

section
variable {a : Acc} (h : Memory.wf a.s = true) (x : Ctx)
include h

theorem wf_accSettleLoads (pick : LoadPend → Bool) : Memory.wf (a.settleLoads pick).s = true := wf_settleLoads pick a.k h

theorem wf_takeLine (o : XP2p) : Memory.wf (takeLine o x a).s = true := wf_setCluster (wf_accSettleLoads h _) _ _

theorem wf_acquireLoad (d : Dest) (o : GFmt) (size : Nat) : Memory.wf (acquireLoad d o size x a).s = true :=
  wf_readLines _ _ _ _ _ (wf_fresh (wf_findL1 h _ _ _))

theorem wf_atomicWith (raises : Bool) (o : AFmt) (f : Nat → Nat × BitVec 5) : Memory.wf (atomicWith raises o f x a).s = true := by
  unfold atomicWith
  dsimp only
  rw [put_s]
  refine wf_setSeep _ _ _ _ (wf_deliverTo _ _ (wf_foundBy _ _ _ _ ?_))
  split
  · exact wf_foldl (fun _ _ ht => wf_landLines ht _ _) _ (wf_accSettleLoads h _)
  · exact wf_accSettleLoads h _

theorem wf_effXlat (o : SReg) : Memory.wf (effXlat o x a).s = true := by
  have hd : Memory.wf (dropWalk x.c o.rd.toNat a).s = true := wf_of_mem (dropWalk_mem ..) h
  unfold effXlat
  dsimp only
  split
  · exact hd
  · split
    · rw [put_s]
      exact hd
    · exact wf_queueWalk hd _ _ _ _ _

theorem wf_effRecv (o : XP2p) : Memory.wf (effRecv o x a).s = true := by
  unfold effRecv
  rw [putRow_s]
  exact wf_takeLine h x o

theorem wf_effRecvadd (o : XP2p) : Memory.wf (effRecvadd o x a).s = true := by
  have ht := wf_takeLine h x o
  unfold effRecvadd
  dsimp only
  split <;> simpa using ht

theorem wf_effRpush (o : MRing) : Memory.wf (effRpush o x a).s = true := by
  unfold effRpush
  dsimp only
  split
  · exact h
  · exact wf_setCore h _ _

theorem wf_effRpop (o : MRing) : Memory.wf (effRpop o x a).s = true := by
  unfold effRpop
  dsimp only
  split
  · exact h
  · exact wf_releaseSlots (wf_setCore h _ _) _ _

theorem wf_effLdsmp (o : QFmt) : Memory.wf (effLdsmp o x a).s = true := by
  unfold effLdsmp
  dsimp only
  rw [put_s]
  exact wf_ite (wf_sampLines _ _ _ h) (wf_setCluster (wf_sampLines _ _ _ h) _ _)

end

/-- What a slot does to the rest of the state keeps memory's canonical form: most slots do nothing to it; those that read or write
memory go through `foundBy`, `readLine` and `deliverTo`. -/
theorem wf_slotEffect (i : Instr) (x : Ctx) {a : Acc} (h : Memory.wf a.s = true) : Memory.wf (slotEffect i x a).s = true := by
  have hpure : ∀ b : Acc, b.s = a.s → Memory.wf b.s = true := fun b e => wf_of_mem (congrArg State.mem e) h
  cases i
  case mma o => exact wf_of_mem (macIssue_mem a x o _) h
  case mmaz o => exact wf_of_mem (macIssue_mem a x o _) h
  case rpush o => exact wf_effRpush h x o
  case rpop o => exact wf_effRpop h x o
  case xlat o => exact wf_effXlat h x o
  case hrel o => exact wf_of_mem (dropWalk_mem a x.c _) h
  case ldgAcq o => exact wf_acquireLoad h x _ o _
  case ldgrAcq o => exact wf_acquireLoad h x _ o _
  case aadd o | amin o | amax o | aand o | aor o | axor o | axchg o | acas o | afadd o =>
    dsimp only [slotEffect, effAadd, effAmin, effAmax, effAand, effAor, effAxor, effAxchg, effAcas, effAfadd, atomic]
    exact wf_atomicWith h x _ _ _
  case ldsmp o => exact wf_effLdsmp h x o
  case recv o => exact wf_effRecv h x o
  case recvadd o => exact wf_effRecvadd h x o
  case fcvt o => exact hpure _ (effFcvt_s a x o)
  case loopb o => exact hpure _ (effLoopb_s a x o)
  case vcmp o => exact hpure _ (effVcmp_s a x o)
  case vcvt o => exact hpure _ (effVcvt_s a x o)
  case vscale o => exact hpure _ (effVscale_s a x o)
  case vmulh o => exact hpure _ (effVmulh_s a x o)
  case vrsum o => exact hpure _ (effVrsum_s a x o)
  case vdot o => exact hpure _ (effVdot_s a x o)
  case vrmax o => exact hpure _ (effVrmax_s a x o)
  case vrmin o => exact hpure _ (effVrmin_s a x o)
  case pmov o => exact hpure _ (effPmov_s a x o)
  case ptake o => exact hpure _ (effPtake_s a x o)
  case epop o => exact hpure _ (effEpop_s a x o)
  case fenceC o => exact wf_iteAcc h h
  case fenceSc o => exact wf_iteAcc h h
  case semwait o => exact wf_iteAcc h h
  case vadd o | vsub o | vmul o | vfma o | vadds o | vsubs o | vmuls o | vfmas o =>
    dsimp only [slotEffect, effVadd, effVsub, effVmul, effVfma, effVadds, effVsubs, effVmuls, effVfmas, arith3, arithS]
    exact hpure _ (arithRow_s ..)
  case vexp2 o | vlog2 o | vrcp o | vrsq o | vtanh o =>
    dsimp only [slotEffect, effVexp2, effVlog2, effVrcp, effVrsq, effVtanh]
    exact hpure _ (transRow_s ..)
  case lds o | ldsr o | ldst o =>
    dsimp only [slotEffect, effLds, effLdsr, effLdst, spLoad]
    exact hpure _ (put_s ..)
  all_goals exact h

end Sys2Proof.Machine
end

section
/-! PROOF. Memory's canonical form (O7): the issue of a bundle. -/

namespace Sys2Proof.Machine

theorem headerPass_mem (c : Nat) (ws : List (Nat × Nat × Bool)) (a : Acc) : (headerPass c ws a).s.mem = a.s.mem :=
  foldl_keeps (p := fun b : Acc => b.s.mem = a.s.mem) _ (fun b w hb => by
    dsimp only
    split <;> exact hb) _ rfl

theorem satSignal_s (h : Header) (pc : BitVec 13) (a : Acc) : (satSignal h pc a).s = a.s := by
  unfold satSignal
  split <;> rfl

theorem wf_headerSignal (c : Nat) (hd : Header) {a : Acc} (h : Memory.wf a.s = true) : Memory.wf (headerSignal c hd a).s = true :=
  wf_iteAcc h h

section
variable {s : State} (h : Memory.wf s = true)
include h

theorem wf_wakeBanks {c : Nat} {ws : List IWord} {t : State} (e : wakeBanks c ws s = some t) : Memory.wf t = true := by
  unfold wakeBanks at e
  dsimp only at e
  split at e
  · cases e
  · cases e
    exact wf_setCore (wf_implicitMark h c) _ _

theorem wf_fenceHold {c : Nat} {en : List IWord} {t : State} (e : fenceHold c en s = some t) : Memory.wf t = true := by
  unfold fenceHold at e
  split at e
  · cases e
  · dsimp only at e
    split at e
    · cases e
      exact wf_ite (wf_setCluster (wf_setCore h _ _) _ _) (wf_setCore h _ _)
    · split at e
      · cases e
        exact h
      · cases e

theorem wf_endCore (c : Nat) : Memory.wf (endCore c s) = true := wf_setCore (wf_commit c h) _ _

theorem wf_landed (c : Nat) : Memory.wf (s.landed c) = true := h

theorem wf_issueNow (c : Nat) (hd : Header) (ws en : List IWord) (next : BitVec 13) (hw : List (Nat × Nat × Bool)) :
    Memory.wf (issueNow c hd ws en next hw s) = true := by
  have hmark : Memory.wf (if hd.mark == 1 then implicitMark c s else s) = true := wf_ite (wf_implicitMark h c) h
  unfold issueNow
  generalize (if hd.mark == 1 then implicitMark c s else s) = s₀ at hmark
  dsimp only
  generalize ha : headerPass c hw _ = a
  have hpass : Memory.wf a.s = true := ha ▸ wf_of_mem (headerPass_mem ..) hmark
  split
  · exact wf_takeProbe (wf_setCore (wf_setCore hpass _ _) _ _) _ _ _
  · refine wf_ite (wf_setCore hmark _ _) ?_
    generalize hb : satSignal hd _ _ = b
    have heff : Memory.wf b.s = true := by
      rw [← hb, satSignal_s]
      exact wf_foldl_of Acc.s (fun a w ht => wf_slotEffect _ _ ht) _
        (wf_headerSignal c hd (wf_meetReads (wf_landed (wf_setCore hpass _ _) c) _ _))
    have hret : ∀ k, Memory.wf (b.s.setCore c k) = true := wf_setCore heff c
    exact wf_ite (wf_endCore (hret _) c) (wf_ite (wf_setCore (wf_ite (wf_takeMark c _ (hret _)) (hret _)) _ _)
      (wf_ite (wf_takeMark c _ (hret _)) (hret _)))

theorem wf_barrierStep (c : Nat) (global : Bool) (hd : Header) (ws en : List IWord) (next : BitVec 13) (met : Bool) :
    Memory.wf (barrierStep c global hd ws en next met s) = true := by
  unfold barrierStep
  dsimp only
  split
  · exact wf_ite (wf_issueNow h _ _ _ _ _ _) h
  · refine wf_ite (wf_ite (wf_stayWaiting h _ _) ?_) (wf_ite (wf_setCore h _ _) h)
    exact wf_setCore (wf_of_mem (headerPass_mem ..) h) _ _

theorem wf_prepare_issue (c : Nat) (ws en : List IWord) (next : BitVec 13) : Memory.wf (prepare c ws en next s) = true := by
  unfold prepare
  refine wf_ite (wf_setCore (wf_ite (wf_implicitMark h c) h) _ _)
    (wf_foldl (fun t w ht => ?_) _ (wf_setCore (wf_ite (wf_implicitMark h c) h) _ _))
  unfold walksBefore
  split
  · exact wf_smpWalks ht _ _
  · exact ht

theorem wf_tryIssue (c : Nat) (hd : Header) (ws : List IWord) (met : Bool) : Memory.wf (tryIssue c hd ws met s) = true := by
  unfold tryIssue
  split
  · next t e => exact wf_wakeBanks h e
  · refine wf_ite h ?_
    dsimp only
    have hp := wf_prepare_issue h c ws (ws.filter fun w => w.enabled (s.core c)) ((s.core c).pc + 1 + BitVec.ofNat 13 (presCount hd.pres))
    generalize prepare c ws _ _ s = t at hp
    refine wf_ite (wf_ite (wf_implicitMark hp c) hp) ?_
    split
    · next u e => exact wf_fenceHold hp e
    · refine wf_ite (wf_takeTrap hp _ _ _ _ _) ?_
      split
      · exact wf_barrierStep hp _ _ _ _ _ _ _
      · exact wf_ite (wf_issueNow hp _ _ _ _ _ _) (wf_ite (wf_stayWaiting hp _ _) (wf_issueNow hp _ _ _ _ _ _))

theorem wf_issueWith (c : Nat) (get : Core → Except (Nat × Trap × W64) (Header × List IWord)) :
    Memory.wf (issueWith c get s) = true := by
  unfold issueWith
  refine wf_ite h (wf_retest (wf_ite (wf_takeSatTrap (wf_setCore (wf_takeBack h c) _ _) c) ?_) _ _)
  split
  · exact wf_takeTrap (wf_setCore (wf_takeBack h c) _ _) _ _ _ _ _
  · exact wf_tryIssue (wf_setCore (wf_takeBack h c) _ _) _ _ _ _

theorem wf_issueBundle (c : Nat) : Memory.wf (issueBundle c s) = true := wf_drain c (wf_issueWith h c _)

theorem wf_issueOne (sl : Slot) (i : Instr) : Memory.wf (issueOne sl i s) = true := wf_drain _ (wf_issueWith h _ _)

end

end Sys2Proof.Machine
end

section
/-! PROOF. Memory's canonical form (O7): the steps at which a core's results land. -/

namespace Sys2Proof.Machine

section
variable {s : State} (h : Memory.wf s = true)
include h

theorem wf_landStep (c : Nat) (kind : LandKind → Bool) (i : Nat) : Memory.wf (landStep c kind i s) = true :=
  wf_ite (wf_setCore h _ _) h

theorem wf_satSignalApply (c : Nat) : Memory.wf (satSignalApply c s) = true := by
  unfold satSignalApply
  dsimp only
  split
  · exact h
  · exact wf_ite (wf_ite (wf_drain c (wf_incSem (wf_setCore h _ _) _ _ _))
      (wf_drain c (wf_ite (wf_takeSatTrap (wf_countSemovf (wf_incSem (wf_setCore h _ _) _ _ _) _) c)
        (wf_countSemovf (wf_incSem (wf_setCore h _ _) _ _ _) _)))) h

theorem wf_mmaRetire (c : Nat) : Memory.wf (mmaRetire c s) = true := by
  unfold mmaRetire
  dsimp only
  split
  · exact h
  · exact wf_ite (wf_foldl (fun _ _ ht => wf_releaseSlots ht _ _) _ (wf_setCore h _ _)) h

theorem wf_mOutputLand (c i : Nat) : Memory.wf (mOutputLand c i s) = true := by
  unfold mOutputLand
  dsimp only
  split
  · exact h
  · next m e =>
    refine wf_ite ?_ h
    generalize m.lines = ls
    cases ls with
    | none => exact wf_setCore h _ _
    | some l => exact wf_landLines (wf_setCore h _ _) _ _

theorem wf_storeReachesBank (c i : Nat) : Memory.wf (storeReachesBank c i s) = true := by
  unfold storeReachesBank
  split
  · exact wf_performAt c i h
  · exact wf_performAt c i h
  · exact h

theorem wf_storeReachesPoc (c i : Nat) : Memory.wf (storeReachesPoc c i s) = true := by
  unfold storeReachesPoc
  split
  · exact wf_performAt c i h
  · exact h

theorem wf_globalLoadReturn (c i : Nat) : Memory.wf (globalLoadReturn c i s) = true := by
  unfold globalLoadReturn
  dsimp only
  split
  · exact h
  · exact wf_ite (wf_setCore (wf_take _ _ h) _ _) h

theorem wf_sendArrival (c i : Nat) : Memory.wf (sendArrival c i s) = true := by
  unfold sendArrival
  dsimp only
  split
  · exact h
  · exact wf_ite (wf_fillLines (wf_setCluster (wf_setCore h _ _) _ _) _ _ _) h

end

end Sys2Proof.Machine
end

section
/-! PROOF. Memory's canonical form (O7): accesses through an address space (R241 to R247), copy-on-write (R268 to R270), invalidation
(R252). -/

namespace Sys2Proof.Machine

section
variable {s : State} (h : Memory.wf s = true)
include h

theorem wf_meetWalk (pkg root va : Nat) : Memory.wf (s.meetWalk pkg root va) = true := wf_ite h (wf_meetWrite _ h)

/-- The walks of a range's pages. -/
theorem wf_meetWalks (pkg root : Nat) (ps : List Nat) :
    Memory.wf (ps.foldl (fun s p => s.meetWalk pkg root (p * 65536)) s) = true :=
  wf_foldl (fun _ _ ht => wf_meetWalk ht _ _ _) _ h

theorem wf_readVa {pkg space root va n : Nat} {need : W64 → Bool} {r : State × Nat × List Byte}
    (e : s.readVa pkg space root va n need = some r) : Memory.wf r.1 = true := by
  obtain ⟨ps, -, rfl⟩ := Option.map_eq_some_iff.1 e
  exact wf_foldl_of Prod.fst (fun a r ha => wf_countRead (wf_meet _ _ _ ha) _ _ _) _ (wf_meetWalks h _ _ _)

theorem wf_afterRead (pkg space root va n : Nat) : Memory.wf (s.afterRead pkg space root va n) = true := by
  unfold State.afterRead
  split
  · next e => exact wf_readVa h e
  · exact wf_meetWalks h _ _ _

theorem wf_writeVa {pkg space root va : Nat} {bs : List Byte} {need : W64 → Bool} {t : State}
    (e : s.writeVa pkg space root va bs need = some t) : Memory.wf t = true := by
  obtain ⟨ps, -, rfl⟩ := Option.map_eq_some_iff.1 e
  exact wf_foldl (fun _ _ ht => wf_deliverTo _ _ ht) _ (wf_meetWalks h _ _ _)

theorem wf_writeVa_getD (pkg space root va : Nat) (bs : List Byte) (need : W64 → Bool) :
    Memory.wf ((s.writeVa pkg space root va bs need).getD s) = true := by
  cases e : s.writeVa pkg space root va bs need with
  | none => exact h
  | some t => exact wf_writeVa h e

theorem wf_rewalk (space : Nat) : Memory.wf (s.rewalk space) = true :=
  wf_foldl (fun _ _ ht => wf_ite (wf_foldl (fun _ _ hu => wf_ite (wf_queueWalk hu _ _ _ _ _) hu) _ ht) ht) _ h

theorem wf_invalidate (space lo hi : Nat) : Memory.wf (s.invalidate space lo hi) = true := h

theorem wf_flushPages (xs : List Xlation) : Memory.wf (s.flushPages xs) = true := h

theorem wf_performPages (xs : List Xlation) : Memory.wf (s.performPages xs) = true :=
  wf_foldl (fun _ _ ht => wf_foldl (fun _ _ hu => wf_performEff _ hu _) _ (wf_setCore ht _ _)) _ h

theorem wf_countCopy (a n : Nat) : Memory.wf (s.countCopy a n) = true := wf_foldl (fun t _ ht => wf_of_mem (countGranule_mem t _) ht) _ h

theorem wf_resolveCow (pkg space root va : Nat) : Memory.wf (s.resolveCow pkg space root va).1 = true := by
  have hw := wf_meetWalk h pkg root va
  unfold State.resolveCow
  dsimp only
  generalize s.meetWalk pkg root va = t at hw
  split
  · exact hw
  · next x e =>
    split
    · exact hw
    · split
      · exact hw
      · have hp := wf_performPages (wf_flushPages hw [x]) [x]
        split
        · exact hp
        · exact wf_rewalk (wf_invalidate (wf_writeLeaf _ _ _ _ _ (wf_ite
            (wf_countCopy (wf_copyPhys _ _ _ (wf_setPkg (wf_meet _ _ _ hp) _ _)) _ _)
            (wf_copyPhys _ _ _ (wf_setPkg (wf_meet _ _ _ hp) _ _)))) _ _ _) _

theorem wf_setCow {pkg space root va : Nat} {t : State} {xs : List Xlation}
    (e : s.setCow pkg space root va = some (t, xs)) : Memory.wf t = true := by
  obtain ⟨x, -, hx⟩ := Option.map_eq_some_iff.1 e
  obtain ⟨rfl, -⟩ := Prod.mk.inj hx
  exact wf_invalidate (wf_writeLeaf _ _ _ _ _ (wf_flushPages (wf_meetWalk h _ _ _) _)) _ _ _

/-! Snapshots, barriers, walks and overlays. -/

theorem wf_addQerr (p n : Nat) : Memory.wf (s.addQerr p n) = true := h

theorem wf_applySnap (l : Nat) (x : Launch) (ns : List Snap) (n : Snap) : Memory.wf (applySnap l x (s, ns) n).1 = true := by
  unfold applySnap
  split
  · exact h
  · refine wf_foldl_of Prod.fst (fun b va hb => ?_) n.pages h
    split
    · next e => exact wf_setCow hb e
    · exact wf_addQerr hb _ _

theorem wf_applySnaps (l : Nat) : Memory.wf (s.applySnaps l) = true :=
  wf_setLaunch (wf_foldl_of Prod.fst (fun b n hb => wf_applySnap hb l _ b.2 n) _ h) _ _

theorem wf_endSnaps (l : Nat) : Memory.wf (s.endSnaps l) = true := wf_ite h (wf_rewalk (wf_setLaunch h _ _) _)

theorem wf_afterSnaps (ls : List Nat) {next : State → State} (hn : ∀ t, Memory.wf t = true → Memory.wf (next t) = true) :
    Memory.wf (afterSnaps ls next s) = true :=
  wf_ite (hn _ (wf_foldl (fun _ _ ht => wf_endSnaps ht _) _ h)) (wf_foldl (fun _ _ ht => wf_applySnaps ht _) _ h)

theorem wf_barrierRelease (global : Bool) (n : Nat) : Memory.wf (barrierRelease global n s) = true :=
  wf_ite (wf_ite (wf_afterSnaps h _ fun _ ht => wf_foldl (fun _ _ hu => wf_setCore hu _ _) _ ht) h)
    (wf_ite (wf_foldl (fun _ _ hu => wf_setCore hu _ _) _ (wf_setCluster h _ _)) h)

theorem wf_walkDone (space : Nat) (who : WalkFor) (va : W64) (r : Option Xlation) :
    Memory.wf (walkDone space s who va r) = true := by
  cases who with
  | handle c n =>
    refine wf_ite h ?_
    cases r <;> exact wf_setCore h _ _
  | copy q => cases r <;> exact wf_setCluster h _ _
  | engine f => cases r <;> exact wf_setDie h _ _
  | overlay c => cases r <;> exact wf_setCore h _ _

theorem wf_walkEnd (f i : Nat) : Memory.wf (walkEnd f i s) = true := by
  unfold walkEnd
  dsimp only
  split
  · exact h
  · exact wf_ite h (wf_foldl (fun _ _ ht => wf_walkDone ht _ _ _ _) _ (wf_meetWalk (wf_setDie h _ _) _ _ _))

theorem wf_ovlRead (c va n : Nat) : Memory.wf (ovlRead c va n s) = true := by
  refine wf_foldl (fun t l ht => ?_) _ h
  dsimp only
  split
  · exact wf_readLine _ _ _ ht
  · exact ht

theorem wf_ovlFinish (c : Nat) (o : OvlPend) : Memory.wf (ovlFinish c o s) = true := wf_setCore (wf_ovlRead h _ _ _) _ _

theorem wf_ovlDown (c : Nat) (o : OvlPend) : Memory.wf (ovlDown c o s) = true := wf_ite (wf_setCore h _ _) h

theorem wf_ovlEnd (c : Nat) : Memory.wf (ovlEnd c s) = true := by
  unfold ovlEnd
  split
  · exact h
  · next o os e =>
    have hd := wf_ovlDown h c o
    refine wf_ite hd ?_
    split
    · exact wf_queueWalk hd _ _ _ _ _
    · exact wf_ovlFinish hd c o
    · exact wf_ite (wf_setCore hd _ _) (wf_ite (wf_ovlFinish hd c o) hd)

end

end Sys2Proof.Machine
end

section
/-! PROOF. Memory's canonical form (O7): queues and launches. -/

namespace Sys2Proof.Machine

section
variable {s : State} (h : Memory.wf s = true)
include h

theorem wf_testQueues (p : Nat) : Memory.wf (testQueues p s) = true :=
  wf_foldl (fun _ _ ht => wf_ite (wf_setQueue ht _ _) ht) _ h

theorem wf_incQsem (p n v : Nat) : Memory.wf (s.incQsem p n v) = true :=
  wf_ite (wf_addQerr (wf_testQueues (wf_setPkg h _ _) _) _ _) (wf_testQueues (wf_setPkg h _ _) _)

theorem wf_launchReads (q va : Nat) : Memory.wf (launchReads q va s) = true := by
  -- `read` stands for `State.vaBytes`: the kernel would begin to evaluate a match on a read of a literal size.
  rw [launchReads.eq_1]
  obtain ⟨read, hread⟩ : ∃ f, f = State.vaBytes := ⟨_, rfl⟩
  rw [← hread]
  dsimp only
  split
  · exact wf_afterRead h _ _ _ _ _
  · split
    · exact wf_afterRead (wf_afterRead h _ _ _ _ _) _ _ _ _ _
    · exact wf_afterRead (wf_afterRead (wf_afterRead h _ _ _ _ _) _ _ _ _ _) _ _ _ _ _

theorem wf_complete (l : Nat) (x : Launch) (status code : Nat) : Memory.wf (s.complete l x status code) = true :=
  wf_notify (wf_incQsem (wf_writeVa_getD h _ _ _ _ _ _) _ _ _) _ _

theorem wf_imageReads (l : Nat) (x : Launch) : Memory.wf (imageReads l x s) = true :=
  wf_foldl (fun _ _ ht => wf_afterRead ht _ _ _ _ _) _ h

theorem wf_placePart (delay : Nat) (lord : List Nat) (l : Nat) : Memory.wf (placePart delay lord s l) = true :=
  wf_setLaunch (wf_setPkg (wf_foldl (fun _ _ ht => wf_setCluster ht _ _) _
    (wf_foldl (fun _ _ ht => wf_setCore ht _ _) _ (wf_imageReads h l _))) _ _) _ _

theorem wf_launchPlacement (p : Nat) : Memory.wf (launchPlacement p s) = true := by
  unfold launchPlacement
  split
  · exact h
  · exact wf_ite (wf_foldl (fun _ _ ht => wf_placePart ht _ _ _) _ h) h

theorem wf_coreHalt (c : Nat) : Memory.wf (coreHalt c s) = true := wf_ite (wf_setCore h _ _) h

theorem wf_freePart (l : Nat) : Memory.wf (freePart s l) = true :=
  wf_foldl (fun _ _ ht => wf_setCluster ht _ _) _ (wf_foldl (s := { s with berms := _ }) (fun _ _ ht => wf_setCore ht _ _) _ h)

theorem wf_returnWait (c : Nat) : Memory.wf (returnWait c s) = true := by
  have hback := wf_retest (wf_takeBack h c) c ((s.core c).granted.getD [])
  unfold returnWait
  refine wf_setCore ?_ _ _
  split
  · exact wf_ite (wf_incSem hback _ _ _) hback
  · exact hback

theorem wf_dropPushes (c : Nat) : Memory.wf (dropPushes c s) = true := by
  refine wf_foldl (fun t o ht => ?_) _ (wf_setCore h _ _)
  split
  · exact wf_cancelPush ht _
  · exact ht

theorem wf_killCore (c : Nat) : Memory.wf (killCore s c) = true :=
  wf_ite (wf_setCore (wf_foldl (fun _ _ ht => wf_dropGated ht _ _) _ (wf_returnWait (wf_dropPushes h c) c)) _ _) (wf_dropPushes h c)

theorem wf_dropEntries (l : Nat) : Memory.wf (s.dropEntries l) = true := h

theorem wf_releaseRows (c : Coll) : Memory.wf (s.releaseRows c) = true := wf_foldl (fun _ _ ht => wf_setDie ht _ _) _ h

theorem wf_withdraw (parts : List Nat) : Memory.wf (s.withdraw parts) = true :=
  wf_of_mem (s := List.foldl State.releaseRows s _) rfl (wf_foldl (fun _ _ ht => wf_releaseRows ht _) _ h)

theorem wf_dropPosted (l : Nat) : Memory.wf (s.dropPosted l) = true := h

theorem wf_dropReserved (g : Gate) : Memory.wf (dropReserved s g) = true := by
  unfold dropReserved
  split
  · exact wf_setEngq h _ _
  · exact h

theorem wf_endUnplaced (l status code : Nat) : Memory.wf (endUnplaced l status code s) = true :=
  wf_complete (wf_setLaunch (wf_foldl (fun _ _ ht => wf_foldl (fun _ _ hu => wf_dropReserved hu _) _ ht) _ h) _ _) _ _ _ _

theorem wf_killPart (status code l : Nat) : Memory.wf (killPart status code s l) = true := by
  unfold killPart
  dsimp only
  split
  · exact wf_ite (wf_endUnplaced h _ _ _) (wf_setLaunch h _ _)
  · exact wf_ite (wf_endUnplaced h _ _ _) (wf_setLaunch h _ _)
  · exact wf_dropPosted (wf_withdraw (wf_dropEntries (wf_foldl (fun _ _ ht => wf_killCore ht _) _ (wf_setLaunch h _ _)) _) _) _
  · exact h

theorem wf_killParts (status code : Nat) (ls : List Nat) : Memory.wf (ls.foldl (killPart status code) s) = true :=
  wf_foldl (fun _ _ ht => wf_killPart ht _ _ _) _ h

theorem wf_kill (l status code : Nat) : Memory.wf (s.kill l status code) = true := wf_ite h (wf_killParts h _ _ _)

theorem wf_endPart (l status code : Nat) : Memory.wf (endPart l status code s) = true :=
  wf_complete (wf_setLaunch (wf_freePart h l) _ _) _ _ _ _

theorem wf_launchEnd (l : Nat) : Memory.wf (launchEnd l s) = true := by
  unfold launchEnd
  dsimp only
  refine wf_ite ?_ (wf_ite h ?_)
  · split
    · exact wf_afterSnaps h _ fun _ ht => wf_endUnplaced ht _ _ _
    · exact h
  · split
    · exact wf_ite (wf_killParts h _ _ _) (wf_ite (wf_afterSnaps h _ fun _ ht => wf_endPart ht _ _ _) h)
    · exact wf_ite (wf_afterSnaps h _ fun _ ht => wf_endPart ht _ _ _) h

theorem wf_stateDrain (l : Nat) : Memory.wf (s.drain l) = true := wf_foldl (fun _ _ ht => wf_ite (wf_setLaunch ht _ _) ht) _ h

theorem wf_launchDrain (q : DrainReq) : Memory.wf (launchDrain q s) = true := wf_ite (wf_stateDrain h _) h

theorem wf_stopCore (c : Nat) : Memory.wf (stopCore s c) = true :=
  wf_ite (wf_drain c (wf_setCore (wf_takeMark c _ (wf_returnWait h c)) _ _)) (wf_ite (wf_setCore h _ _) h)

theorem wf_savePart (l : Nat) : Memory.wf (savePart s l) = true := by
  have hctx : Memory.wf (writeContext s l) = true := wf_writeVa_getD (wf_fresh h) _ _ _ _ _ _
  unfold savePart
  exact wf_setLaunch (s := { (freePart (writeContext s l) l).dropEntries l with engqs := _ }) (wf_freePart hctx l) _ _

theorem wf_drainTimeout (l : Nat) : Memory.wf (drainTimeout l s) = true := by
  have hstop : ∀ cs : List Nat, Memory.wf (cs.foldl stopCore s) = true := fun cs => wf_foldl (fun _ _ ht => wf_stopCore ht _) cs h
  exact wf_ite h (wf_ite (wf_foldl (fun _ _ ht => wf_savePart ht _) _ (wf_withdraw (hstop _) _)) (hstop _))

theorem wf_restoreCore (at' : Nat) (e : Nat × Core) : Memory.wf (restoreCore at' s e) = true := wf_queueWalks (wf_setCore h _ _) _

theorem wf_resumePart (delay l : Nat) : Memory.wf (resumePart delay s l) = true := by
  unfold resumePart
  dsimp only
  split
  · exact h
  · exact wf_foldl (fun _ _ ht => wf_setEngq ht _ _) _ (wf_foldl (fun _ _ ht => wf_setEngq ht _ _) _
      (wf_foldl (fun _ _ ht => wf_restoreCore ht _ _) _ (wf_foldl (fun _ _ ht => wf_setCluster ht _ _) _ (wf_setLaunch h _ _))))

theorem wf_launchResume (l : Nat) : Memory.wf (launchResume l s) = true :=
  wf_ite (wf_foldl (fun _ _ ht => wf_resumePart ht _ _) _ h) h

theorem wf_watchdog (l : Nat) : Memory.wf (watchdog l s) = true :=
  wf_ite (wf_kill (wf_foldl (fun _ _ ht => wf_ite (wf_takeTrap (wf_returnWait ht _) _ _ _ _ _) ht) _ h) _ _ _) h

/-! Traps answered. -/

theorem wf_continueAt (c : Nat) (pc : BitVec 13) : Memory.wf (continueAt c pc s) = true := wf_takeMark c pc (wf_setCore h _ _)

theorem wf_trapResume (c : Nat) : Memory.wf (trapResume c s) = true := wf_ite (wf_continueAt h c _) h

theorem wf_trapSkip (c : Nat) : Memory.wf (trapSkip c s) = true :=
  wf_ite (wf_ite (wf_continueAt h c _) (wf_ite (wf_takeTrap (wf_takeMark c _ (wf_setCore h _ _)) _ _ _ _ _)
    (wf_continueAt (wf_setCore h _ _) c _))) h

theorem wf_trapAnswerKill (c : Nat) : Memory.wf (trapAnswerKill c s) = true := wf_ite (wf_kill (wf_setCore h _ _) _ _ _) h

theorem wf_cowResolve (c : Nat) : Memory.wf (cowResolve c s) = true := by
  unfold cowResolve
  refine wf_ite (wf_ite h ?_) h
  have hr := wf_resolveCow h (corePkg c) (s.space c).1 (s.space c).2 (s.core c).trap.w1.toNat
  split
  · next e => exact wf_notify (wf_setCore (wf_at Prod.fst e hr) _ _) _ _
  · next e => exact wf_continueAt (wf_at Prod.fst e hr) _ _

end

end Sys2Proof.Machine
end

section
/-! PROOF. Memory's canonical form (O7): the queues' words. -/

namespace Sys2Proof.Machine

section
variable {s : State} (h : Memory.wf s = true)
include h

theorem wf_queueFault (q : Nat) : Memory.wf (s.queueFault q) = true := h

theorem wf_qringWrite (q : Nat) (v : W64) : Memory.wf (qringWrite q v s) = true := wf_ite h (wf_setQueue h _ _)

theorem wf_queueEnable (q : Nat) (qpri : BitVec 3) : Memory.wf (queueEnable q qpri s) = true :=
  wf_ite (wf_setQueue h _ _) (wf_ite (wf_setQueue h _ _) (wf_ite (wf_setQueue h _ _) (wf_queueFault (wf_setQueue h _ _) q)))

theorem wf_queueDisable (q : Nat) (qpri : BitVec 3) : Memory.wf (queueDisable q qpri s) = true :=
  wf_ite (wf_setQueue h _ _) (wf_setQueue h _ _)

theorem wf_beginWord (q : Nat) : Memory.wf (beginWord q s) = true :=
  wf_ite h (wf_ite (wf_queueFault h q) (wf_ite h (wf_ite (wf_queueFault h q) (wf_setQueue h _ _))))

theorem wf_completeWord (q : Nat) : Memory.wf (completeWord q s) = true := wf_setQueue h _ _

theorem wf_ctlEnd (q : Nat) : Memory.wf (ctlEnd q s) = true := wf_ite (wf_completeWord (wf_setQueue h _ _) q) (wf_setQueue h _ _)

theorem wf_block (q : Nat) : Memory.wf (block q s) = true := wf_ite h (wf_setQueue h _ _)

theorem wf_control (q opc : Nat) {f : Ctrl → State → State} (hf : ∀ x t, Memory.wf t = true → Memory.wf (f x t) = true) :
    Memory.wf (control q opc f s) = true := wf_ite (hf _ _ (wf_beginWord h q)) (wf_beginWord h q)

theorem wf_wordLaunch (q : Nat) (x : Ctrl) : Memory.wf (wordLaunch q x s) = true := by
  have hr := wf_launchReads h q x.v.toNat
  rw [wordLaunch.eq_1]
  -- As in `wf_launchReads`.
  obtain ⟨read, hread⟩ : ∃ f, f = readLaunch := ⟨_, rfl⟩
  rw [← hread]
  split
  · exact wf_ite (wf_block h q) (wf_ctlEnd h q)
  · dsimp only
    split
    · exact wf_queueFault hr q
    · exact wf_ctlEnd (wf_complete hr _ _ _ _) q
    · exact wf_block (wf_setQueue (wf_setLaunch hr _ _) _ _) q

theorem wf_wordWaitsem (q : Nat) (x : Ctrl) : Memory.wf (wordWaitsem q x s) = true :=
  wf_ite (wf_block h q) (wf_ctlEnd (wf_ite (wf_setPkg h _ _) h) q)

theorem wf_wordSigsem (q : Nat) (x : Ctrl) : Memory.wf (wordSigsem q x s) = true := wf_ctlEnd (wf_incQsem h _ _ _) q

theorem wf_engineInc (cl n v : Nat) : Memory.wf (s.engineInc cl n v) = true :=
  wf_ite (wf_setDie (wf_incSem h cl n v) _ _) (wf_incSem h cl n v)

theorem wf_savedInc (l cl n v : Nat) : Memory.wf (s.savedInc l cl n v) = true := by
  unfold State.savedInc
  dsimp only
  split
  · exact h
  · exact wf_ite (wf_setDie (wf_setLaunch h _ _) _ _) (wf_setLaunch h _ _)

theorem wf_wordSigcl (q : Nat) (x : Ctrl) : Memory.wf (wordSigcl q x s) = true := by
  refine wf_ctlEnd (wf_ite (wf_addQerr h _ _) ?_) q
  split
  · exact wf_engineInc h _ _ _
  · exact wf_savedInc h _ _ _ _
  · exact wf_addQerr h _ _

theorem wf_wordWaittime (q : Nat) (x : Ctrl) : Memory.wf (wordWaittime q x s) = true := wf_ite (wf_ctlEnd h q) (wf_block h q)

theorem wf_wordPreempt (q : Nat) (x : Ctrl) : Memory.wf (wordPreempt q x s) = true := wf_ctlEnd (wf_stateDrain h _) q

theorem wf_wordSnap (q : Nat) (x : Ctrl) : Memory.wf (wordSnap q x s) = true := by
  rw [wordSnap.eq_1]
  -- As in `wf_launchReads`.
  obtain ⟨read, hread⟩ : ∃ f, f = State.vaBytes := ⟨_, rfl⟩
  rw [← hread]
  dsimp only
  split
  · exact wf_ite (wf_block h q) (wf_ctlEnd h q)
  · split
    · exact wf_queueFault h q
    · have hr := wf_afterRead h (s.queueSpace q).1 (s.queueSpace q).2.1 (s.queueSpace q).2.2 x.v.toNat (8 * x.c)
      split
      · exact wf_ctlEnd hr q
      · exact wf_ctlEnd hr q
      · exact wf_block (wf_setQueue (wf_setLaunch hr _ _) _ _) q

theorem wf_wordInval (q : Nat) (x : Ctrl) : Memory.wf (wordInval q x s) = true := by
  unfold wordInval
  dsimp only
  split
  · exact wf_ite (wf_ctlEnd (wf_rewalk h _) q) (wf_block h q)
  · have hi := fun xs space lo hi => wf_invalidate (wf_flushPages h xs) space lo hi
    exact wf_ite (wf_queueFault h q) (wf_ite (wf_ctlEnd (wf_rewalk (hi _ _ _ _) _) q) (wf_block (wf_setQueue (hi _ _ _ _) _ _) q))

theorem wf_wordKill (q : Nat) (x : Ctrl) : Memory.wf (wordKill q x s) = true := by
  have hk := wf_kill h (lidKey q (x.v.toNat % 65536)) 0x02 0
  unfold wordKill
  dsimp only
  split
  · exact wf_ite (wf_block h q) (wf_ctlEnd h q)
  · exact wf_ite (wf_block (wf_setQueue hk _ _) q) (wf_ctlEnd hk q)

theorem wf_wordFence (q : Nat) (x : Ctrl) : Memory.wf (wordFence q x s) = true := wf_ctlEnd h q

theorem wf_wordStamp (q : Nat) (x : Ctrl) : Memory.wf (wordStamp q x s) = true := by
  have hw := @wf_writeVa s h
  rw [wordStamp.eq_1]
  -- As in `wf_launchReads`.
  obtain ⟨write, hwrite⟩ : ∃ f, f = State.writeVa := ⟨_, rfl⟩
  rw [← hwrite] at hw ⊢
  dsimp only
  split
  · exact wf_queueFault h q
  · next e => exact wf_ctlEnd (hw e) q

theorem wf_savedPush (p : Push) : Memory.wf (s.savedPush p) = true := by
  unfold State.savedPush
  dsimp only
  split
  · exact wf_setLaunch (wf_setEngq h _ _) _ _
  · exact h

theorem wf_enqueue (p : Push) : Memory.wf (s.enqueue p) = true := h
theorem wf_enterPush (p : Push) : Memory.wf (s.enterPush p) = true := h

theorem wf_sendSlot (q die : Nat) (x : DieSlot) (rest : List Nat) : Memory.wf (sendSlot q die x rest s) = true := by
  have hnext : ∀ {t : State}, Memory.wf t = true →
      Memory.wf (if rest.isEmpty then completeWord q (t.setQueue q { t.queue q with dies := rest, blocked := false })
        else t.setQueue q { t.queue q with dies := rest, blocked := false }) = true :=
    fun ht => wf_ite (wf_completeWord (wf_setQueue ht _ _) q) (wf_setQueue ht _ _)
  have hafter := @wf_afterRead s h
  rw [sendSlot.eq_1]
  -- As in `wf_launchReads`.
  obtain ⟨read, hread⟩ : ∃ f, f = State.vaBytes := ⟨_, rfl⟩
  obtain ⟨after, hto⟩ : ∃ f, f = State.afterRead := ⟨_, rfl⟩
  rw [← hread, ← hto]
  rw [← hto] at hafter
  dsimp only
  split
  · exact wf_queueFault h q
  · have hr := hafter (s.queueSpace q).1 (s.queueSpace q).2.1 (s.queueSpace q).2.2 x.va 128
    refine wf_ite (hnext (wf_addQerr hr _ _)) (wf_ite (hnext (wf_savedPush hr _)) (wf_ite (wf_block hr q) ?_))
    split
    · exact hnext (wf_enqueue hr _)
    · exact hnext (wf_setPkg (wf_setEngq hr _ _) _ _)

omit h in
theorem wf_sendSlots (q : Nat) (k : Queue) (ds : List Nat) (i : Nat) {s : State} (h : Memory.wf s = true) :
    Memory.wf (sendSlots q k ds i s) = true := by
  induction ds generalizing i s with
  | nil => exact h
  | cons d ds ih => exact wf_ite (wf_sendSlot h q d _ _) (ih (i + 1) (wf_sendSlot h q d _ _))

theorem wf_dieSlot (q : Nat) : Memory.wf (dieSlot q s) = true := by
  have hb := wf_beginWord h q
  refine wf_ite hb ?_
  split
  · exact hb
  · exact wf_ite (wf_sendSlots _ _ _ _ (wf_setQueue hb _ _)) (wf_sendSlot hb _ _ _ _)

theorem wf_enterSync (p : Nat) (y : SyncSlot) : Memory.wf (enterSync p s y) = true := by
  have hs : Memory.wf (if y.tick.toNat < y.arrive.toNat then s.addQerr p 1 else s) = true := wf_ite (wf_addQerr h _ _) h
  unfold enterSync
  dsimp only
  split
  · exact wf_enterPush hs _
  · exact wf_savedPush (wf_setEngq hs _ _) _
  · exact wf_addQerr (wf_setEngq hs _ _) _ _

theorem wf_syncSlotEntry (p i : Nat) : Memory.wf (syncSlotEntry p i s) = true :=
  wf_ite (wf_foldl (fun _ _ ht => wf_enterSync ht _ _) _ (wf_setPkg h _ _)) h

theorem wf_qptrTailWrite (q : Nat) (tail : BitVec 32) : Memory.wf (qptrTailWrite q tail s) = true := by
  have hq := wf_setQueue h q { s.queue q with tail }
  exact wf_ite (wf_queueFault (wf_ite (wf_setQueue hq _ _) hq) q) (wf_ite (wf_setQueue hq _ _) hq)

theorem wf_queueMapping (p : Nat) : Memory.wf (queueMapping p s) = true :=
  wf_foldl (fun _ _ ht => wf_setQueue ht _ _) _ (wf_foldl (fun _ _ ht => wf_setQueue ht _ _) _
    (wf_foldl (fun _ _ ht => wf_ite (wf_setQueue ht _ _) ht) _ (wf_testQueues h p)))

end

end Sys2Proof.Machine
end

section
/-! PROOF. Memory's canonical form (O7): the Vorvor's registers and messages. -/

namespace Sys2Proof.Machine

/-- What serving a request gives, of which the state it was done in is asked to keep memory canonical. -/
def Served.Wf : Served → Prop
  | .done s _ _ => Memory.wf s = true
  | _ => True

section
variable {s : State} (h : Memory.wf s = true)
include h

theorem wf_hbmSplitWrite (p : Nat) (v : W64) : Memory.wf (hbmSplitWrite p v s) = true := wf_ite h (wf_setPkg h _ _)

theorem wf_clkCodeWrite (f : Nat) (v : W64) : Memory.wf (clkCodeWrite f v s) = true := wf_ite h (wf_setDie h _ _)

theorem wf_answerSaved (l c v : Nat) : Memory.wf (answerSaved l c v s) = true :=
  wf_ite h (wf_ite (wf_kill (wf_setCore h _ _) _ _ _) (wf_setLaunch (wf_setCore h _ _) _ _))

theorem wf_answerTrap (c : Nat) (v : W64) : Memory.wf (answerTrap c v s) = true := by
  unfold answerTrap
  dsimp only
  split
  · exact wf_answerSaved h _ _ _
  · split
    · exact wf_ite (wf_trapResume h c) h
    · exact wf_trapSkip h c
    · exact wf_trapAnswerKill h c
    · exact h

theorem wf_writeQueueReg (q off : Nat) (v : W64) : Memory.wf (writeQueueReg q off v s) = true := by
  unfold writeQueueReg
  split
  · exact wf_qringWrite h q v
  · exact wf_qptrTailWrite h q _
  · exact wf_ite (wf_queueEnable h q _) (wf_queueDisable h q _)
  · exact h

theorem wf_writeReg (p a : Nat) (v : W64) : Memory.wf (writeReg p a v s) = true :=
  wf_ite (wf_ite (wf_clkCodeWrite h _ v) h) (wf_ite h (wf_ite (wf_hbmSplitWrite h p v) (wf_ite (wf_setPkg h _ _)
    (wf_ite (wf_writeQueueReg h _ _ v) (wf_ite (wf_testQueues (wf_setPkg h _ _) p) (wf_ite (wf_answerTrap h _ v) h))))))

theorem wf_reject (p : Nat) (r : VvReq) : Memory.wf (reject p r s) = true := h

theorem wf_noteSession (p : Nat) (r : VvReq) : Memory.wf (noteSession p r s) = true := wf_of_mem (noteSession_mem p r s) h

theorem wf_serve (p : Nat) (r : VvReq) (type : Nat) (good : Bool) {f : State → Served}
    (hf : ∀ t, Memory.wf t = true → (f t).Wf) : Memory.wf (serve p r type good f s) = true := by
  have hn := wf_noteSession h p r
  have hd := hf _ hn
  unfold serve
  refine wf_ite h (wf_ite (wf_reject h p r) (wf_ite ?_ (wf_ite ?_ (wf_setPkg hn _ _))))
  · generalize f (noteSession p r s) = a at hd
    cases a with
    | waits => exact wf_ite hn (wf_setPkg hn _ _)
    | rejected => exact wf_setPkg (wf_setPkg hn _ _) _ _
    | done t st b => exact wf_setPkg hd _ _
  · split
    · exact wf_setPkg hn _ _
    · exact wf_setPkg hn _ _

theorem wf_regrd (p : Nat) (r : VvReq) : Memory.wf (regrd p r s) = true := by
  refine wf_serve h _ _ _ _ fun t ht => ?_
  split
  · trivial
  · exact ht

theorem wf_regwr (p : Nat) (r : VvReq) : Memory.wf (regwr p r s) = true := by
  refine wf_serve h _ _ _ _ fun t ht => ?_
  split
  · trivial
  · exact wf_writeReg ht _ _ _

theorem wf_memrd (p : Nat) (r : VvReq) : Memory.wf (memrd p r s) = true := by
  refine wf_serve h _ _ _ _ fun t ht => ?_
  split
  · split
    · exact wf_meet ⟨0, 0, 0, 0, false⟩ (p * 2 ^ 42 + r.addr) r.len ht
    · trivial
  · dsimp only
    split
    · exact ht
    · next e => exact wf_readVa ht e

omit h in
theorem wf_resolvePages (p q root : Nat) (es : List (Nat × Xlation)) {s t : State} (h : Memory.wf s = true)
    (e : resolvePages p q root es s = some t) : Memory.wf t = true := by
  induction es generalizing s with
  | nil => exact Option.some.inj e ▸ h
  | cons x es ih =>
    have hr := wf_resolveCow h p q root (x.1 * 65536)
    unfold resolvePages at e
    split at e
    · next e' => exact ih (wf_at Prod.fst e' hr) e
    · nomatch e

theorem wf_memwr (p : Nat) (r : VvReq) : Memory.wf (memwr p r s) = true := by
  refine wf_serve h _ _ _ _ fun t ht => ?_
  split
  · split
    · exact wf_deliverTo _ _ ht
    · trivial
  · dsimp only
    split
    · exact ht
    · split
      · trivial
      · split
        · exact ht
        · next e =>
          have hp := wf_resolvePages _ _ _ _ ht e
          split
          · exact hp
          · next e => exact wf_writeVa hp e

theorem wf_attestReport (p : Nat) (r : VvReq) : Memory.wf (attestReport p r s) = true := wf_serve h _ _ _ _ fun _ ht => ht

theorem wf_attestPublicKey (p : Nat) (r : VvReq) : Memory.wf (attestPublicKey p r s) = true := wf_serve h _ _ _ _ fun _ ht => ht

end

end Sys2Proof.Machine
end

section
/-! PROOF. Memory's canonical form (O7): the copy engines. -/

namespace Sys2Proof.Machine

/-- The state that an engine's making of a page ready leaves. -/
def Settled.out : Settled → State
  | .ok _ s | .waits s | .fails s _ => s

def Ready.out : Ready → State
  | .ready s | .waits s | .fails s _ => s

section
variable {s : State} (h : Memory.wf s = true)
include h

theorem wf_signalOf (die : Nat) (p : Push) : Memory.wf (signalOf die p s) = true := wf_ite (wf_engineInc h _ _ _) h

theorem wf_putElem (p : Push) (status count : Nat) : Memory.wf (putElem p status count s) = true := wf_ite (wf_setCore h _ _) h

theorem wf_strictEnd (lid status : Nat) : Memory.wf (strictEnd lid status s) = true := wf_ite (wf_setLaunch h _ _) h

theorem wf_countFail (die status : Nat) : Memory.wf (countFail die status s) = true := wf_ite h (wf_setDie h _ _)

theorem wf_endCommand (die : Nat) (p : Push) (status count : Nat) (zeroed : Bool) :
    Memory.wf (endCommand die p status count zeroed s) = true :=
  wf_strictEnd (wf_countFail (wf_putElem h _ _ _) _ _) _ _

theorem wf_ask (x : EngCtx) (va : Nat) : Memory.wf (x.ask va s) = true := wf_queueWalk h _ _ _ _ _

theorem wf_forget (x : EngCtx) (va : Nat) : Memory.wf (x.forget va s) = true := by
  unfold EngCtx.forget
  dsimp only
  split
  · exact wf_setCluster h _ _
  · exact wf_setDie h _ _
  · exact h

theorem wf_drop (x : EngCtx) (va : Nat) : Memory.wf (x.drop va s) = true := by
  unfold EngCtx.drop
  dsimp only
  split
  · exact wf_setCluster h _ _
  · exact wf_setDie h _ _
  · exact h

theorem wf_keep (x : EngCtx) (e : Xlation) : Memory.wf (x.keep e s) = true := by
  unfold EngCtx.keep
  split
  · exact wf_ite h (wf_setCluster h _ _)
  · exact wf_setDie h _ _
  · exact h

theorem wf_done (x : EngCtx) (vas : List Nat) : Memory.wf (x.done vas s) = true := by
  unfold EngCtx.done
  split
  · exact wf_setCluster h _ _
  · exact wf_setDie h _ _
  · exact h

theorem wf_release (x : EngCtx) : Memory.wf (x.release s) = true := by
  unfold EngCtx.release
  split
  · exact wf_setCluster h _ _
  · exact wf_setDie h _ _
  · exact h

theorem wf_resolve (x : EngCtx) (va : Nat) : Memory.wf (x.resolve va s).out = true := by
  have hr := wf_resolveCow h x.pkg x.space x.root va
  unfold EngCtx.resolve
  split
  · exact h
  · split
    · next e => exact wf_ask (wf_drop (wf_at Prod.fst e hr) x va) x va
    · next e => exact wf_at Prod.fst e hr
    · next e => exact wf_at Prod.fst e hr

theorem wf_settle (x : EngCtx) (found : Lookup) (write : Bool) (va : Nat) : Memory.wf (x.settle found write va s).out = true := by
  unfold EngCtx.settle
  split
  · exact wf_forget h x va
  · exact wf_ask h x va
  · split
    · split
      · exact h
      · split
        · exact wf_resolve h x va
        · exact h
    · split <;> exact h

omit h in
theorem wf_prepare (x : EngCtx) (ps : List (Bool × Nat)) {s : State} (h : Memory.wf s = true) :
    Memory.wf (x.prepare ps s).out = true := by
  induction ps generalizing s with
  | nil => exact h
  | cons p ps ih =>
    have hp := wf_settle h x (x.look s p.2) p.1 p.2
    unfold EngCtx.prepare
    split
    · next e => exact wf_at Settled.out e hp
    · next e => exact wf_at Settled.out e hp
    · next e => exact ih (wf_keep (wf_at Settled.out e hp) x _)

theorem wf_read (x : EngCtx) (va n : Nat) : Memory.wf (x.read va n s).2.2 = true := by
  refine wf_foldl_of (fun a : List Byte × Bool × State => a.2.2) (fun a p ha => ?_) _ h
  dsimp only
  split
  · exact ha
  · exact wf_countRead (wf_addZeroed (wf_meet _ _ _ ha) _ _) _ _ _

theorem wf_write (x : EngCtx) (va : Nat) (bs : List Byte) : Memory.wf (x.write va bs s) = true := by
  refine wf_foldl (fun t p ht => ?_) _ h
  dsimp only
  split
  · exact ht
  · exact wf_deliverTo _ _ ht

theorem wf_meetLines (x : EngCtx) (cl : Nat) (ls : List Nat) : Memory.wf (x.meetLines cl ls s).2 = true := by
  unfold EngCtx.meetLines
  dsimp only
  split
  · exact h
  · exact wf_setCluster (wf_addZeroed h _ _) _ _

theorem wf_wakeReaders (cl : Nat) : Memory.wf (s.wakeReaders cl) = true := h

theorem wf_fillSet (cl : Nat) (ls : List Nat) : Memory.wf (s.fillSet cl ls) = true := wf_ite h (wf_wakeReaders (wf_setCluster h _ _) cl)

omit h in
theorem wf_readPieces (x : EngCtx) (cl : Nat) (ps : List Piece) {s : State} (h : Memory.wf s = true) :
    Memory.wf (readPieces x cl ps s).2.2 = true := by
  induction ps generalizing s with
  | nil => exact h
  | cons p ps ih =>
    cases p with
    | sp a n => exact ih (wf_meetLines h x cl _)
    | mem va n => exact ih (wf_read h x va n)
    | zero n => exact ih h

omit h in
theorem wf_writePieces (x : EngCtx) (cl : Nat) (ps : List Piece) (bs : List Byte) {s : State} (h : Memory.wf s = true) :
    Memory.wf (writePieces x cl ps bs s) = true := by
  induction ps generalizing bs s with
  | nil => exact h
  | cons p ps ih =>
    cases p with
    | sp a n => exact ih _ (wf_setCluster h _ _)
    | mem va n => exact ih _ (wf_write h x va _)
    | zero n => exact ih _ h

theorem wf_doRun (x : EngCtx) (cl : Nat) (p : CopyPlan) (i : Nat) (r : RunPlan) : Memory.wf (doRun x cl p i r s).2 = true :=
  wf_fillSet (wf_foldl (fun _ _ ht => wf_writePieces x cl _ _ ht) _ (wf_readPieces x cl r.src h)) _ _

theorem wf_pin (x : EngCtx) (e : Xlation) : Memory.wf (x.pin e s) = true := by
  unfold EngCtx.pin
  split
  · exact wf_setCluster h _ _
  · exact h

theorem wf_consume (x : EngCtx) (vas : List Nat) : Memory.wf (x.consume vas s) = true := by
  have hd := wf_done h x vas
  unfold EngCtx.consume
  dsimp only
  split
  · exact wf_ite hd (wf_setCluster hd _ _)
  · exact hd

omit h in
theorem wf_scout (x : EngCtx) (ps : List (Bool × Nat)) {s : State} (h : Memory.wf s = true) :
    Memory.wf (x.scout ps s).out = true := by
  induction ps generalizing s with
  | nil => exact h
  | cons p ps ih =>
    have hp := wf_settle h x (x.look s p.2) p.1 p.2
    unfold EngCtx.scout
    split
    · exact h
    · split
      · next e => exact wf_at Settled.out e hp
      · next e => exact wf_at Settled.out e hp
      · next e => exact ih (wf_done (wf_pin (wf_at Settled.out e hp) x _) x _)

omit h in
theorem wf_writeUntil (x : EngCtx) (ws : List (Nat × List Byte)) {s : State} (h : Memory.wf s = true) :
    Memory.wf (writeUntil x ws s) = true := by
  induction ws generalizing s with
  | nil => exact h
  | cons w ws ih => exact wf_ite (ih (wf_write h x _ _)) h

theorem wf_writePart (x : EngCtx) (ws : List (Nat × List Byte)) : Memory.wf (x.writePart ws s) = true := wf_writeUntil x _ h

theorem wf_failRun (x : EngCtx) (cl : Nat) (r : RunPlan) : Memory.wf (failRun x cl r s) = true :=
  wf_ite (wf_writeUntil x _ (wf_readPieces x cl r.src h)) h

theorem wf_scoutFail (cl status : Nat) (r : Run) : Memory.wf (scoutFail cl status r s).2 = true := wf_setDie h _ _

omit h in
theorem wf_copyRuns (x : EngCtx) (cl : Nat) (p : CopyPlan) (fuel : Nat) (r : Run) {s : State} (h : Memory.wf s = true) :
    Memory.wf (copyRuns x cl p fuel r s).2 = true := by
  induction fuel generalizing r s with
  | zero => exact h
  | succ fuel ih =>
    unfold copyRuns
    split
    · exact h
    · split
      · exact h
      · next run _ =>
        have hp := wf_prepare x run.pages h
        split
        · next e => exact wf_at Ready.out e hp
        · next e =>
          have hf := wf_at Ready.out e hp
          split
          · exact wf_done (wf_failRun hf x cl run) x _
          · exact wf_scoutFail (wf_done hf x _) cl _ r
        · next t e =>
          have ht := wf_at Ready.out e hp
          have hs := wf_scout x (x.scoutPages t p r.prog r.push.scout run.pages) ht
          have hgo : ∀ {u : State}, Memory.wf u = true → Memory.wf
              (if waitsLine cl r.push run u || fillWaits cl (lastLines p r.prog run.lines) u then (CopyEnd.waits r, u)
              else
                let (z, s) := doRun x cl p r.prog run u
                let s := x.consume (run.pages.map (·.2)) s
                copyRuns x cl p fuel { r with prog := r.prog + 1, count := r.count + 1, zeroed := r.zeroed || z } s).2 = true := by
            intro u hu
            split
            · exact hu
            · exact ih _ (wf_consume (wf_doRun hu x cl p r.prog run) x _)
          dsimp only
          split
          · next e => exact wf_scoutFail (wf_at Ready.out e hs) cl _ r
          · next e => exact hgo (wf_at Ready.out e hs)
          · next e => exact hgo (wf_at Ready.out e hs)

theorem wf_cpyhDo (x : EngCtx) (cl : Nat) (r : Row) (phase : Nat) : Memory.wf (cpyhDo x cl r phase s).2 = true :=
  wf_fillSet (wf_setCluster (wf_meetLines h x cl _) _ _) _ _

omit h in
theorem wf_cpyhRuns (x : EngCtx) (cl : Nat) (fuel : Nat) (r : Run) {s : State} (h : Memory.wf s = true) :
    Memory.wf (cpyhRuns x cl fuel r s).2 = true := by
  induction fuel generalizing r s with
  | zero => exact h
  | succ fuel ih =>
    unfold cpyhRuns
    split
    · exact h
    · split
      · exact h
      · exact ih _ (wf_cpyhDo h x cl _ _)

theorem wf_copyWork (cl : Nat) (r : Run) : Memory.wf (copyWork cl r s).2 = true := by
  unfold copyWork
  split
  · exact h
  · exact wf_cpyhRuns _ cl 3 r h
  · exact wf_copyRuns _ cl _ _ r h

theorem wf_copyGo (cl i : Nat) (r : Run) : Memory.wf (copyGo cl i r s) = true := by
  have hw := wf_copyWork h cl r
  unfold copyGo
  dsimp only
  split
  · next e => exact wf_setEngq (wf_at Prod.snd e hw) _ _
  · next e => exact wf_signalOf (wf_endCommand (wf_setEngq (wf_at Prod.snd e hw) _ _) _ _ _ _ _) _ _

theorem wf_startHead (t : Nat) (p : Push) : Memory.wf (startHead t p s) = true := wf_setEngq h _ _

theorem wf_copyCommand (kinds : Nat → Bool) (cl i : Nat) : Memory.wf (copyCommand kinds cl i s) = true := by
  unfold copyCommand
  dsimp only
  split
  · exact wf_ite (wf_copyGo h _ _ _) h
  · split
    · exact h
    · exact wf_copyGo (wf_startHead h _ _) _ _ _

theorem wf_cpytTimedStart (cl : Nat) : Memory.wf (cpytTimedStart cl s) = true := by
  unfold cpytTimedStart
  dsimp only
  split
  · exact wf_copyGo (wf_setEngq (wf_setCluster h _ _) _ _) _ _ _
  · exact wf_ite (wf_setCluster (wf_setEngq h _ _) _ _) h
  · exact h

end

end Sys2Proof.Machine
end

section
/-! PROOF. Memory's canonical form (O7): flits and berms. -/

namespace Sys2Proof.Machine

def ItemEnd.out : ItemEnd → State
  | .done _ s | .waits s => s

section
variable {s : State} (h : Memory.wf s = true)
include h

theorem wf_setPort (f i : Nat) (p : LinkPort) : Memory.wf (s.setPort f i p) = true := wf_setDie h _ _

theorem wf_sendFlit (f i : Nat) (kind : BitVec 4) (body : BitVec 1952) : Memory.wf (sendFlit f i kind body s) = true := wf_setPort h _ _ _

theorem wf_sendPacket {f i : Nat} {hdr : BitVec 256} {data : BitVec 2048} {r : BitVec 12 × State}
    (e : sendPacket f i hdr data s = some r) : Memory.wf r.2 = true := by
  unfold sendPacket at e
  split at e
  · nomatch e
  · exact Option.some.inj e ▸ wf_sendFlit (wf_sendFlit h _ _ _ _) _ _ _ _

theorem wf_takePacket {f i : Nat} {q : BitVec 12} {r : BitVec 256 × BitVec 2048 × State}
    (e : takePacket f i q s = some r) : Memory.wf r.2.2 = true := by
  unfold takePacket at e
  dsimp only at e
  split at e
  · exact Option.some.inj e ▸ wf_setPort h _ _ _
  · nomatch e

omit h in
theorem wf_sendAll (f i : Nat) (hdr : BitVec 256) (ds : List (BitVec 2048)) {s : State} (h : Memory.wf s = true) :
    Memory.wf (sendAll f i hdr ds s).2.2 = true := by
  induction ds generalizing s with
  | nil => exact h
  | cons d ds ih =>
    unfold sendAll
    split
    · next e => exact ih (wf_sendPacket h e)
    · exact h

omit h in
theorem wf_takeAll (g i : Nat) (qs : List (BitVec 12)) {s : State} (h : Memory.wf s = true) :
    Memory.wf (takeAll g i qs s).2.2 = true := by
  induction qs generalizing s with
  | nil => exact h
  | cons q qs ih =>
    unfold takeAll
    split
    · next e => exact ih (wf_takePacket h e)
    · exact h

theorem wf_hop (hdr : Nat → List Nat → BitVec 256) (k : Carry) : Memory.wf (k.hop hdr s).1 = true := by
  unfold Carry.hop
  split
  · exact h
  · split
    · exact h
    · split
      · exact h
      · have ht := fun f i hdr ds g qs => wf_takeAll g i qs (wf_sendAll f i hdr ds h)
        dsimp only
        split
        · exact wf_ite_of Prod.fst (ht _ _ _ _ _ _) (ht _ _ _ _ _ _)
        · exact wf_ite_of Prod.fst (ht _ _ _ _ _ _) (ht _ _ _ _ _ _)

omit h in
theorem wf_run (hdr : Nat → List Nat → BitVec 256) (fuel : Nat) (k : Carry) {s : State} (h : Memory.wf s = true) :
    Memory.wf (k.run hdr fuel s).1 = true := by
  induction fuel generalizing k s with
  | zero => exact h
  | succ fuel ih =>
    unfold Carry.run
    dsimp only
    split
    · exact wf_hop h hdr k
    · exact ih _ (wf_hop h hdr k)

theorem wf_mapRuns (t : Nat) (pick : Run → Bool) (g : Run → Run) : Memory.wf (s.mapRuns t pick g) = true := wf_setEngq h _ _

theorem wf_putBermCmd (lid : Nat) (b : BermCmd) : Memory.wf (s.putBermCmd lid b) = true := wf_setLaunch h _ _

theorem wf_markFace (lid die fd k f : Nat) (e : FaceEnd) : Memory.wf (s.markFace lid die fd k f e) = true := by
  unfold State.markFace
  split
  · exact h
  · refine wf_ite h ?_
    cases e with
    | lost => exact wf_putBermCmd h _ _
    | filled => exact wf_putBermCmd (wf_engineInc h _ _ _) _ _
    | refused => exact wf_putBermCmd (wf_engineInc h _ _ _) _ _

theorem wf_sendFace (m : BermMsg) : Memory.wf (s.sendFace m) = true := h

theorem wf_sendNotices (die : Nat) (d : FieldDesc) (r : Run) (st : Nat) (items : List BermItem) :
    Memory.wf (sendNotices die d r st items s) = true := by
  refine wf_foldl (fun t it ht => ?_) _ h
  cases it with
  | send f peer => exact wf_sendFace ht _
  | own f => exact ht

theorem wf_giveUp (die : Nat) (d : FieldDesc) (items : List BermItem) (st : Nat) (r : Run) :
    Memory.wf (giveUp die d items st r s).2 = true := wf_sendNotices h _ _ _ _ _

/-- The vectors of a face's points read one after the other. -/
theorem wf_readVectors (x : EngCtx) (d : FieldDesc) (i : Nat) (ps : List (Nat × Nat × Nat)) :
    Memory.wf (ps.foldl (fun (a : List (List Byte) × Bool × State) p =>
      (a.1 ++ [(x.read (d.vectorVa i p) d.vec a.2.2).1], a.2.1 || (x.read (d.vectorVa i p) d.vec a.2.2).2.1,
        (x.read (d.vectorVa i p) d.vec a.2.2).2.2)) ([], false, s)).2.2 = true :=
  wf_foldl_of (fun a : List (List Byte) × Bool × State => a.2.2) (fun _ _ ha => wf_read ha x _ _) ps h

theorem wf_itemDone (r : Run) : Memory.wf (ItemEnd.done r s).out = true := h
theorem wf_itemWaits : Memory.wf (ItemEnd.waits s).out = true := h

theorem wf_doItem (die : Nat) (d : FieldDesc) (i : Nat) (r : Run) (it : BermItem) :
    Memory.wf (doItem die d i r it s).out = true := by
  unfold doItem
  dsimp only
  split
  · next f =>
    split
    · exact wf_itemDone (wf_markFace h _ _ _ _ _ _) _
    · split
      · next e => exact wf_itemWaits (wf_at Ready.out e (wf_prepare _ _ h))
      · next e =>
        have hf := wf_at Ready.out e (wf_prepare _ _ h)
        refine wf_itemDone (wf_markFace (wf_done (wf_writePart ?_ _ _) _ _) _ _ _ _ _ _) _
        refine wf_ite_of (fun a : List (List Byte) × Bool × State => a.2.2) ?_ ?_
        · refine wf_ite_of (fun a : List (List Byte) × Bool × State => a.2.2) ?_ ?_
          · exact wf_readVectors hf _ _ _ _
          · exact hf
        · exact hf
      · next e =>
        have hr := wf_at Ready.out e (wf_prepare _ _ h)
        exact wf_itemDone (wf_markFace (wf_done (wf_foldl (fun _ _ ht => wf_write ht _ _ _) _
          (wf_ite_of (fun a : List (List Byte) × Bool × State => a.2.2) (wf_readVectors hr _ _ _ _) hr)) _ _) _ _ _ _ _ _) _
  · split
    · next e => exact wf_itemWaits (wf_at Ready.out e (wf_prepare _ _ h))
    · next e => exact wf_itemDone (wf_sendFace (wf_done (wf_at Ready.out e (wf_prepare _ _ h)) _ _) _) _
    · next e => exact wf_itemDone (wf_sendFace (wf_done (wf_readVectors (wf_at Ready.out e (wf_prepare _ _ h)) _ _ _ _) _ _) _) _

omit h in
theorem wf_bermRun (die : Nat) (d : FieldDesc) (i : Nat) (items : List BermItem) (fuel : Nat) (r : Run) {s : State}
    (h : Memory.wf s = true) : Memory.wf (bermRun die d i items fuel r s).2 = true := by
  induction fuel generalizing r s with
  | zero => exact h
  | succ fuel ih =>
    unfold bermRun
    split
    · exact h
    · next it _ =>
      split
      · split
        · exact wf_giveUp h _ _ _ _ _
        · exact h
      · exact wf_giveUp h _ _ _ _ _
      · have hd := wf_doItem h die d i r it
        split
        · next e => exact wf_at ItemEnd.out e hd
        · next e => exact ih _ (wf_at ItemEnd.out e hd)

theorem wf_bermGo (die n : Nat) (r : Run) : Memory.wf (bermGo die n r s) = true :=
  wf_ite (wf_endCommand (wf_setEngq (wf_bermRun _ _ _ _ 13 r h) _ _) _ _ _ _ _) (wf_setEngq (wf_bermRun _ _ _ _ 13 r h) _ _)

theorem wf_bxchFail (die k st : Nat) (p : Push) : Memory.wf (bxchFail die k st p s) = true := by
  have hsig : Memory.wf (if p.kind == 0x10 then
      (List.range (popCount 6 (lineFaces p.line % 64))).foldl (fun s _ => signalOf die p s) s else signalOf die p s) = true :=
    wf_ite (wf_foldl (fun _ _ ht => wf_signalOf ht _ _) _ h) (wf_signalOf h _ _)
  have hend := wf_endCommand hsig die p st 0 false
  unfold bxchFail
  refine wf_ite ?_ (wf_ite (wf_putBermCmd hend _ _) hend)
  split
  · exact wf_sendNotices (wf_ite (wf_putBermCmd hend _ _) hend) _ _ _ _ _
  · exact wf_ite (wf_putBermCmd hend _ _) hend

theorem wf_bermMismatch (m : BermMsg) (b : BermCmd) : Memory.wf (bermMismatch m b s) = true := by
  have hb := wf_putBermCmd (wf_foldl (fun _ _ ht => wf_engineInc ht b.cl b.sem 1)
    (List.range (popCount 8 (b.faces &&& ~~~b.got).toNat)) h) m.lid { b with got := b.faces }
  refine wf_mapRuns ?_ _ _ _
  split
  · exact wf_mapRuns (wf_giveUp hb _ _ _ _ _) _ _ _
  · exact hb

theorem wf_bermTake (m : BermMsg) : Memory.wf (bermTake m s) = true := by
  unfold bermTake
  split
  · exact wf_ite (wf_mapRuns (wf_markFace h _ _ _ _ _ _) _ _ _) (wf_markFace h _ _ _ _ _ _)
  · split
    · exact h
    · exact wf_ite (wf_bermMismatch h _ _) (wf_markFace h _ _ _ _ _ _)

theorem wf_bxchStart (die : Nat) (p : Push) : Memory.wf (bxchStart die p s) = true := by
  have hq := wf_setEngq h (bermQueue die) { s.engq (bermQueue die) with entries := (s.engq (bermQueue die)).entries.drop 1 }
  unfold bxchStart
  dsimp only
  split
  · exact wf_bxchFail (wf_ite (wf_setLaunch hq _ _) hq) _ _ _ _
  · exact wf_foldl (fun _ _ ht => wf_bermTake ht _) _ (wf_putBermCmd (wf_setEngq (wf_ite (wf_setLaunch hq _ _) hq) _ _) _ _)

theorem wf_bxchCommand (die n : Nat) : Memory.wf (bxchCommand die n s) = true := by
  unfold bxchCommand
  split
  · exact wf_bermGo h _ _ _
  · split
    · exact wf_bxchStart h _ _
    · exact h

theorem wf_bermLose (m : BermMsg) (st : Nat) : Memory.wf (bermLose m st s) = true :=
  wf_ite h (wf_ite (wf_setDie (wf_mapRuns h _ _ _) _ _) (wf_mapRuns h _ _ _))

theorem wf_bermLand (m : BermMsg) : Memory.wf (bermLand m s) = true := wf_ite (wf_bermTake h m) (wf_setLaunch h _ _)

theorem wf_onward (m : BermMsg) (g : Nat) : Memory.wf (m.onward g s).1 = true := by
  unfold BermMsg.onward
  exact wf_hop h (fun _ _ => m.header) _

theorem wf_bermFaceArrival (n : Nat) : Memory.wf (bermFaceArrival n s) = true := by
  have hs : Memory.wf { s with berms := removeAt s.berms n } = true := h
  unfold bermFaceArrival
  split
  · exact h
  · refine wf_ite (wf_bermLose hs _ _) ?_
    split
    · split
      · exact wf_bermLand (wf_bermLose hs _ _) _
      · exact wf_onward h _ _
    · split
      · exact wf_bermLand hs _
      · refine wf_ite (wf_bermLand (wf_mapRuns hs _ _ _) _) ?_
        dsimp only
        split
        · next e => exact wf_of_mem rfl (wf_at Ready.out e (wf_prepare _ _ hs))
        · next e => exact wf_bermLand (wf_bermLose (wf_done (wf_writePart (wf_at Ready.out e (wf_prepare _ _ hs)) _ _) _ _) _ _) _
        · next e =>
          exact wf_bermLand (wf_mapRuns (wf_done (wf_foldl (fun _ _ ht => wf_write ht _ _ _) _
            (wf_at Ready.out e (wf_prepare _ _ hs))) _ _) _ _ _) _

end

end Sys2Proof.Machine
end

section
/-! PROOF. Memory's canonical form (O7): the sluice, whose collectives are posted, matched and granted, and their chunks started. -/

namespace Sys2Proof.Machine

section
variable {s : State} (h : Memory.wf s = true)
include h

theorem wf_endPosted (die : Nat) (p : Push) (status count : Nat) (zeroed : Bool) :
    Memory.wf (endPosted die p status count zeroed s) = true :=
  wf_strictEnd (wf_putElem (wf_signalOf (wf_setEngq h _ _) _ _) _ _ _) _ _

theorem wf_post (die : Nat) (p : Push) : Memory.wf (post die p s) = true :=
  wf_ite (wf_endPosted h _ _ _ _ _) (wf_ite (wf_endPosted h _ _ _ _ _) (wf_ite (wf_endPosted h _ _ _ _ _)
    (wf_ite (wf_endPosted h _ _ _ _ _) (wf_setEngq (wf_setLaunch h _ _) _ _))))

/-- The commands of a match that is refused ended. -/
theorem wf_endAll (es : List (Nat × Run)) (st : Nat) :
    Memory.wf (es.foldl (fun s e => endPosted e.1 e.2.push st 0 false s) s) = true :=
  wf_foldl (fun _ _ ht => wf_endPosted ht _ _ _ _ _) _ h

theorem wf_matched (rs : List Run) (b : List Nat) : Memory.wf (matched rs b s) = true := by
  unfold matched
  dsimp only
  split
  · exact wf_endAll h _ _
  · split
    · exact h
    · exact wf_ite (wf_endAll h _ _) (wf_ite (wf_endAll h _ _) (wf_of_mem (s := s) rfl h))

theorem wf_tryMatch (r : Run) : Memory.wf (tryMatch r s) = true := by
  refine wf_ite h ?_
  split
  · exact wf_matched h _ _
  · exact h

theorem wf_collectiveMatch (die i : Nat) : Memory.wf (collectiveMatch die i s) = true := by
  unfold collectiveMatch
  dsimp only
  split
  · refine wf_ite ?_ h
    have hp := fun p q => wf_post (wf_setEngq h (sluiceQueue die) q) die p
    split
    · exact wf_tryMatch (hp _ _) _
    · exact hp _ _
  · split
    · exact wf_tryMatch h _
    · exact h

theorem wf_setColl (i : Nat) (c : Coll) : Memory.wf (s.setColl i c) = true := h

theorem wf_freeHeld (c : Coll) : Memory.wf (c.freeHeld s) = true := wf_foldl (fun _ _ ht => wf_setDie ht _ _) _ h

theorem wf_endColl (i st : Nat) : Memory.wf (endColl i st s) = true := by
  unfold endColl
  split
  · exact h
  · next c _ =>
    exact wf_foldl (fun _ _ ht => wf_endPosted ht _ _ _ _ _) _
      (wf_of_mem (s := c.freeHeld (s.releaseRows c)) rfl (wf_freeHeld (wf_releaseRows h c) c))

theorem wf_reduceStep (i : Nat) (r : ChunkRun) (die : Nat) : Memory.wf (reduceStep i r die s) = true := by
  unfold reduceStep
  split
  · exact h
  · split
    · exact h
    · exact wf_of_mem (s := s) rfl h

theorem wf_windowBytes (x : EngCtx) (c : Coll) (f g n j : Nat) : Memory.wf (windowBytes x c f g n j s).2.2 = true := by
  refine wf_foldl_of (fun a : List Byte × Bool × State => a.2.2) (fun a e ha => ?_) _ h
  dsimp only
  split
  · exact wf_read ha x _ _
  · exact ha

theorem wf_doneAll (c : Coll) (pages : Nat → List (Bool × Nat)) : Memory.wf (doneAll c pages s) = true :=
  wf_foldl (fun _ _ ht => wf_done ht _ _) _ h

omit h in
theorem wf_prepareAll (c : Coll) (pages : Nat → List (Bool × Nat)) (fs : List Nat) {s : State} (h : Memory.wf s = true) :
    Memory.wf (prepareAll c pages fs s).out = true := by
  induction fs generalizing s with
  | nil => exact h
  | cons f fs ih =>
    have hp := wf_prepare (c.ctx s f) (pages f) h
    unfold prepareAll
    split
    · next e => exact ih (wf_at Ready.out e hp)
    · exact hp

theorem wf_setMark (c : Coll) (f n : Nat) : Memory.wf (setMark c f n s) = true := by
  have hr := @wf_read s h
  have hw := @wf_write
  rw [setMark.eq_1]
  -- As in `wf_launchReads`.
  obtain ⟨read, hread⟩ : ∃ f, f = EngCtx.read := ⟨_, rfl⟩
  obtain ⟨write, hwrite⟩ : ∃ f, f = EngCtx.write := ⟨_, rfl⟩
  rw [← hread] at hr ⊢
  rw [← hwrite] at hw ⊢
  exact wf_ite h (hw (hr _ _ _) _ _ _)

theorem wf_blockRows (c : Coll) (n f : Nat) : Memory.wf (blockRows c n f s).2.2 = true :=
  wf_foldl_of (fun a : List (Nat × List Byte) × Bool × State => a.2.2)
    (fun _ _ ha => wf_foldl_of (fun a : List (Nat × List Byte) × Bool × State => a.2.2)
      (fun _ _ hb => wf_ite_of (fun a : List (Nat × List Byte) × Bool × State => a.2.2) (wf_read hb _ _ _) hb) _ ha) _ h

/-- The members' parts of a chunk read. -/
def chunkMembers (n : Nat) (c : Coll) (s : State) : List MemberChunk × Bool × State :=
  c.dies.foldl (fun (a : List MemberChunk × Bool × State) f =>
    let (bs, z, s) := if reduces c.kind then
        (c.ctx a.2.2 f).read (lineSrc (c.lineOf f) + (c.chunkRange n).1 * lineEs c.line)
          (((c.chunkRange n).2 - (c.chunkRange n).1) * lineEs c.line) a.2.2
      else ([], false, a.2.2)
    (a.1 ++ [{ die := f, src := bs, got := [], res := [], sent := 0, done := c.idleIn f n && !lineAudit c.line }],
      a.2.1 || z, s)) ([], false, s)

theorem wf_chunkMembers (n : Nat) (c : Coll) : Memory.wf (chunkMembers n c s).2.2 = true :=
  wf_foldl_of (fun a : List MemberChunk × Bool × State => a.2.2)
    (fun _ _ ha => wf_ite_of (fun a : List Byte × Bool × State => a.2.2) (wf_read ha _ _ _) ha) _ h

theorem wf_startChunk (i n : Nat) (c : Coll) : Memory.wf (startChunk i n c s) = true := by
  have hm := wf_chunkMembers h n c
  have hblocks : ∀ {t : State}, Memory.wf t = true → Memory.wf (c.dies.foldl (fun (a : List ReRow × Bool × State) f =>
      (a.1 ++ (blockRows c n f a.2.2).1, a.2.1 || (blockRows c n f a.2.2).2.1, (blockRows c n f a.2.2).2.2))
      ([], false, t)).2.2 = true := fun ht =>
    wf_foldl_of (fun a : List ReRow × Bool × State => a.2.2) (f := fun (a : List ReRow × Bool × State) f =>
      (a.1 ++ (blockRows c n f a.2.2).1, a.2.1 || (blockRows c n f a.2.2).2.1, (blockRows c n f a.2.2).2.2))
      (fun _ _ ha => wf_blockRows ha c n _) _ ht
  unfold startChunk
  dsimp only
  refine wf_ite ?_ (wf_ite ?_ ?_)
  · exact wf_setColl (hblocks hm) _ _
  · refine wf_foldl (fun t f ht => ?_) _ (wf_setColl hm _ _)
    split
    · exact wf_reduceStep ht _ _ _
    · exact ht
  · refine wf_of_mem (s := Prod.snd (Prod.snd (Prod.snd _))) rfl ?_
    refine wf_foldl_of (fun a : ChunkRun × List Packet × Bool × State => a.2.2.2) (fun a f ha =>
      wf_foldl_of (fun a : ChunkRun × List Packet × Bool × State => a.2.2.2) (fun a g hb =>
        wf_foldl_of (fun a : ChunkRun × List Packet × Bool × State => a.2.2.2) (fun a j hc => ?_) _ hb) _ ha) _ hm
    split
    · exact wf_ite_of (fun a : ChunkRun × List Packet × Bool × State => a.2.2.2)
        (wf_windowBytes hc _ _ _ _ _ _) (wf_windowBytes hc _ _ _ _ _ _)
    · exact hc

omit h in
theorem wf_startChunks (i fuel : Nat) {s : State} (h : Memory.wf s = true) : Memory.wf (startChunks i fuel s) = true := by
  induction fuel generalizing s with
  | zero => exact h
  | succ fuel ih =>
    unfold startChunks
    split
    · exact h
    · next c _ =>
      refine wf_ite h (wf_ite (wf_ite (wf_endColl h _ _) h) (wf_ite (ih (wf_setColl h _ _)) (wf_ite h ?_)))
      have hp := wf_prepareAll c (fun f => c.sourcePages f c.next) c.dies h
      split
      · next e => exact wf_at Ready.out e hp
      · next e => exact wf_endColl (wf_doneAll (wf_at Ready.out e hp) _ _) _ _
      · next e => exact ih (wf_doneAll (wf_startChunk (wf_at Ready.out e hp) _ _ _) _ _)

theorem wf_finishedBits (c : Coll) : Memory.wf (finishedBits c s).2 = true := by
  refine wf_ite_of Prod.snd h ?_
  refine wf_foldl_of Prod.snd (fun a f ha => ?_) _ h
  exact wf_read ha _ _ _

theorem wf_markIdle (c : Coll) (fin : Nat) : Memory.wf (markIdle c fin s) = true :=
  wf_ite h (wf_foldl (fun _ _ ht => wf_foldl (fun _ _ hu => wf_ite (wf_setMark hu _ _ _) hu) _ ht) _ h)

theorem wf_beginChunks (i : Nat) : Memory.wf (beginChunks i s) = true := by
  unfold beginChunks
  split
  · exact h
  · next c _ =>
    have hp := wf_prepareAll c (fun f => c.bitmapPages f ++ c.idlePages f) c.dies h
    dsimp only
    split
    · next e => exact wf_at Ready.out e hp
    · next e => exact wf_endColl (wf_doneAll (wf_at Ready.out e hp) _ _) _ _
    · next e =>
      exact wf_startChunks _ _ (wf_setColl (wf_doneAll (wf_markIdle (wf_finishedBits (wf_at Ready.out e hp) c) c _) _ _) _ _)

theorem wf_startColl (i : Nat) : Memory.wf (startColl i s) = true := by
  unfold startColl
  split
  · exact h
  · exact wf_ite (wf_foldl (fun _ _ ht => wf_setLaunch ht _ _) _ (wf_setColl h _ _))
      (wf_ite (wf_endColl h _ _) (wf_beginChunks (wf_setColl h _ _) _))

theorem wf_stagingGrant (i : Nat) : Memory.wf (stagingGrant i s) = true := by
  unfold stagingGrant
  split
  · exact h
  · split
    · exact h
    · exact wf_ite h (wf_ite (wf_startColl (wf_setColl (wf_setDie h _ _) _ _) i) (wf_setColl (wf_setDie h _ _) _ _))

theorem wf_badHop (f : Nat) : Memory.wf (s.badHop f) = true := wf_setDie h _ _

theorem wf_handPart (add : Bool) (p : Packet) : Memory.wf (handPart add p s) = true := by
  unfold handPart
  split
  · exact h
  · split
    · exact h
    · exact wf_ite (wf_reduceStep (wf_setColl h _ _) _ _ _) (wf_setColl h _ _)

theorem wf_handControl (p : Packet) : Memory.wf (handControl p s) = true := wf_setDie h _ _

theorem wf_routePacket (p : Packet) : Memory.wf (routePacket p s) = true := by
  have honward : ∀ (c : Prop) [Decidable c] (q : Packet) {t : State}, Memory.wf t = true →
      Memory.wf (if c then { t with packets := t.packets ++ [q] } else t.badHop p.peer) = true :=
    fun c _ q t ht => wf_ite (wf_of_mem (s := t) rfl ht) (wf_badHop ht _)
  unfold routePacket
  refine wf_ite (wf_badHop h _) ?_
  dsimp only
  split
  · exact honward _ _ h
  · exact wf_handPart h _ _
  · exact wf_handPart h _ _
  · exact honward _ _ (wf_handPart h _ _)
  · exact wf_handControl h _
  · exact wf_badHop h _

theorem wf_crossLink (i : Nat) (p : Packet) : Memory.wf (crossLink i p s).1 = true := by
  unfold crossLink
  split
  · exact wf_of_mem (s := s) rfl h
  · split
    · next e => exact wf_of_mem rfl (wf_sendPacket h e)
    · exact h
  · split
    · next e => exact wf_of_mem rfl (wf_takePacket h e)
    · exact h

theorem wf_sluicePacket (i : Nat) : Memory.wf (sluicePacket i s) = true := by
  unfold sluicePacket
  split
  · exact h
  · next p _ =>
    refine wf_ite h ?_
    split
    · next e => exact wf_routePacket (wf_at Prod.fst e (wf_crossLink h i p)) _
    · next e => exact wf_at Prod.fst e (wf_crossLink h i p)

theorem wf_writeChunk (c : Coll) (r : ChunkRun) (m : MemberChunk) : Memory.wf (writeChunk c r m s) = true :=
  wf_setMark (wf_foldl (fun _ _ ht => wf_write ht _ _ _) _ h) _ _ _

theorem wf_chunkFinish (i die n : Nat) : Memory.wf (chunkFinish i die n s) = true := by
  unfold chunkFinish
  split
  · exact h
  · next c _ =>
    split
    · exact h
    · next r _ =>
      split
      · exact h
      · next m _ =>
        refine wf_ite h ?_
        have hp := wf_prepare (c.ctx s die) (c.chunkPages r die) h
        dsimp only
        split
        · next e => exact wf_at Ready.out e hp
        · next e => exact wf_endColl (wf_done (wf_writePart (wf_at Ready.out e hp) _ _) _ _) _ _
        · next e =>
          have hw := wf_done (wf_writeChunk (wf_at Ready.out e hp) c r m) (c.ctx s die) ((c.chunkPages r die).map (·.2))
          exact wf_ite (wf_startChunks _ _ (wf_setColl hw _ _)) (wf_setColl hw _ _)

theorem wf_abandonChunks (i : Nat) (gone : List Nat) : Memory.wf (abandonChunks i gone s) = true := by
  unfold abandonChunks
  split
  · exact h
  · exact wf_of_mem (s := Coll.freeHeld _ s) rfl (wf_freeHeld h _)

theorem wf_treeRecovery (i : Nat) : Memory.wf (treeRecovery i s) = true := by
  unfold treeRecovery
  split
  · exact h
  · next c _ =>
    refine wf_ite h (wf_ite (wf_ite (wf_startChunks _ _ h) (wf_beginChunks h _)) (wf_ite (wf_endColl h _ _) ?_))
    have ha := wf_abandonChunks h i ((c.runs.filter (abandoned c (c.liveNow s))).map (·.chunk))
    dsimp only
    split
    · exact ha
    · refine wf_ite ha ?_
      exact wf_ite (wf_endColl (wf_foldl (fun _ _ ht => wf_setLaunch (wf_setDie ht _ _) _ _) _ ha) _ _)
        (wf_beginChunks (wf_setColl (wf_foldl (fun _ _ ht => wf_setLaunch (wf_setDie ht _ _) _ _) _ ha) _ _) _)

end

end Sys2Proof.Machine
end

section
/-! PROOF. Memory's canonical form (O7): RESHARD. -/

namespace Sys2Proof.Machine

section
variable {s : State} (h : Memory.wf s = true)
include h

theorem wf_setWord (c : Coll) (state : Nat) : Memory.wf (c.setWord state s) = true := wf_foldl (fun _ _ ht => wf_setLaunch ht _ _) _ h

theorem wf_undoLeaf (u : Undo) : Memory.wf (undoLeaf s u) = true := wf_writeLeaf _ _ _ _ _ h

theorem wf_freeFrame (u : Undo) : Memory.wf (freeFrame s u) = true := wf_setPkg h _ _

theorem wf_abortReshard (i st : Nat) : Memory.wf (abortReshard i st s) = true := by
  unfold abortReshard
  split
  · exact h
  · exact wf_ite h (wf_setColl (wf_foldl (fun _ _ ht => wf_invalidate ht _ _ _) _
      (wf_foldl (fun _ _ ht => wf_undoLeaf ht _) _ (wf_flushPages h _))) _ _)

theorem wf_endAbort (i : Nat) : Memory.wf (endAbort i s) = true := by
  unfold endAbort
  split
  · exact h
  · split
    · exact h
    · exact wf_ite h (wf_endColl (wf_setWord (wf_foldl (fun _ _ ht => wf_setDie ht _ _) _ (wf_foldl (fun _ _ ht => wf_rewalk ht _) _
        (wf_foldl (fun _ _ ht => wf_freeFrame ht _) _ h))) _ _) _ _)

theorem wf_reportAll (i : Nat) : Memory.wf (reportAll i s) = true := by
  unfold reportAll
  split
  · exact h
  · exact wf_ite (wf_setColl h _ _) h

theorem wf_firstRows (c : Coll) (old : FieldDesc) : Memory.wf (firstRows c old s).2.2 = true := by
  refine wf_foldl_of (fun a : List ReRow × Bool × State => a.2.2) (fun a e ha => ?_) _ h
  refine wf_foldl_of (fun a : List (Nat × List Byte) × Bool × State => a.2.2) (fun b k hb => ?_) _ ha
  exact wf_read hb _ _ _

theorem wf_beginMoves (i : Nat) : Memory.wf (beginMoves i s) = true := by
  unfold beginMoves
  split
  · exact h
  · next c _ =>
    refine wf_ite (wf_abortReshard h _ _) (wf_ite h ?_)
    split
    · exact wf_abortReshard h _ _
    · have hp := fun pages => wf_prepareAll c pages c.dies h
      dsimp only
      split
      · next e => exact wf_at Ready.out e (hp _)
      · next e => exact wf_abortReshard (wf_doneAll (wf_at Ready.out e (hp _)) _ _) _ _
      · next e => exact wf_reportAll (wf_setColl (wf_doneAll (wf_firstRows (wf_at Ready.out e (hp _)) _ _) _ _) _ _) _

omit h in
theorem wf_readyNoted (x : EngCtx) (vas : List Nat) {s : State} (h : Memory.wf s = true) :
    Memory.wf (readyNoted x vas s).2.out = true := by
  induction vas generalizing s with
  | nil => exact h
  | cons va vas ih =>
    have hs := wf_settle h x (x.look s va) true va
    unfold readyNoted
    split
    · next e => exact wf_at Settled.out e hs
    · next e => exact wf_at Settled.out e hs
    · next e => exact ih (wf_keep (wf_at Settled.out e hs) x _)

theorem wf_refuseRow (i k : Nat) (r : ReRow) (c : Coll) : Memory.wf (refuseRow i k r c s) = true :=
  wf_setColl (wf_ite (wf_foldl (fun _ _ ht => wf_setLaunch ht _ _) _ h) h) _ _

theorem wf_freeStage (i n : Nat) : Memory.wf (freeStage i n s) = true := by
  unfold freeStage
  split
  · exact h
  · exact wf_freeHeld (wf_setColl h _ _) _

theorem wf_unstage (i : Nat) (o : Option Nat) : Memory.wf (unstage i o s) = true := by
  unfold unstage
  split
  · exact wf_ite (wf_setColl h _ _) (wf_freeStage h _ _)
  · exact h

theorem wf_acceptRow (i j : Nat) (w : WayRow) (c : Coll) : Memory.wf (acceptRow i j w c s) = true := by
  unfold acceptRow
  refine wf_reportAll (wf_unstage ?_ _ _) _
  split
  · exact wf_ite (wf_freeStage (wf_setColl (wf_done (wf_foldl (fun _ _ ht => wf_write ht _ _ _) _ h) _ _) _ _) _ _)
      (wf_setColl (wf_done (wf_foldl (fun _ _ ht => wf_write ht _ _ _) _ h) _ _) _ _)
  · exact wf_setColl (wf_done (wf_foldl (fun _ _ ht => wf_write ht _ _ _) _ h) _ _) _ _

theorem wf_failRow (i st : Nat) (w : WayRow) (c : Coll) : Memory.wf (failRow i st w c s) = true :=
  wf_ite (wf_abortReshard (wf_setColl (wf_done (wf_writePart h _ _) _ _) _ _) _ _)
    (wf_endColl (wf_done (wf_writePart h _ _) _ _) _ _)

theorem wf_rowWay (i j : Nat) : Memory.wf (rowWay i j s) = true := by
  unfold rowWay
  split
  · exact h
  · next c _ =>
    split
    · exact h
    · next w _ =>
      have hc := wf_run (c.rowHeader w.row s) (w.carry.path.length + 1) w.carry h
      dsimp only
      refine wf_ite (wf_setColl hc _ _) ?_
      have hn := fun x vas => wf_readyNoted x vas hc
      split
      · next e => exact wf_setColl (wf_at (fun r : List Undo × Ready => r.2.out) e (hn _ _)) _ _
      · next e => exact wf_failRow (wf_at (fun r : List Undo × Ready => r.2.out) e (hn _ _)) _ _ _ _
      · next e => exact wf_acceptRow (wf_at (fun r : List Undo × Ready => r.2.out) e (hn _ _)) _ _ _ _

theorem wf_sendRow (i k : Nat) (r : ReRow) (c : Coll) : Memory.wf (sendRow i k r c s) = true :=
  wf_ite h (wf_ite (wf_refuseRow h _ _ _ _) (wf_rowWay (wf_setColl (wf_ite (wf_setDie h _ _) h) _ _) _ _))

theorem wf_rowStep (i k : Nat) (c : Coll) : Memory.wf (rowStep i k c s) = true := by
  unfold rowStep
  dsimp only
  split
  · exact wf_ite (wf_sendRow h _ _ _ _) h
  · split
    · exact wf_ite (wf_rowWay h _ _) h
    · exact h

theorem wf_reshardRow (i k : Nat) : Memory.wf (reshardRow i k s) = true := by
  unfold reshardRow
  split
  · exact h
  · exact wf_ite h (wf_ite (wf_endAbort h i) (wf_ite (wf_ite (wf_rowStep h _ _ _) (wf_beginMoves h i)) (wf_ite (wf_rowStep h _ _ _) h)))

theorem wf_reshardCommit (i : Nat) : Memory.wf (reshardCommit i s) = true := by
  unfold reshardCommit
  split
  · exact h
  · split
    · exact h
    · exact wf_ite h (wf_endColl (wf_setWord (wf_foldl (fun _ _ ht => wf_setLaunch ht _ _) _ h) _ _) _ _)

theorem wf_reshardLinks : Memory.wf (reshardLinks s) = true := wf_foldl (fun _ _ ht => wf_ite (wf_abortReshard ht _ _) ht) _ h

end

end Sys2Proof.Machine
end

section
/-! PROOF. Memory's canonical form (O7): the posting-list engines. -/

namespace Sys2Proof.Machine

/-- The state that a command leaves, whether it waits or ends. -/
def PleEnd.out : PleEnd → State
  | .waits s | .ends s _ _ _ => s

/-- A read that succeeded after another has both results. -/
theorem except_bind_ok {ε α β : Type} {x : Except ε α} {f : α → Except ε β} {b : β} (e : (x >>= f) = .ok b) :
    ∃ a, x = .ok a ∧ f a = .ok b := by
  cases x with
  | error a => nomatch e
  | ok a => exact ⟨a, rfl, e⟩

section
variable {s : State} (h : Memory.wf s = true)
include h

theorem wf_pleClose (m : Nat) (p : Push) (st : Nat) (t : Tally) : Memory.wf (pleClose m p st t s) = true :=
  wf_strictEnd (wf_putElem (wf_signalOf (wf_setMdie (wf_ite (wf_setLaunch h _ _) h) _ _) _ _) _ _ _) _ _

theorem wf_pleEnd (m n : Nat) (p : Push) (status : Nat) (zeroed : Bool) (t : Tally) :
    Memory.wf (pleEnd m n p status zeroed t s) = true := by
  unfold pleEnd
  dsimp only
  split
  · have hp := wf_prepare (pleCtx s m p) [(true, lineRec p.line)] h
    split
    · next e => exact wf_pleClose (wf_setEngq (wf_release (wf_write (wf_at Ready.out e hp) _ _ _) _) _ _) _ _ _ _
    · next e => exact wf_pleClose (wf_setEngq (wf_release (wf_at Ready.out e hp) _) _ _) _ _ _ _
    · next e => exact wf_at Ready.out e hp
  · exact wf_pleClose (wf_setEngq (wf_release h _) _ _) _ _ _ _

theorem wf_pleRead {x : EngCtx} {va n : Nat} {r : List Byte × Bool × State} (e : pleRead x va n s = .ok r) :
    Memory.wf r.2.2 = true := by
  have hp := wf_prepare x ((pageVas va n).map fun v => (false, v)) h
  unfold pleRead at e
  split at e
  · exact Except.ok.inj e ▸ h
  · split at e
    · next e' => exact Except.ok.inj e ▸ wf_read (wf_at Ready.out e' hp) _ _ _
    · nomatch e
    · nomatch e

omit h in
theorem wf_readLists {x : EngCtx} {ts : List (Nat × Term)} {s : State} (h : Memory.wf s = true) {r : List Block × Bool × State}
    (e : readLists x ts s = .ok r) : Memory.wf r.2.2 = true := by
  induction ts generalizing s r with
  | nil => exact Except.ok.inj e ▸ h
  | cons t ts ih =>
    obtain ⟨a, ha, e⟩ := except_bind_ok e
    obtain ⟨b, hb, e⟩ := except_bind_ok e
    obtain rfl := Except.ok.inj e
    exact show Memory.wf b.2.2 = true from ih (wf_pleRead h ha) hb

omit h in
theorem wf_readLengths {x : EngCtx} {q : Row} {ds : List Nat} {s : State} (h : Memory.wf s = true)
    {r : List (Nat × Nat) × Bool × State} (e : readLengths x q ds s = .ok r) : Memory.wf r.2.2 = true := by
  induction ds generalizing s r with
  | nil => exact Except.ok.inj e ▸ h
  | cons d ds ih =>
    unfold readLengths at e
    dsimp only at e
    split at e
    · obtain ⟨a, ha, e⟩ := except_bind_ok e
      obtain ⟨b, hb, e⟩ := except_bind_ok e
      obtain rfl := Except.ok.inj ha
      obtain rfl := Except.ok.inj e
      exact show Memory.wf b.2.2 = true from ih h hb
    · obtain ⟨a, ha, e⟩ := except_bind_ok e
      obtain ⟨b, hb, e⟩ := except_bind_ok e
      obtain rfl := Except.ok.inj e
      exact show Memory.wf b.2.2 = true from ih (wf_pleRead h ha) hb

theorem wf_lexAll {x : EngCtx} {q : Row} {ts : List Term} {ps : List Posting} {ds : List Nat}
    {r : List (Nat × XVal) × Bool × State} (e : lexAll x q ts ps ds s = .ok r) : Memory.wf r.2.2 = true := by
  obtain ⟨a, ha, e⟩ := except_bind_ok e
  obtain rfl := Except.ok.inj e
  exact wf_readLengths h ha

omit h in
theorem wf_skips {x : EngCtx} {q : Row} {ts : List Term} {all : List Block} {b : Block} {a : Decoded}
    (h : Memory.wf a.s = true) {r : Bool × Bool × State} (e : skips x q ts all b a = .ok r) : Memory.wf r.2.2 = true := by
  obtain ⟨l, hl, e⟩ := except_bind_ok e
  dsimp only at e
  split at e
  · exact Except.ok.inj e ▸ wf_lexAll h hl
  · exact Except.ok.inj e ▸ wf_lexAll h hl

/-- The state that the decoding of blocks leaves, whether it stops or not. -/
def blocksOut : Except (PleStop × Decoded) Decoded → State
  | .error e => e.2.s
  | .ok a => a.s

omit h in
theorem wf_takeBlocks (x : EngCtx) (q : Row) (skip : Bool) (ts : List Term) (all bs : List Block) {a : Decoded}
    (h : Memory.wf a.s = true) : Memory.wf (blocksOut (takeBlocks x q skip ts all bs a)) = true := by
  induction bs generalizing a with
  | nil => exact h
  | cons b bs ih =>
    have hskip : ∀ {r : Bool × Bool × State},
        (if skip then skips x q ts all b a else .ok (false, false, a.s)) = .ok r → Memory.wf r.2.2 = true := by
      intro r e
      split at e
      · exact wf_skips h e
      · exact Except.ok.inj e ▸ h
    unfold takeBlocks
    split
    · exact h
    · next e => exact ih (hskip e)
    · next e =>
      have hs := hskip e
      dsimp only
      split
      · exact ih hs
      · split
        · exact hs
        · next e =>
          have hr := wf_pleRead hs e
          split
          · exact ih hr
          · exact ih hr

theorem wf_comes (x : EngCtx) {t : State} (ht : Memory.wf t = true) (zeroed : Bool) (n : Tally) (st : PleStop) :
    Memory.wf (st.comes x s t zeroed n).out = true := by
  cases st with
  | fails st => exact ht
  | walks d => exact wf_setDie h _ _

theorem wf_runQuery (m : Nat) (p : Push) : Memory.wf (runQuery m p s).out = true := by
  have hp := fun outs => wf_prepare (pleCtx s m p) outs h
  unfold runQuery
  dsimp only
  split
  · next e => exact wf_at Ready.out e (hp _)
  · next e => exact wf_at Ready.out e (hp _)
  · next s₀ e =>
    have h₀ : Memory.wf s₀ = true := wf_at Ready.out e (hp _)
    refine wf_ite_of PleEnd.out h₀ (wf_ite_of PleEnd.out h₀ ?_)
    split
    · exact wf_comes h₀ _ (wf_meetLines h₀ _ _ _) _ _ _
    · next e =>
      have hr := wf_pleRead (wf_meetLines h₀ _ _ _) e
      split
      · exact hr
      · next ts _ =>
        split
        · exact wf_comes h₀ _ hr _ _ _
        · next e =>
          have hb := fun skip all z => wf_takeBlocks (pleCtx s m p) p.line skip ts all (dealt all) (a := ⟨[], {}, z, _⟩)
            (wf_readLists hr e)
          split
          · next e => exact wf_comes h₀ _ (wf_at blocksOut e (hb _ _ _)) _ _ _
          · next e =>
            have ha := wf_at blocksOut e (hb _ _ _)
            split
            · exact wf_comes h₀ _ ha _ _ _
            · next e => exact wf_write (wf_lexAll ha e) _ _ _

theorem wf_runCheck (m : Nat) (p : Push) : Memory.wf (runCheck m p s).out = true := by
  have hp := fun outs => wf_prepare (pleCtx s m p) outs h
  unfold runCheck
  dsimp only
  split
  · next e => exact wf_at Ready.out e (hp _)
  · next e => exact wf_at Ready.out e (hp _)
  · next s₀ e =>
    have h₀ : Memory.wf s₀ = true := wf_at Ready.out e (hp _)
    split
    · exact wf_comes h₀ _ h₀ _ _ _
    · next e =>
      have hr := wf_pleRead h₀ e
      split
      · exact hr
      · next ts _ =>
        split
        · exact wf_comes h₀ _ hr _ _ _
        · next e =>
          have hb := fun skip all z => wf_takeBlocks (pleCtx s m p) p.line skip ts all (dealt all) (a := ⟨[], {}, z, _⟩)
            (wf_readLists hr e)
          split
          · next e => exact wf_comes h₀ _ (wf_at blocksOut e (hb _ _ _)) _ _ _
          · next e => exact wf_at blocksOut e (hb _ _ _)

theorem wf_pleRun (m : Nat) (p : Push) : Memory.wf (pleRun m p s).out = true :=
  wf_ite_of PleEnd.out h (wf_ite_of PleEnd.out h (wf_ite_of PleEnd.out (wf_ite_of PleEnd.out (wf_runCheck h m p) h)
    (wf_ite_of PleEnd.out (wf_runQuery h m p) h)))

theorem wf_pleGo (m n : Nat) (r : Run) : Memory.wf (pleGo m n r s) = true := by
  have hr := wf_pleRun h m r.push
  unfold pleGo
  split
  · next e => exact wf_at PleEnd.out e hr
  · next e => exact wf_pleEnd (wf_at PleEnd.out e hr) _ _ _ _ _ _

theorem wf_pleStep (kinds : Nat → Bool) (m i : Nat) : Memory.wf (pleStep kinds m i s) = true := by
  unfold pleStep
  dsimp only
  split
  · exact wf_ite (wf_pleGo h _ _ _) h
  · split
    · exact h
    · exact wf_ite (wf_pleGo (wf_setEngq h _ _) _ _ _) h

end

end Sys2Proof.Machine
end

section
/-! PROOF. Memory's canonical form (O7): links, clocks, start-up, scrubbing. -/

namespace Sys2Proof.Machine

section
variable {s : State} (h : Memory.wf s = true)
include h

theorem wf_changePort (f i : Nat) (p : LinkPort) : Memory.wf (s.changePort f i p) = true :=
  wf_ite (wf_setPort h _ _ _) (wf_notify (wf_setPort h _ _ _) _ _)

theorem wf_dropEnd (f i : Nat) : Memory.wf (dropEnd s f i) = true := wf_ite (wf_changePort (wf_setDie h _ _) _ _ _) h

theorem wf_loseLink (f g : Nat) : Memory.wf (s.loseLink f g) = true := h

theorem wf_linkDown (f i : Nat) : Memory.wf (linkDown f i s) = true := by
  unfold linkDown
  split
  · exact h
  · next g _ =>
    have hl := wf_loseLink (wf_dropEnd (wf_dropEnd h f i) g i) f g
    exact wf_ite (wf_reshardLinks (wf_of_mem (s := (dropEnd (dropEnd s f i) g i).loseLink f g) rfl hl)) h

theorem wf_linkUp (f g i : Nat) : Memory.wf (linkUp f g i s) = true := by
  have hf := wf_changePort h f i (upPort s i ((s.die f).emerg || (s.die g).emerg) f)
  exact wf_of_mem (s := ite (g == f) (s.changePort f i (upPort s i ((s.die f).emerg || (s.die g).emerg) f))
    ((s.changePort f i (upPort s i ((s.die f).emerg || (s.die g).emerg) f)).changePort g i
      (upPort s i ((s.die f).emerg || (s.die g).emerg) g))) rfl (wf_ite hf (wf_changePort hf _ _ _))

theorem wf_linkTraining (f a : Nat) (up : Bool) : Memory.wf (linkTraining f a up s) = true := by
  refine wf_ite h ?_
  split
  · exact wf_changePort h _ _ _
  · exact wf_ite (wf_changePort h _ _ _) (wf_ite h (wf_ite (wf_changePort h _ _ _) (wf_ite (wf_linkUp h _ _ _) h)))

theorem wf_askChange (f : Nat) (r : ChangeReq) : Memory.wf (s.ask f r) = true := wf_setDie h _ _

theorem wf_halvePort (f i : Nat) : Memory.wf (halvePort f i s) = true := wf_ite h (wf_ite (wf_linkDown h _ _) (wf_askChange h _ _))

theorem wf_laneFailure (f a : Nat) : Memory.wf (laneFailure f a s) = true := wf_halvePort h _ _

theorem wf_cancelReqs (f : Nat) (pick : ChangeReq → Bool) : Memory.wf (cancelReqs f pick s) = true :=
  wf_foldl (fun _ _ ht => wf_notify ht _ _) _ (wf_setDie h _ _)

theorem wf_setWidth (f i w : Nat) : Memory.wf (setWidth f i w s) = true := by
  unfold setWidth
  split
  · exact h
  · exact wf_ite (wf_changePort h _ _ _) (wf_changePort (wf_changePort h _ _ _) _ _ _)

theorem wf_applyClocks (i f : Nat) : Memory.wf (applyClocks i s f) = true := by
  unfold applyClocks
  dsimp only
  split
  · exact h
  · exact wf_setDie h _ _

theorem wf_applyWidths (i f : Nat) : Memory.wf (applyWidths i s f) = true := by
  unfold applyWidths
  dsimp only
  split
  · exact h
  · exact wf_setWidth (wf_setDie h _ _) _ _ _

theorem wf_changeWindow (f a : Nat) : Memory.wf (changeWindow f a s) = true := by
  unfold changeWindow
  dsimp only
  split
  · exact h
  · exact wf_ite h (wf_ite (wf_foldl (fun _ _ ht => wf_cancelReqs ht _ _) _ h)
      (wf_foldl (fun _ _ ht => wf_applyWidths ht _ _) _ (wf_foldl (fun _ _ ht => wf_applyClocks ht _ _) _ h)))

theorem wf_enterEmergency (f : Nat) : Memory.wf (enterEmergency f s) = true := by
  refine wf_notify (wf_setDie (wf_foldl (fun t i ht => wf_ite (wf_setWidth (wf_setPort ht _ _ _) _ _ _) ht) _
    (wf_foldl (fun t i ht => ?_) _ (wf_cancelReqs h _ _))) _ _) _ _
  split
  · exact wf_ite ht (wf_cancelReqs ht _ _)
  · exact ht

theorem wf_thermalEmergency (f : Nat) (temp : BitVec 12) : Memory.wf (thermalEmergency f temp s) = true :=
  wf_ite (wf_enterEmergency (wf_setDie h _ _) _) (wf_setDie h _ _)

theorem wf_emergencyExit (f : Nat) : Memory.wf (emergencyExit f s) = true := by
  unfold emergencyExit
  dsimp only
  split
  · refine wf_ite (wf_notify (wf_foldl (fun t i ht => ?_) _ (wf_askChange (wf_setDie h _ _) _ _)) _ _) h
    split
    · exact wf_ite (wf_askChange (wf_setPort ht _ _ _) _ _) (wf_setPort ht _ _ _)
    · exact wf_setPort ht _ _ _
  · exact h

theorem wf_takeWire (f i : Nat) (x : Flit) : Memory.wf (takeWire f i x s) = true := by
  unfold takeWire
  split
  · split
    · exact wf_ite (wf_setPort h _ _ _) h
    · exact h
  · exact h

theorem wf_replayFrom (f i : Nat) : Memory.wf (replayFrom f i s) = true := by
  unfold replayFrom
  split
  · exact wf_setPort h _ _ _
  · exact h

theorem wf_flitDeliver (die i : Nat) (f : Flit) : Memory.wf (flitDeliver die i f s) = true :=
  wf_ite (wf_sendFlit (wf_setPort h _ _ _) _ _ _ _) (wf_setPort h _ _ _)

theorem wf_flitDrop (die i : Nat) (f : Flit) : Memory.wf (flitDrop die i f s) = true :=
  wf_ite (wf_ite h (wf_replayFrom (wf_setPort h _ _ _) _ _))
    (wf_ite (wf_halvePort (wf_replayFrom (wf_setPort h _ _ _) _ _) _ _) (wf_replayFrom (wf_setPort h _ _ _) _ _))

theorem wf_flitReceive (die a : Nat) (f : Flit) : Memory.wf (flitReceive die a f s) = true :=
  wf_ite h (wf_ite (wf_flitDeliver (wf_takeWire h _ _ _) _ _ _) (wf_flitDrop (wf_takeWire h _ _ _) _ _ _))

theorem wf_ptpMessage (p port : Nat) (offset : BitVec 32) (adjust : Bool) : Memory.wf (ptpMessage p port offset adjust s) = true :=
  wf_ite (wf_of_mem (s := s) rfl h) (wf_setPkg h _ _)

theorem wf_ptpMasterLoss (p : Nat) : Memory.wf (ptpMasterLoss p s) = true := wf_setPkg h _ _

theorem wf_trainInner (p : Nat) : Memory.wf (trainInner p s) = true := by
  refine wf_foldl (fun t d ht => wf_foldl (fun u i hu => ?_) _ ht) _ h
  dsimp only
  split
  · exact wf_ite (wf_linkUp hu _ _ _) hu
  · exact hu

theorem wf_trainOuter (p : Nat) : Memory.wf (trainOuter p s) = true :=
  wf_foldl (fun _ _ ht => wf_foldl (fun _ _ hu => wf_changePort hu _ _ _) _ ht) _ h

theorem wf_stepWork (p n : Nat) (digest : BitVec 256) (v : BootVals) : Memory.wf (stepWork p n digest v s) = true := by
  unfold stepWork
  dsimp only
  split
  · exact wf_setPkg h _ _
  · exact wf_setPkg h _ _
  · exact wf_setPkg (wf_hbmSplitWrite h _ _) _ _
  · exact wf_trainInner (wf_setPkg h _ _) _
  · exact wf_trainOuter h _
  · exact wf_setPkg h _ _
  · exact wf_setPkg h _ _
  · exact h

theorem wf_cutOff (p : Nat) : Memory.wf (cutOff p s) = true :=
  wf_foldl (fun _ _ ht => wf_ite (wf_endColl ht _ _) ht) _
    (wf_foldl (fun _ _ ht => wf_foldl (fun _ _ hu => wf_linkDown hu _ _) _ ht) _ h)

theorem wf_restart (p : Nat) : Memory.wf (restart p s) = true := wf_of_mem (s := cutOff p s) rfl (wf_cutOff h p)

theorem wf_boot (p : Nat) (digest : BitVec 256) (ok : Bool) (v : BootVals) : Memory.wf (boot p digest ok v s) = true :=
  wf_ite (wf_restart h p) (wf_ite h (wf_ite (wf_setPkg h _ _) (wf_ite (wf_restart (wf_setPkg h _ _) p)
    (wf_ite (wf_stepWork (wf_setPkg h _ _) _ _ _ _) (wf_restart (wf_setPkg h _ _) p)))))

theorem wf_scrub (m pa : Nat) : Memory.wf (scrub m pa s) = true := wf_ite (wf_meetGranule h _) h

end

end Sys2Proof.Machine
end

section
/-! PROOF. Memory's canonical form (O7): a step of the machine, by the rules above. -/

namespace Sys2Proof.Machine

/-- Of an outcome that is a next state, that its memory is canonical. -/
def OutcomeWf : Host.Outcome State Fault Refusal → Prop
  | .next s => Memory.wf s = true
  | _ => True

section
variable {s : State} (h : Memory.wf s = true)
include h

/-- The steps that are of no slot of a bundle. -/
theorem outcomeWf_exec_machine (i : Instr) (hi : i.slots.head? = none) : OutcomeWf (exec i s) := by
  cases i with
  | bundleIssue c => exact wf_issueBundle h c
  | satSignalApply c => exact wf_satSignalApply h c
  | scalarResultLand c _ | rowResultLand c _ | scratchpadLoadLand c _ | atomicReturn c _ | sampleLand c _ =>
    exact wf_drain c (wf_landStep h c _ _)
  | walkEnd f n => exact wf_walkEnd h f n
  | bankWake c => exact wf_setCore h c _
  | portResultReady c p => exact wf_setCore h c _
  | mmaRetire c => exact wf_drain c (wf_mmaRetire h c)
  | mOutputLand c n => exact wf_drain c (wf_mOutputLand h c n)
  | ldscWriteLand c => exact wf_landed h c
  | storeReachesBank c n => exact wf_drain c (wf_storeReachesBank h c n)
  | storeReachesPointOfCoherence c n => exact wf_drain c (wf_storeReachesPoc h c n)
  | globalLoadReturn c n => exact wf_drain c (wf_globalLoadReturn h c n)
  | sendArrival c n => exact wf_drain c (wf_sendArrival h c n)
  | barrierRelease global n => exact wf_barrierRelease h global n
  | ovlEnd c => exact wf_drain c (wf_ovlEnd h c)
  | launchPlacement p => exact wf_launchPlacement h p
  | coreHalt c => exact wf_coreHalt h c
  | launchEnd l => exact wf_launchEnd h l
  | drainTimeout l => exact wf_drainTimeout h l
  | launchResume l => exact wf_launchResume h l
  | launchDrain q => exact wf_launchDrain h q
  | watchdog l => exact wf_watchdog h l
  | cowResolve c => exact wf_cowResolve h c
  | trapResume c => exact wf_trapResume h c
  | trapSkip c => exact wf_trapSkip h c
  | trapAnswerKill c => exact wf_trapAnswerKill h c
  | pumphouseNop q => exact wf_control h q _ fun _ _ ht => wf_ctlEnd ht q
  | launch q => exact wf_control h q _ fun x _ ht => wf_wordLaunch ht q x
  | waitsem q => exact wf_control h q _ fun x _ ht => wf_wordWaitsem ht q x
  | sigsem q => exact wf_control h q _ fun x _ ht => wf_wordSigsem ht q x
  | sigcl q => exact wf_control h q _ fun x _ ht => wf_wordSigcl ht q x
  | waittime q => exact wf_control h q _ fun x _ ht => wf_wordWaittime ht q x
  | preempt q => exact wf_control h q _ fun x _ ht => wf_wordPreempt ht q x
  | snap q => exact wf_control h q _ fun x _ ht => wf_wordSnap ht q x
  | inval q => exact wf_control h q _ fun x _ ht => wf_wordInval ht q x
  | kill q => exact wf_control h q _ fun x _ ht => wf_wordKill ht q x
  | fence q => exact wf_control h q _ fun x _ ht => wf_wordFence ht q x
  | stamp q => exact wf_control h q _ fun x _ ht => wf_wordStamp ht q x
  | dieSlot q => exact wf_dieSlot h q
  | syncSlotEntry p n => exact wf_syncSlotEntry h p n
  | queueMapping p => exact wf_queueMapping h p
  | qringWrite q v => exact wf_qringWrite h q v
  | qptrTailWrite q tail => exact wf_qptrTailWrite h q tail
  | queueEnable q qpri => exact wf_queueEnable h q qpri
  | queueDisable q qpri => exact wf_queueDisable h q qpri
  | hbmSplitWrite p v => exact wf_hbmSplitWrite h p v
  | clkCodeWrite f v => exact wf_clkCodeWrite h f v
  | regrd p r => exact wf_regrd h p r
  | regwr p r => exact wf_regwr h p r
  | memrd p r => exact wf_memrd h p r
  | memwr p r => exact wf_memwr h p r
  | attestReport p r => exact wf_attestReport h p r
  | attestPublicKey p r => exact wf_attestPublicKey h p r
  | cpyCommand cl n | cpyfCommand cl n | cpyhCommand cl n => exact wf_copyCommand h _ cl n
  | cpytTimedStart cl => exact wf_cpytTimedStart h cl
  | bxchCommand f n => exact wf_bxchCommand h f n
  | bermFaceArrival n => exact wf_bermFaceArrival h n
  | collectiveMatch f n => exact wf_collectiveMatch h f n
  | stagingGrant n => exact wf_stagingGrant h n
  | sluicePacket n => exact wf_sluicePacket h n
  | chunkFinish n f c => exact wf_chunkFinish h n f c
  | treeRecovery n => exact wf_treeRecovery h n
  | reshardRow n r => exact wf_reshardRow h n r
  | reshardCommit n => exact wf_reshardCommit h n
  | query m n | check m n => exact wf_pleStep h _ m n
  | flitReceive f a x => exact wf_flitReceive h f a x
  | linkTraining f a up => exact wf_linkTraining h f a up
  | linkDown f n => exact wf_linkDown h f n
  | changeWindow f a => exact wf_changeWindow h f a
  | ptpMessage p n o adjust => exact wf_ptpMessage h p n o adjust
  | ptpMasterLoss p => exact wf_ptpMasterLoss h p
  | thermalEmergency f temp => exact wf_thermalEmergency h f temp
  | emergencyExit f => exact wf_emergencyExit h f
  | boot p digest ok v => exact wf_boot h p digest ok v
  | scrub m pa => exact wf_scrub h m pa
  | laneFailure f a => exact wf_laneFailure h f a
  | _ => cases hi

theorem outcomeWf_exec (i : Instr) : OutcomeWf (exec i s) := by
  cases hi : i.slots.head? with
  | none => exact outcomeWf_exec_machine h i hi
  | some sl => exact exec_slot hi s ▸ wf_issueOne h sl i

theorem outcomeWf_step : OutcomeWf (step s) := by
  unfold step
  split
  · refine outcomeWf_exec ?_ _
    exact h
  · split
    · refine outcomeWf_exec ?_ _
      exact h
    · split
      · refine outcomeWf_exec ?_ _
        exact h
      · exact h

end

/-- Settles O7: every operation's meaning is built of the steps above, each of which leaves memory canonical, whatever state it is
taken from. -/
theorem stepKeepsMemoryCanonical : Obligations.StepKeepsMemoryCanonical := by
  unfold Obligations.StepKeepsMemoryCanonical
  intro s s' h e
  exact (e ▸ outcomeWf_step h : OutcomeWf (.next s'))

end Sys2Proof.Machine
end

section
/-! PROOF. What the machine holds at reset (O6). -/

namespace Sys2Proof.Machine

/-- Settles O6: no table of the reset state has an entry, so every register is that of a default record. -/
theorem resetState : Obligations.ResetState := by
  have hregs : ∀ (c : Nat) (n : BitVec 5), (State.reset.core c).regs.rd n = 0 := fun c n => by
    unfold Regs.rd
    split
    · rfl
    · rfl
  exact ⟨fun _ => ⟨rfl, rfl, rfl, rfl, rfl, rfl, rfl, rfl, rfl, rfl⟩, hregs, fun _ => ⟨rfl, rfl, fun _ => rfl⟩,
    fun _ => ⟨rfl, rfl, rfl, rfl, rfl⟩, fun _ => ⟨rfl, rfl, rfl, rfl⟩, fun _ _ => ⟨rfl, rfl, rfl, rfl⟩, rfl, rfl⟩

end Sys2Proof.Machine
end

section
/-! PROOF. SLUICE_PACKET (O43; R22, R23, R356, R357): the header that a router passes on, what a router does with a packet by its hop,
and how a packet comes to a router. -/

namespace Sys2Proof.Machine

/-! The header passed on. -/

theorem getLsbD_shiftHeader (h : BitVec 256) (i : Nat) : (shiftHeader h).getLsbD i =
    if i < 72 then (h.extractLsb' 0 72 >>> 6).getLsbD i
    else if i < 76 then (h.extractLsb' 72 4 - 1).getLsbD (i - 72) else h.getLsbD i := by
  have hroute : (h.extractLsb' 0 72 >>> 6).toNat < 2 ^ 72 := (h.extractLsb' 0 72 >>> 6).isLt
  have hhop := (h.extractLsb' 72 4 - 1).isLt
  unfold shiftHeader
  rw [BitVec.getLsbD_or, BitVec.getLsbD_shiftLeft, BitVec.getLsbD_ushiftRight, BitVec.getLsbD_ofNat,
    Nat.add_comm (h.extractLsb' 0 72 >>> 6).toNat, Nat.mul_comm _ (2 ^ 72), Nat.testBit_two_pow_mul_add _ hroute]
  by_cases h72 : i < 72
  · simp [h72, show i < 76 by omega, show i < 256 by omega, BitVec.getLsbD]
  · by_cases h76 : i < 76
    · simp [h72, h76, show i < 256 by omega, BitVec.getLsbD]
    · have hlow : (h.extractLsb' 72 4 - 1).toNat.testBit (i - 72) = false :=
        Nat.testBit_lt_two_pow (lt_of_lt_of_le hhop (Nat.pow_le_pow_right (by decide) (by omega)))
      rw [if_neg h72, if_neg h72, if_neg h76, hlow]
      by_cases h256 : i < 256
      · simp [h76, h256, show 76 + (i - 76) = i by omega]
      · simp [h256, BitVec.getLsbD_of_ge _ _ (Nat.le_of_not_lt h256)]

theorem route_shiftHeader (p : Packet) : Packet.route { p with hdr := shiftHeader p.hdr } = p.route >>> 6 := by
  refine BitVec.eq_of_getLsbD_eq fun i hi => ?_
  simp only [Packet.route, BitVec.getLsbD_extractLsb', getLsbD_shiftHeader, Nat.zero_add, hi, decide_true, Bool.true_and, if_true]

theorem nhop_shiftHeader (p : Packet) : Packet.nhop { p with hdr := shiftHeader p.hdr } = p.nhop - 1 := by
  refine BitVec.eq_of_getLsbD_eq fun i hi => ?_
  simp only [Packet.nhop, BitVec.getLsbD_extractLsb', getLsbD_shiftHeader, hi, decide_true, Bool.true_and]
  rw [if_neg (by omega), if_pos (by omega), Nat.add_sub_cancel_left]

theorem shiftHeader_ushiftRight (h : BitVec 256) : shiftHeader h >>> 76 = h >>> 76 := by
  refine BitVec.eq_of_getLsbD_eq fun i _ => ?_
  simp only [BitVec.getLsbD_ushiftRight, getLsbD_shiftHeader]
  rw [if_neg (by omega), if_neg (by omega)]

/-! What a router does. -/

theorem port_eq (p : Packet) : (p.route.extractLsb' 0 3).toNat = p.route.toNat % 8 := by
  simp [BitVec.extractLsb'_toNat]

theorem op_eq (p : Packet) : (p.route.extractLsb' 3 3).toNat = p.route.toNat / 8 % 8 := by
  simp [BitVec.extractLsb'_toNat, Nat.shiftRight_eq_div_pow]

theorem badHop_eq (s : State) (f : Nat) : s.badHop f =
    s.setDie f { s.die f with badhop := if (s.die f).badhop = 0xFFFF then (s.die f).badhop else (s.die f).badhop + 1 } := by
  simp [State.badHop, sat16]

/-- A packet as its router passes it on. -/
def Packet.hopped (p : Packet) : Packet := { p with hdr := shiftHeader p.hdr }

/-- What FWD makes of a packet: it goes on by the port that its first hop names, or is counted where there is none. -/
def forward (p : Packet) (s : State) : State :=
  if p.route.toNat % 8 < 6 then
    { s with packets := s.packets ++ [{ p.hopped with
      frm := p.peer, peer := s.neighbour p.peer (p.route.toNat % 8 / 2) (p.route.toNat % 8 % 2 == 0) }] }
  else s.badHop p.peer

theorem forward_open {p : Packet} (h : p.route.toNat % 8 < 6) (s : State) : forward p s = { s with packets := s.packets ++
    [{ p.hopped with
      frm := p.peer, peer := s.neighbour p.peer (p.route.toNat % 8 / 2) (p.route.toNat % 8 % 2 == 0) }] } := if_pos h

theorem forward_closed {p : Packet} (h : 6 ≤ p.route.toNat % 8) (s : State) : forward p s = s.badHop p.peer := if_neg (by omega)

theorem routePacket_spent {p : Packet} (h : p.nhop = 0) (s : State) : routePacket p s = s.badHop p.peer := by
  simp [routePacket, h]

/-- What an operation of a hop makes of a packet. -/
def routeBy (op : Nat) (p : Packet) (s : State) : State :=
  match op with
  | 0 => forward p s
  | 1 => handPart true p.hopped s
  | 2 => handPart false p.hopped s
  | 3 => forward p (handPart false p.hopped s)
  | 4 => handControl p.hopped s
  | _ => s.badHop p.peer

theorem routePacket_live {p : Packet} (h : p.nhop ≠ 0) (s : State) : routePacket p s = routeBy (p.route.toNat / 8 % 8) p s := by
  unfold routePacket
  rw [if_neg (by simpa using h)]
  dsimp only
  rw [op_eq, port_eq]
  rfl

theorem routeBy_reserved {op : Nat} (h : 5 ≤ op) (p : Packet) (s : State) : routeBy op p s = s.badHop p.peer := by
  unfold routeBy
  split <;> first | omega | rfl

/-- DLV at a member of a started collective that has the packet's chunk under way: the member has the payload, and the chunk its
flags where it is audited. -/
theorem handPart_dlv {p : Packet} {s : State} {n : Nat} {c : Coll} {r : ChunkRun}
    (hc : (numbered 0 s.colls).find? (fun e => e.2.started && p.isOf e.2) = some (n, c))
    (hr : c.runs.find? (fun r => r.chunk == p.chunk && r.tree == p.tree) = some r) :
    handPart false p s = s.setColl n { c with runs := c.runs.map fun x => if x.chunk == r.chunk then { r with
      afl := if p.aud then r.afl ||| p.afl else r.afl
      at' := r.at'.map fun m => if m.die = p.peer then
        { m with res := m.res ++ [⟨p.src, p.eoff, p.wire, p.scales, p.data⟩] } else m } else x } := by
  have hafl : (r.afl ||| if p.aud then p.afl else 0) = if p.aud then r.afl ||| p.afl else r.afl := by
    split <;> simp
  rw [← hafl]
  simp [handPart, hc, hr]

/-! How a packet comes to its router. -/

theorem sendPacket_packets {f i : Nat} {hdr : BitVec 256} {data : BitVec 2048} {s u : State} {q : BitVec 12}
    (e : sendPacket f i hdr data s = some (q, u)) : u.packets = s.packets := by
  unfold sendPacket at e
  split at e
  · nomatch e
  · obtain ⟨-, rfl⟩ := Prod.mk.inj (Option.some.inj e)
    rfl

theorem takePacket_packets {f i : Nat} {q : BitVec 12} {hdr : BitVec 256} {data : BitVec 2048} {s u : State}
    (e : takePacket f i q s = some (hdr, data, u)) : u.packets = s.packets := by
  unfold takePacket at e
  dsimp only at e
  split at e
  · obtain ⟨-, -, rfl⟩ : _ ∧ _ ∧ _ = u := by simpa using e
    rfl
  · nomatch e

section
variable {s : State} {i : Nat} {p : Packet} (hp : s.packets[i]? = some p)
include hp

/-- Whether a packet's link is live with none of its chunk and tree before it on that link. -/
def PacketReady (s : State) (i : Nat) (p : Packet) : Prop :=
  s.joined p.frm p.peer = true ∧ (s.packets.take i).any (fun q =>
    q.frm == p.frm && q.peer == p.peer && q.cid == p.cid && q.chunk == p.chunk && q.tree == p.tree) = false

theorem sluicePacket_waits (h : ¬ PacketReady s i p) : sluicePacket i s = s := by
  unfold sluicePacket
  rw [hp]
  dsimp only
  rw [if_pos]
  simpa [PacketReady, imp_iff_not_or] using h

/-- A packet that is ready and comes to its router is routed. -/
theorem sluicePacket_comes (h : PacketReady s i p) {u : State} {p' : Packet} (hx : crossLink i p s = (u, some p')) :
    sluicePacket i s = routePacket p' u := by
  unfold sluicePacket
  rw [hp]
  dsimp only
  rw [if_neg (by simpa [PacketReady] using h), hx]

theorem sluicePacket_crosses (h : PacketReady s i p) {u : State} (hx : crossLink i p s = (u, none)) : sluicePacket i s = u := by
  unfold sluicePacket
  rw [hp]
  dsimp only
  rw [if_neg (by simpa [PacketReady] using h), hx]

end

theorem crossLink_within {s : State} {i : Nat} {p : Packet} (h : s.external p.frm p.peer = none) :
    crossLink i p s = ({ s with packets := removeAt s.packets i }, some p) := by
  unfold crossLink
  rw [h]

section
variable {s : State} {i a : Nat} {p : Packet} (h : s.external p.frm p.peer = some a)
include h

theorem crossLink_cut (hc : p.cut = none) : crossLink i p s = (match sendPacket p.frm (3 + a) p.hdr p.data s with
    | some (q, u) => { u with packets := replaceAt s.packets i { p with cut := some q } }
    | none => s, none) := by
  unfold crossLink
  rw [h, hc]
  dsimp only
  cases e : sendPacket p.frm (3 + a) p.hdr p.data s with
  | none => rfl
  | some r =>
    obtain ⟨q, u⟩ := r
    dsimp only
    rw [sendPacket_packets e]

theorem crossLink_onWay {q : BitVec 12} (hc : p.cut = some q) (ht : takePacket p.peer (3 + a) q s = none) :
    crossLink i p s = (s, none) := by
  unfold crossLink
  rw [h, hc]
  dsimp only
  rw [ht]

theorem crossLink_arrives {q : BitVec 12} {hdr : BitVec 256} {data : BitVec 2048} {u : State} (hc : p.cut = some q)
    (ht : takePacket p.peer (3 + a) q s = some (hdr, data, u)) :
    crossLink i p s = ({ u with packets := removeAt s.packets i }, some { p with hdr, data, cut := none }) := by
  unfold crossLink
  rw [h, hc]
  dsimp only
  rw [ht]
  dsimp only
  rw [takePacket_packets ht]

end

/-- Settles O43: a packet that is not ready stays; a ready one crosses its link, at once within a package and flit by flit over an
external one, and its router acts by its first hop. -/
theorem sluicePackets : Obligations.SluicePackets := by
  refine ⟨fun s i => ⟨_, rfl⟩, fun s i p hp => ⟨?_, ?_, ?_⟩,
    fun p => ⟨route_shiftHeader p, nhop_shiftHeader p, shiftHeader_ushiftRight p.hdr⟩⟩
  · intro hready
    exact congrArg _ (sluicePacket_waits hp hready)
  · intro hready hext
    have hroute : exec (.sluicePacket i) s = .next (routePacket p { s with packets := removeAt s.packets i }) :=
      congrArg _ (sluicePacket_comes hp hready (crossLink_within hext))
    refine ⟨fun hn => ?_, fun hn hop => ?_, fun hn hop => ?_, fun hn hop hport => ?_, fun hn hop hport => ?_, fun hn hop => ?_,
      fun hn hop hport => ?_, fun n c r hn hop hc hr => ?_⟩
    · rw [hroute, routePacket_spent hn, badHop_eq]
      rfl
    · rw [hroute, routePacket_live hn, hop]
      rfl
    · rw [hroute, routePacket_live hn, routeBy_reserved hop, badHop_eq]
      rfl
    · rw [hroute, routePacket_live hn, hop]
      exact congrArg _ (forward_open hport _)
    · rw [hroute, routePacket_live hn, hop]
      exact congrArg _ ((forward_closed hport _).trans (badHop_eq _ _))
    · rw [hroute, routePacket_live hn, hop]
      rfl
    · rw [hroute, routePacket_live hn, hop]
      exact congrArg _ (forward_open hport _)
    · rw [hroute, routePacket_live hn, hop]
      exact congrArg _ (handPart_dlv hc hr)
  · intro a hready hext
    refine ⟨fun hc => ?_, fun q hc ht => ?_, fun q hdr data u hc ht => ?_⟩
    · exact congrArg _ (sluicePacket_crosses hp hready (crossLink_cut hext hc))
    · exact congrArg _ (sluicePacket_crosses hp hready (crossLink_onWay hext hc ht))
    · exact congrArg _ (sluicePacket_comes hp hready (crossLink_arrives hext hc ht))

end Sys2Proof.Machine
end

section
/-! PROOF. Links and flits (O57; R22, R23, R445 to R447). -/

namespace Sys2Proof.Machine

/-! Ports and links. -/

theorem changePort_eq (s : State) (f i : Nat) (p : LinkPort) : s.changePort f i p =
    if p.state + 4 * p.width = (s.port f i).state + 4 * (s.port f i).width then s.setPort f i p
    else State.notify (s.setPort f i p) (f / 8) ⟨4, f % 8, i, p.state + 4 * p.width⟩ := by
  simp only [State.changePort, LinkPort.field, beq_iff_eq, diePkg]

theorem setPort_setDie (s : State) (f i : Nat) (d : Die) (p : LinkPort) :
    (s.setDie f d).setPort f i p = s.setDie f { d with ports := d.ports.put i p } := by
  rw [State.setPort, State.setDie_same, State.setDie_twice]

theorem port_setDie (s : State) (f i : Nat) (d : Die) : (s.setDie f d).port f i = d.ports.get {} i := by
  rw [State.port, State.setDie_same]

/-- A dropped end keeps its width, so that its state alone changes its LINKS field. -/
theorem dropEnd_eq_endDrops (s : State) (f i : Nat) : dropEnd s f i = endDrops f i s := by
  unfold dropEnd endDrops
  dsimp only
  by_cases h : (s.port f i).state = 1
  · have hfield : 0 + 4 * (s.port f i).width ≠ (s.port f i).state + 4 * (s.port f i).width := by omega
    rw [if_pos (beq_iff_eq.2 h), if_pos h, changePort_eq, setPort_setDie, port_setDie]
    refine (if_neg hfield).trans ?_
    simp [LinkPort.fresh]
  · rw [if_neg (by simpa using h), if_neg h]

theorem linkDown_of_up {s : State} {f i g : Nat} (hg : s.farEnd f i = some g) (h : (s.port f i).state = 1 ∨ (s.port g i).state = 1) :
    linkDown f i s = reshardLinks { (endDrops g i (endDrops f i s)).loseLink f g with
      lgen := (endDrops g i (endDrops f i s)).lgen + 1 } := by
  unfold linkDown
  rw [hg]
  dsimp only
  rw [if_pos (by simpa using h), dropEnd_eq_endDrops, dropEnd_eq_endDrops]
  rfl

theorem linkDown_of_not_up {s : State} {f i g : Nat} (hg : s.farEnd f i = some g) (hf : (s.port f i).state ≠ 1)
    (hg' : (s.port g i).state ≠ 1) : linkDown f i s = s := by
  unfold linkDown
  rw [hg]
  simp [hf, hg']

/-- A port as it comes UP, its link's other end at a die. -/
def portUp (s : State) (i h g : Nat) : LinkPort :=
  let p := { (s.port h i).fresh with state := 1 }
  if 3 ≤ i ∧ ((s.die h).emerg = true ∨ (s.die g).emerg = true) then
    { p with width := 2, held := if (s.die h).emerg then p.held <|> some p.width else p.held } else p

theorem upPort_eq {s : State} {i h g : Nat} {narrow : Bool}
    (hn : narrow = true ↔ (s.die h).emerg = true ∨ (s.die g).emerg = true) : upPort s i narrow h = portUp s i h g := by
  simp only [upPort, portUp, Bool.and_eq_true, decide_eq_true_eq, hn]

theorem linkUp_eq (s : State) {f g i : Nat} (h : f ≠ g) : linkUp f g i s =
    let u := (s.changePort f i (portUp s i f g)).changePort g i (portUp s i g f)
    { u with lgen := u.lgen + 1 } := by
  unfold linkUp
  dsimp only
  rw [upPort_eq (g := g) (by simp), upPort_eq (g := f) (by simp [or_comm]), if_neg (by simpa using h.symm)]

/-! Trainings. -/

section
variable {s : State} {f a e : Nat} (he : trainPort a = e)
include he

theorem linkTraining_left (h : s.leftDown f e = true) (up : Bool) : linkTraining f a up s = s := by
  simp [linkTraining, he, h]

variable (h : s.leftDown f e = false)
include h

theorem linkTraining_closed (hg : s.farEnd f e = none) (up : Bool) :
    linkTraining f a up s = s.changePort f e { s.port f e with state := 3 } := by
  simp [linkTraining, he, h, hg]

theorem linkTraining_open {g : Nat} (hg : s.farEnd f e = some g) (up : Bool) : linkTraining f a up s =
    if (s.port f e).state = 2 ∧ (s.port f e).since + 32000000 ≤ s.ticks (f / 8) then s.changePort f e { s.port f e with state := 0 }
    else if up = false then s
    else if (s.port f e).state = 0 then s.changePort f e { s.port f e with state := 2, since := s.ticks (f / 8) }
    else if (s.port f e).state = 2 ∧ (s.port g e).state = 2 ∧ s.agrees f g = true ∧ s.agrees g f = true then linkUp f g e s
    else s := by
  simp [linkTraining, he, h, hg, and_assoc, trainTicks, diePkg]

end

/-! Lanes. -/

theorem halvePort_down {s : State} {f i : Nat} (h : (s.port f i).state ≠ 1) : halvePort f i s = s := by
  simp [halvePort, h]

theorem halvePort_narrow {s : State} {f i : Nat} (h : (s.port f i).state = 1) (hw : 2 ≤ s.widthAsked f i) :
    halvePort f i s = linkDown f i s := by
  simp [halvePort, h, hw]

theorem halvePort_wide {s : State} {f i : Nat} (h : (s.port f i).state = 1) (hw : s.widthAsked f i < 2) :
    halvePort f i s = s.ask f ⟨some i, s.widthAsked f i + 1, s.window f⟩ := by
  simp [halvePort, h, hw]

theorem leftDown_iff {s : State} {f i : Nat} : s.leftDown f i = true ↔ 3 ≤ i ∧ (s.pkg (f / 8)).bmode.getD 4 0 = 2 := by
  simp [State.leftDown, diePkg]

theorem linkStepsClaim : LinkStepsClaim := by
  intro s f g i a
  refine ⟨fun j p => changePort_eq s f j p, fun hg h => congrArg _ (linkDown_of_up hg h),
    fun hg hf h => congrArg _ (linkDown_of_not_up hg hf h), fun hl ok => congrArg _ (linkTraining_left rfl (leftDown_iff.2 hl) ok),
    fun hl hg ok => congrArg _ (linkTraining_closed rfl (Bool.eq_false_iff.2 fun h => hl (leftDown_iff.1 h)) hg ok), fun hl hg => ?_,
    fun h hw => congrArg _ (halvePort_wide h hw), fun h hw => congrArg _ (halvePort_narrow h hw),
    fun h => congrArg _ (halvePort_down h)⟩
  have hopen := linkTraining_open (e := if a < 3 then 3 + a else a % 3) rfl (Bool.eq_false_iff.2 fun h => hl (leftDown_iff.1 h)) hg
  refine ⟨fun ok h2 hlate => congrArg _ ((hopen ok).trans (if_pos ⟨h2, hlate⟩)),
    fun h => congrArg _ ((hopen false).trans ((if_neg h).trans (if_pos rfl))), fun h0 => ?_, fun h2 hlate hfg hg2 hag hga => ?_,
    fun h2 hlate h => ?_⟩
  · refine congrArg _ ((hopen true).trans ?_)
    rw [if_neg fun h => absurd (h0.symm.trans h.1) (by decide), if_neg (by decide), if_pos h0]
  · refine congrArg _ ((hopen true).trans ?_)
    rw [if_neg fun h => hlate h.2, if_neg (by decide), if_neg fun h => absurd (h2.symm.trans h) (by decide),
      if_pos ⟨h2, hg2, hag, hga⟩]
    exact linkUp_eq s hfg
  · refine congrArg _ ((hopen true).trans ?_)
    rw [if_neg fun h => hlate h.2, if_neg (by decide), if_neg fun h => absurd (h2.symm.trans h) (by decide), if_neg]
    rintro ⟨-, hg2, hag, hga⟩
    simp [hg2, hag, hga] at h

/-! Flits. -/

section
variable {s : State} {f i : Nat} {x : Flit}

theorem flitDeliver_eq (s : State) (f i : Nat) (x : Flit) : flitDeliver f i x s =
    let p := s.port f i
    let out := p.out.filter fun y => 2048 ≤ (x.ack - y.seq).toNat
    let u := s.setPort f i { p with
      next := p.next + 1, drop := false, fails := 0, acked := x.ack, out
      rx := if x.kind = 1 then p.rx ++ [(x.seq, x.vc, x.body)] else p.rx }
    if x.kind = 1 ∧ out.length < replayRoom then sendFlit f i 0 0 u else u := by
  simp only [flitDeliver, LinkPort.acknowledge, Bool.and_eq_true, beq_iff_eq]
  exact if_congr (and_congr_right' decide_eq_true_iff) rfl rfl

theorem flitDrop_good (h : flitOk x = true) : flitDrop f i x s =
    if 2048 ≤ (x.seq - (s.port f i).next).toNat ∨ (s.port f i).drop = true then s
    else replayFrom f i (s.setPort f i { s.port f i with drop := true }) := by
  simp only [flitDrop, h, if_true, Bool.or_eq_true, decide_eq_true_eq]

/-- A bad flit that is not the one expected adds to no row of failures. -/
theorem flitDrop_bad_other (h : flitOk x = false) (hx : x.seq ≠ (s.port f i).next) (hf : (s.port f i).fails ≠ 16) :
    flitDrop f i x s = replayFrom f i (s.setPort f i { s.port f i with drop := true }) := by
  simp [flitDrop, h, hx, hf]

theorem flitDrop_bad (h : flitOk x = false) (hx : x.seq = (s.port f i).next) (hf : (s.port f i).fails < 15) :
    flitDrop f i x s = replayFrom f i (s.setPort f i { s.port f i with drop := true, fails := (s.port f i).fails + 1 }) := by
  have hn : (s.port f i).fails ≠ 15 := by omega
  simp [flitDrop, h, hx, hn]

/-- The sixteenth failure in a row. -/
theorem flitDrop_bad_last (h : flitOk x = false) (hx : x.seq = (s.port f i).next) (hf : (s.port f i).fails = 15) :
    flitDrop f i x s = halvePort f i (replayFrom f i (s.setPort f i { s.port f i with drop := true, fails := 0 })) := by
  simp [flitDrop, h, hx, hf]

end

section
variable {s : State} {f a : Nat} {x : Flit}

theorem flitReceive_not_up (h : (s.port f (3 + a % 3)).state ≠ 1) : flitReceive f a x s = s := by
  simp [flitReceive, h]

variable (h : (s.port f (3 + a % 3)).state = 1)
include h

theorem flitReceive_next (hx : flitOk x = true) (hseq : x.seq = ((takeWire f (3 + a % 3) x s).port f (3 + a % 3)).next) :
    flitReceive f a x s = flitDeliver f (3 + a % 3) x (takeWire f (3 + a % 3) x s) := by
  simp [flitReceive, h, hx, hseq]

theorem flitReceive_drops (hx : flitOk x = false ∨ x.seq ≠ ((takeWire f (3 + a % 3) x s).port f (3 + a % 3)).next) :
    flitReceive f a x s = flitDrop f (3 + a % 3) x (takeWire f (3 + a % 3) x s) := by
  rcases hx with hx | hx
  · simp [flitReceive, h, hx]
  · simp [flitReceive, h, hx]

end

theorem replayFrom_eq {s : State} {f i g : Nat} (h : s.farEnd f i = some g) :
    replayFrom f i s = s.setPort g i { s.port g i with wire := (s.port g i).out } := by
  simp [replayFrom, h]

/-- The flit that a port sends next, without its CRC. -/
def bareFlit (p : LinkPort) (kind : BitVec 4) (body : BitVec 1952) : Flit :=
  { seq := p.sseq, kind, ack := p.next - 1, vc := 0, rsv := 0, body, crc := 0 }

def nextFlit (p : LinkPort) (kind : BitVec 4) (body : BitVec 1952) : Flit :=
  { bareFlit p kind body with crc := crc32c (flitBytes (bareFlit p kind body)) }

theorem flitBytes_crc (x : Flit) (crc : BitVec 32) : flitBytes { x with crc } = flitBytes x := by
  simp only [flitBytes]

/-- What a port sends passes its far end's checks: the CRC does not cover itself. -/
theorem flitOk_nextFlit (p : LinkPort) {kind : BitVec 4} (h : kind.toNat < 3) (body : BitVec 1952) :
    flitOk (nextFlit p kind body) = true := by
  have hcrc : crc32c (flitBytes (nextFlit p kind body)) = (nextFlit p kind body).crc :=
    congrArg crc32c (flitBytes_crc (bareFlit p kind body) _)
  have hkind : (nextFlit p kind body).kind.toNat < 3 := h
  have hvc : (nextFlit p kind body).vc = 0 := rfl
  have hrsv : (nextFlit p kind body).rsv = 0 := rfl
  simp [flitOk, hcrc, hkind, hvc, hrsv]

theorem flitsReceivedClaim : FlitsReceivedClaim := by
  intro s f a x
  refine ⟨fun h => congrArg _ (flitReceive_not_up h), fun h hx hseq => ?_, fun h hx hseq => ?_, fun h hx hseq hf => ?_,
    fun h hx hseq hf => ?_, fun h hx hseq hf => ?_, fun g hg => replayFrom_eq hg,
    fun kind body => ⟨nextFlit (s.port f (3 + a % 3)) kind body, rfl, rfl, rfl, rfl, fun hk => flitOk_nextFlit _ hk body, rfl⟩⟩
  · exact congrArg _ ((flitReceive_next h hx hseq).trans (flitDeliver_eq _ _ _ _))
  · exact congrArg _ ((flitReceive_drops h (.inr hseq)).trans (flitDrop_good hx))
  · exact congrArg _ ((flitReceive_drops h (.inl hx)).trans (flitDrop_bad_other hx hseq hf))
  · exact congrArg _ ((flitReceive_drops h (.inl hx)).trans (flitDrop_bad hx hseq hf))
  · exact congrArg _ ((flitReceive_drops h (.inl hx)).trans (flitDrop_bad_last hx hseq hf))

/-- Settles O57, its links and its flits. -/
theorem links : Obligations.Links := ⟨linkStepsClaim, flitsReceivedClaim⟩

end Sys2Proof.Machine
end

section
/-! PROOF. Writes of HBM_SPLIT and CLK.CODE, change windows and thermal emergencies (O58; R26, R423, R452, R453). -/

namespace Sys2Proof.Machine

/-! Writes. -/

theorem toNat_truncate7 (v : W64) : (v.truncate 7 : BitVec 7).toNat = v.toNat % 128 := BitVec.toNat_setWidth ..
theorem toNat_truncate4 (v : W64) : (v.truncate 4 : BitVec 4).toNat = v.toNat % 16 := BitVec.toNat_setWidth ..

theorem truncate_eq_extractLsb' {n : Nat} (v : W64) : (v.truncate n : BitVec n) = v.extractLsb' 0 n := by
  simp [BitVec.toNat_eq]

theorem deviceWritesClaim : DeviceWritesClaim := by
  intro s p f v
  have hsplit : hbmSplitWrite p v s = if (s.pkg p).homeSet = true ∨ 64 < v.toNat % 128 then s
      else s.setPkg p { s.pkg p with homeg := v.extractLsb' 0 7, homeSet := true } := by
    rw [hbmSplitWrite, toNat_truncate7, truncate_eq_extractLsb']
    simp only [Bool.or_eq_true, decide_eq_true_eq]
  have hclk : clkCodeWrite f v s = if 8 < v.toNat % 16 then s else s.setDie f { s.die f with
      asked := v.extractLsb' 0 4, reqs := (s.die f).reqs ++ [⟨none, v.toNat % 16, s.window f⟩] } := by
    rw [clkCodeWrite, toNat_truncate4, truncate_eq_extractLsb']
  refine ⟨fun hset hv => congrArg Host.Outcome.next ?_, fun h => congrArg Host.Outcome.next ?_,
    fun hv => congrArg Host.Outcome.next ?_, fun hv => congrArg Host.Outcome.next ?_⟩
  · exact hsplit.trans (if_neg (by simpa [hset] using hv))
  · exact hsplit.trans (if_pos h)
  · exact hclk.trans (if_neg (Nat.not_lt.2 hv))
  · exact hclk.trans (if_pos hv)

/-! Change windows. -/

section
variable {s : State} {f : Nat}

/-- A die none of whose requests are left to a link's controller. -/
theorem applyClocks_none (h : (s.die f).reqs = []) (i : Nat) : applyClocks i s f = s := by
  simp [applyClocks, h]

theorem applyWidths_none (h : (s.die f).reqs = []) (i : Nat) : applyWidths i s f = s := by
  simp [applyWidths, h]

theorem cancelReqs_none (h : (s.die f).reqs = []) (pick : ChangeReq → Bool) : cancelReqs f pick s = s.setDie f (s.die f) := by
  have hd : { s.die f with reqs := (s.die f).reqs.filter fun r => !pick r } = s.die f := by
    rw [h, List.filter_nil, ← h]
  rw [cancelReqs, hd, h]
  rfl

variable {v w : Nat} (h : (s.die f).reqs = [⟨none, v, w⟩]) (hw : w < s.window f)
include h hw

/-- One clock request of a window that has ended. -/
theorem applyClocks_one (i : Nat) : applyClocks i s f = s.setDie f { s.die f with code := BitVec.ofNat 4 v, reqs := [] } := by
  simp [applyClocks, h, linkReq, hw]

theorem cancelReqs_one (i : Nat) : cancelReqs f (linkReq i (s.window f)) s =
    State.notify (s.setDie f { s.die f with reqs := [] }) (f / 8) ⟨5, f % 8, 0, 2⟩ := by
  simp [cancelReqs, h, linkReq, hw, cancelReq, diePkg]

end

theorem nubNat_pair {f g : Nat} (h : f ≠ g) : nubNat [f, g] = [f, g] := by
  simp [nubNat, h.symm]

section
variable {s : State} {f a g : Nat} (hg : s.farEnd f (a % 6) = some g)
include hg

theorem changeWindow_of_gt (h : g < f) : changeWindow f a s = s := by
  simp [changeWindow, hg, Nat.min_eq_right (Nat.le_of_lt h), Nat.ne_of_lt h]

/-- The controller of a link between two dies is the one with the lower F. -/
theorem changeWindow_of_lt (h : f < g) : changeWindow f a s =
    if (s.die f).emerg = true ∨ (s.die g).emerg = true then
      cancelReqs g (linkReq (a % 6) ((cancelReqs f (linkReq (a % 6) (s.window f)) s).window g))
        (cancelReqs f (linkReq (a % 6) (s.window f)) s)
    else
      applyWidths (a % 6) (applyWidths (a % 6) (applyClocks (a % 6) (applyClocks (a % 6) s f) g) f) g := by
  simp [changeWindow, hg, Nat.min_eq_left (Nat.le_of_lt h), Nat.max_eq_right (Nat.le_of_lt h), nubNat_pair (Nat.ne_of_lt h)]

variable (h : f < g) {v w : Nat} (hf : (s.die f).reqs = [⟨none, v, w⟩]) (hr : (s.die g).reqs = []) (hw : w < s.window f)
include h hf hr hw

theorem changeWindow_clock (hef : (s.die f).emerg = false) (heg : (s.die g).emerg = false) :
    changeWindow f a s = s.setDie f { s.die f with code := BitVec.ofNat 4 v, reqs := [] } := by
  have hne : g ≠ f := by omega
  rw [changeWindow_of_lt hg h, if_neg (by simp [hef, heg]), applyClocks_one hf hw]
  have hg : ((s.setDie f { s.die f with code := BitVec.ofNat 4 v, reqs := [] }).die g).reqs = [] := by
    rw [State.setDie_other _ _ _ _ hne, hr]
  have hf : ((s.setDie f { s.die f with code := BitVec.ofNat 4 v, reqs := [] }).die f).reqs = [] := by rw [State.setDie_same]
  rw [applyClocks_none hg, applyWidths_none hf, applyWidths_none hg]

theorem changeWindow_cancels (he : (s.die f).emerg = true ∨ (s.die g).emerg = true) : changeWindow f a s =
    (State.notify (s.setDie f { s.die f with reqs := [] }) (f / 8) ⟨5, f % 8, 0, 2⟩).setDie g (s.die g) := by
  have hne : g ≠ f := by omega
  rw [changeWindow_of_lt hg h, if_pos he, cancelReqs_one hf hw]
  have hdie : (State.notify (s.setDie f { s.die f with reqs := [] }) (f / 8) ⟨5, f % 8, 0, 2⟩).die g = s.die g :=
    State.setDie_other _ _ _ _ hne
  rw [cancelReqs_none (hdie ▸ hr), hdie]

end

/-! Emergencies. -/

/-- What the beginning of an emergency leaves until its end: a die's temperature and requests, memory and the cores. -/
structure PowerFrame (f : Nat) (u s : State) : Prop where
  temp : (u.die f).temp = (s.die f).temp
  reqs : (u.die f).reqs = (s.die f).reqs
  mem : u.mem = s.mem
  cores : u.cores = s.cores

theorem PowerFrame.refl (f : Nat) (s : State) : PowerFrame f s s := ⟨rfl, rfl, rfl, rfl⟩

theorem PowerFrame.trans {f : Nat} {u t s : State} (h : PowerFrame f u t) (h' : PowerFrame f t s) : PowerFrame f u s :=
  ⟨h.temp.trans h'.temp, h.reqs.trans h'.reqs, h.mem.trans h'.mem, h.cores.trans h'.cores⟩

theorem powerFrame_foldl {α : Type} {f : Nat} {g : State → α → State} (hg : ∀ t a, PowerFrame f (g t a) t) (l : List α)
    (s : State) : PowerFrame f (l.foldl g s) s := by
  induction l generalizing s with
  | nil => exact .refl f s
  | cons a l ih => exact (ih (g s a)).trans (hg s a)

theorem powerFrame_ite {f : Nat} {c : Prop} {_ : Decidable c} {u v s : State} (hu : PowerFrame f u s) (hv : PowerFrame f v s) :
    PowerFrame f (if c then u else v) s := ite_keeps (p := fun t => PowerFrame f t s) c hu hv

section
variable (f : Nat) (s : State)

theorem powerFrame_notify (p : Nat) (n : Note) : PowerFrame f (s.notify p n) s := ⟨rfl, rfl, rfl, rfl⟩

theorem powerFrame_setPort (g i : Nat) (p : LinkPort) : PowerFrame f (s.setPort g i p) s := by
  by_cases h : f = g
  · subst h
    exact ⟨by rw [State.setPort, State.setDie_same], by rw [State.setPort, State.setDie_same], rfl, rfl⟩
  · exact ⟨by rw [State.setPort, State.setDie_other _ _ _ _ h], by rw [State.setPort, State.setDie_other _ _ _ _ h], rfl, rfl⟩

theorem powerFrame_changePort (g i : Nat) (p : LinkPort) : PowerFrame f (s.changePort g i p) s :=
  powerFrame_ite (powerFrame_setPort f s g i p) ((powerFrame_notify f _ _ _).trans (powerFrame_setPort f s g i p))

theorem powerFrame_setWidth (g i w : Nat) : PowerFrame f (setWidth g i w s) s := by
  unfold setWidth
  split
  · exact .refl f s
  · exact powerFrame_ite (powerFrame_changePort f s _ _ _)
      ((powerFrame_changePort f _ _ _ _).trans (powerFrame_changePort f s _ _ _))

/-- The requests of another die cancelled. -/
theorem powerFrame_cancelReqs {g : Nat} (h : g ≠ f) (pick : ChangeReq → Bool) : PowerFrame f (cancelReqs g pick s) s := by
  have hd : ∀ d, PowerFrame f (s.setDie g d) s := fun d =>
    ⟨by rw [State.setDie_other _ _ _ _ h.symm], by rw [State.setDie_other _ _ _ _ h.symm], rfl, rfl⟩
  exact (powerFrame_foldl (fun t r => powerFrame_notify f t _ _) _ _).trans (hd _)

/-- Every request of a die cancelled. -/
theorem cancelReqs_all : ((cancelReqs f (fun _ => true) s).die f).temp = (s.die f).temp ∧
    ((cancelReqs f (fun _ => true) s).die f).reqs = [] ∧ (cancelReqs f (fun _ => true) s).mem = s.mem ∧
    (cancelReqs f (fun _ => true) s).cores = s.cores := by
  have hn := powerFrame_foldl (f := f) (g := cancelReq f) (fun t r => powerFrame_notify f t _ _)
    ((s.die f).reqs.filter fun _ => true) (s.setDie f { s.die f with reqs := (s.die f).reqs.filter fun r => !true })
  refine ⟨hn.temp.trans ?_, hn.reqs.trans ?_, hn.mem, hn.cores⟩
  · rw [State.setDie_same]
  · simp

/-- An emergency cancels the die's requests, keeps what it can, and ends by setting the die's clock. -/
theorem enterEmergency_eq : ∃ u, PowerFrame f u (cancelReqs f (fun _ => true) s) ∧ enterEmergency f s =
    State.notify (u.setDie f { u.die f with emerg := true, cool := none, code := 0 }) (diePkg f) ⟨6, f % 8, 1, 0⟩ := by
  refine ⟨_, ?_, rfl⟩
  refine (powerFrame_foldl (fun t i => ?_) _ _).trans (powerFrame_foldl (fun t i => ?_) _ _)
  · exact powerFrame_ite ((powerFrame_setWidth f _ _ _ _).trans (powerFrame_setPort f t _ _ _)) (.refl f t)
  · split
    · split
      · exact .refl f t
      · next h => exact powerFrame_cancelReqs f t (by simpa using h) _
    · exact .refl f t

theorem enterEmergency_spec : ((enterEmergency f s).die f).temp = (s.die f).temp ∧ ((enterEmergency f s).die f).emerg = true ∧
    ((enterEmergency f s).die f).code = 0 ∧ ((enterEmergency f s).die f).reqs = [] ∧ (enterEmergency f s).mem = s.mem ∧
    (enterEmergency f s).cores = s.cores := by
  obtain ⟨htemp, hreqs, hmem, hcores⟩ := cancelReqs_all f s
  obtain ⟨u, hu, heq⟩ := enterEmergency_eq f s
  have hdie : (enterEmergency f s).die f = { u.die f with emerg := true, cool := none, code := 0 } := by
    rw [heq]
    exact State.setDie_same ..
  rw [hdie, heq]
  exact ⟨hu.temp.trans htemp, rfl, rfl, hu.reqs.trans hreqs, hu.mem.trans hmem, hu.cores.trans hcores⟩

end

section
variable {s : State} {f : Nat} {t : BitVec 12}

theorem thermalEmergency_cool (h : t.toNat < 1050) : thermalEmergency f t s = s.setDie f { s.die f with
    temp := t, cool := if (s.die f).emerg ∧ t.toNat < 950 then (match (s.die f).cool with
      | some x => some x
      | none => some (s.ticks (f / 8))) else none } := by
  have hcool : ((s.die f).cool <|> some (s.ticks (diePkg f))) = match (s.die f).cool with
      | some x => some x
      | none => some (s.ticks (f / 8)) := by
    cases (s.die f).cool <;> rfl
  simp [thermalEmergency, Nat.not_le.2 h, hcool]

theorem thermalEmergency_hot (h : 1050 ≤ t.toNat) (he : (s.die f).emerg = false) : thermalEmergency f t s =
    enterEmergency f (s.setDie f { s.die f with temp := t, cool := none }) := by
  simp [thermalEmergency, h, he]

end

/-! The end of an emergency. -/

/-- The width that a port asks for again once its die's emergency has ended. -/
def heldReq (p : LinkPort) (i w : Nat) : Option ChangeReq :=
  match p.held with
  | some v => if v ≠ p.width then some ⟨some i, v, w⟩ else none
  | none => none

/-- A die with one port's width no longer held, and asked for where it differs. -/
def releaseHeld (w : Nat) (d : Die) (i : Nat) : Die :=
  { d with ports := d.ports.put i { d.ports.get {} i with held := none }, reqs := d.reqs ++ (heldReq (d.ports.get {} i) i w).toList }

section
variable (w : Nat) (is : List Nat) (d : Die)

theorem releaseHeld_foldl_emerg : (is.foldl (releaseHeld w) d).emerg = d.emerg :=
  foldl_keeps (p := fun e : Die => e.emerg = d.emerg) (releaseHeld w) (fun _ _ h => h) _ rfl

theorem releaseHeld_foldl_cool : (is.foldl (releaseHeld w) d).cool = d.cool :=
  foldl_keeps (p := fun e : Die => e.cool = d.cool) (releaseHeld w) (fun _ _ h => h) _ rfl

theorem releaseHeld_port (i j : Nat) : (releaseHeld w d i).ports.get {} j =
    if j = i then { d.ports.get {} j with held := none } else d.ports.get {} j := by
  by_cases h : j = i
  · subst h
    rw [if_pos rfl]
    exact Tab.get_put_same ..
  · rw [if_neg h]
    exact Tab.get_put_other _ _ h _

theorem releaseHeld_foldl_port (j : Nat) : (is.foldl (releaseHeld w) d).ports.get {} j =
    if j ∈ is then { d.ports.get {} j with held := none } else d.ports.get {} j := by
  induction is generalizing d with
  | nil => rfl
  | cons i is ih =>
    rw [List.foldl_cons, ih, releaseHeld_port]
    by_cases hi : j = i
    · simp [hi]
    · simp [hi]

theorem releaseHeld_foldl_reqs (h : is.Nodup) : (is.foldl (releaseHeld w) d).reqs =
    d.reqs ++ is.filterMap fun i => heldReq (d.ports.get {} i) i w := by
  induction is generalizing d with
  | nil => simp
  | cons i is ih =>
    obtain ⟨hi, his⟩ := List.nodup_cons.1 h
    have hother : (is.filterMap fun j => heldReq ((releaseHeld w d i).ports.get {} j) j w) =
        is.filterMap fun j => heldReq (d.ports.get {} j) j w :=
      List.filterMap_congr fun j hj => by rw [releaseHeld_port, if_neg (ne_of_mem_of_not_mem hj hi)]
    rw [List.foldl_cons, ih _ his, hother, releaseHeld, List.append_assoc]
    cases e : heldReq (d.ports.get {} i) i w with
    | none => exact congrArg (d.reqs ++ ·) (List.filterMap_cons_none (f := fun i => heldReq (d.ports.get {} i) i w) e).symm
    | some r => exact congrArg (d.reqs ++ ·) (List.filterMap_cons_some (f := fun i => heldReq (d.ports.get {} i) i w) e).symm

end

/-- A fold of steps that change a die alone. -/
theorem foldl_setDie {α : Type} {s : State} {f : Nat} {g : State → α → State} {r : Die → α → Die}
    (hg : ∀ d a, g (s.setDie f d) a = s.setDie f (r d a)) (l : List α) (d : Die) :
    l.foldl g (s.setDie f d) = s.setDie f (l.foldl r d) := by
  induction l generalizing d with
  | nil => rfl
  | cons a l ih => rw [List.foldl_cons, hg, ih, List.foldl_cons]

theorem ask_setDie (s : State) (f : Nat) (d : Die) (r : ChangeReq) :
    (s.setDie f d).ask f r = s.setDie f { d with reqs := d.reqs ++ [r] } := by
  rw [State.ask, State.setDie_same, State.setDie_twice]

section
variable {s : State} {f : Nat}

theorem emergencyExit_due {t : Nat} (hc : (s.die f).cool = some t) (he : (s.die f).emerg = true)
    (ht : t + 16000000 ≤ s.ticks (f / 8)) : emergencyExit f s =
      State.notify (s.setDie f ([3, 4, 5].foldl (releaseHeld (s.window f)) { s.die f with
        emerg := false, cool := none, reqs := (s.die f).reqs ++ [⟨none, (s.die f).asked.toNat, s.window f⟩] }))
        (f / 8) ⟨6, f % 8, 0, 0⟩ := by
  have hdue : ((s.die f).emerg && decide (t + 16000000 ≤ s.ticks (diePkg f))) = true := by
    rw [he, Bool.true_and]
    exact decide_eq_true ht
  unfold emergencyExit
  dsimp only
  rw [hc]
  dsimp only
  rw [if_pos hdue, ask_setDie]
  refine congrArg (fun u : State => u.notify (f / 8) ⟨6, f % 8, 0, 0⟩) (foldl_setDie (fun d i => ?_) _ _)
  rw [port_setDie, setPort_setDie, releaseHeld]
  generalize d.ports.get {} i = p
  cases hheld : p.held with
  | none => simp [heldReq, hheld]
  | some v =>
    by_cases hv : v = p.width
    · simp [heldReq, hheld, hv]
    · simp [heldReq, hheld, hv, ask_setDie]

theorem emergencyExit_not_due (h : (s.die f).cool = none ∨ ∃ t, (s.die f).cool = some t ∧ s.ticks (f / 8) < t + 16000000) :
    emergencyExit f s = s := by
  rcases h with h | ⟨t, h, ht⟩
  · simp [emergencyExit, h]
  · have hlate : ¬ t + 16000000 ≤ s.ticks (diePkg f) := Nat.not_le.2 ht
    simp [emergencyExit, h, hlate]

end

theorem powerStepsClaim : PowerStepsClaim := by
  intro s f a g
  refine ⟨fun v w hg h hf hr hw => ⟨fun hef heg => congrArg Host.Outcome.next (changeWindow_clock hg h hf hr hw hef heg),
      fun he => congrArg Host.Outcome.next (changeWindow_cancels hg h hf hr hw he)⟩,
    fun hg h => congrArg Host.Outcome.next (changeWindow_of_gt hg h), fun t ht => congrArg Host.Outcome.next (thermalEmergency_cool ht),
    fun t ht he => ⟨_, congrArg Host.Outcome.next (thermalEmergency_hot ht he), ?_⟩,
    fun t hc he ht => ⟨_, congrArg Host.Outcome.next (emergencyExit_due hc he ht), ?_⟩,
    fun h => congrArg Host.Outcome.next (emergencyExit_not_due h)⟩
  · obtain ⟨htemp, hrest⟩ := enterEmergency_spec f (s.setDie f { s.die f with temp := t, cool := none })
    exact ⟨htemp.trans (by rw [State.setDie_same]), hrest⟩
  · have hdie := State.setDie_same s f ([3, 4, 5].foldl (releaseHeld (s.window f)) { s.die f with
      emerg := false, cool := none, reqs := (s.die f).reqs ++ [⟨none, (s.die f).asked.toNat, s.window f⟩] })
    refine ⟨?_, ?_, ?_, fun j => ?_, fun g hg => State.setDie_other _ _ _ _ hg, State.setPkg_same .., rfl, rfl⟩
    · exact (congrArg Die.emerg hdie).trans (releaseHeld_foldl_emerg ..)
    · exact (congrArg Die.cool hdie).trans (releaseHeld_foldl_cool ..)
    · refine (congrArg Die.reqs hdie).trans ((releaseHeld_foldl_reqs _ _ _ (by decide)).trans ?_)
      rw [List.append_assoc]
      rfl
    · refine (congrArg (fun d : Die => d.ports.get {} j) hdie).trans ((releaseHeld_foldl_port _ _ _ j).trans ?_)
      refine if_congr ?_ rfl rfl
      simp only [List.mem_cons, List.not_mem_nil, or_false]
      omega

/-- Settles O58, its writes of HBM_SPLIT and CLK.CODE, its windows and its emergencies. -/
theorem clocksAndPower : Obligations.ClocksAndPower := ⟨deviceWritesClaim, powerStepsClaim⟩

end Sys2Proof.Machine
end

section
/-! PROOF. Codes and values of the floating formats (R72, R73), the one rounding (R82): a value that a format holds is rounded to its
code, whatever way it is written; how large a rounded significand is; overflow (R85) and underflow (R87). -/

namespace Sys2Proof.Machine

/-! Magnitudes. -/

/-- `m·2^e` and `k·2^g` are the same number, both brought to the lesser exponent. -/
def SameMag (m : Nat) (e : Int) (k : Nat) (g : Int) : Prop := m * 2 ^ (e - g).toNat = k * 2 ^ (g - e).toNat

theorem SameMag.symm {m k : Nat} {e g : Int} (h : SameMag m e k g) : SameMag k g m e := Eq.symm h

theorem SameMag.ne_zero {m k : Nat} {e g : Int} (h : SameMag m e k g) (hm : m ≠ 0) : k ≠ 0 := by
  rintro rfl
  simp [SameMag, hm] at h

theorem log2_mul_two_pow {m : Nat} (hm : m ≠ 0) (j : Nat) : (m * 2 ^ j).log2 = m.log2 + j := by
  induction j with
  | zero => simp
  | succ j ih =>
    rw [pow_succ, ← mul_assoc, Nat.log2_eq_log_two, Nat.log_mul_base Nat.one_lt_two (by positivity), ← Nat.log2_eq_log_two, ih]
    rfl

theorem SameMag.topExp_eq {m k : Nat} {e g : Int} (h : SameMag m e k g) (hm : m ≠ 0) : topExp m e = topExp k g := by
  have hlog : m.log2 + (e - g).toNat = k.log2 + (g - e).toNat := by
    rw [← log2_mul_two_pow hm, ← log2_mul_two_pow (h.ne_zero hm), h]
  unfold topExp
  omega

/-- Two finite values are equal as numbers where their signs and magnitudes are. -/
theorem xeq_fin_iff {n k : Bool} {m m' : Nat} {e e' : Int} (hm : m' ≠ 0) :
    xeq (.fin n m e) (.fin k m' e') = true ↔ n = k ∧ SameMag m e m' e' := by
  have hl : e - min e e' = ((e - e').toNat : Int) := by omega
  have hr : e' - min e e' = ((e' - e).toNat : Int) := by omega
  have hpos : 0 < m' * 2 ^ (e' - e).toNat := by positivity
  simp only [xeq, xlt, XVal.isNan, min_comm e' e, hl, hr, Int.toNat_natCast, Nat.shiftLeft_eq, SameMag]
  generalize m * 2 ^ (e - e').toNat = a
  generalize m' * 2 ^ (e' - e).toNat = b at hpos
  cases n <;> cases k <;> simp <;> omega

/-- What is equal to a finite value that is not zero is one. -/
theorem fin_of_xeq {v : XVal} {k : Bool} {m : Nat} {e : Int} (h : xeq v (.fin k m e) = true) : ∃ n m' e', v = .fin n m' e' := by
  cases v with
  | fin n m' e' => exact ⟨n, m', e', rfl⟩
  | nan => simp [xeq, XVal.isNan] at h
  | inf n => cases n <;> simp [xeq, xlt, XVal.isNan] at h
  | zero n => cases k <;> simp [xeq, xlt, XVal.isNan] at h

/-! The quantum of R82. -/

/-- A number that is a multiple of the quantum has no fraction. -/
theorem quantum_of_same {m k : Nat} {e q : Int} (h : SameMag m e k q) : ∃ j, quantum m e q = (k, 0, j) := by
  unfold quantum SameMag at *
  by_cases hq : q ≤ e
  · rw [show (q - e).toNat = 0 by omega] at h
    exact ⟨0, by rw [if_pos hq, Nat.shiftLeft_eq, h, pow_zero, mul_one]⟩
  · rw [show (e - q).toNat = 0 by omega, pow_zero, mul_one] at h
    refine ⟨(q - e).toNat, ?_⟩
    rw [if_neg hq, h]
    simp [Nat.shiftRight_eq_div_pow]

/-- A number with no fraction is that multiple of the quantum. -/
theorem same_of_quantum {m : Nat} {e q : Int} (h : (quantum m e q).2.1 = 0) : SameMag m e (quantum m e q).1 q := by
  unfold quantum SameMag at *
  by_cases hq : q ≤ e
  · simp [hq, Nat.shiftLeft_eq, show (q - e).toNat = 0 by omega]
  · simp only [hq, if_false, Nat.shiftRight_eq_div_pow] at h ⊢
    rw [show (e - q).toNat = 0 by omega, pow_zero, mul_one, Nat.div_mul_cancel (Nat.dvd_of_mod_eq_zero h)]

/-- The size of the whole part: what `topExp` says of the number. -/
theorem quantum_lt_iff {m : Nat} (hm : m ≠ 0) (e q : Int) (j : Nat) : (quantum m e q).1 < 2 ^ j ↔ topExp m e < q + j := by
  unfold quantum topExp
  by_cases hq : q ≤ e
  · rw [if_pos hq, Nat.shiftLeft_eq, ← Nat.log2_lt (by positivity), log2_mul_two_pow hm]
    omega
  · rw [if_neg hq]
    dsimp only
    rw [Nat.shiftRight_eq_div_pow, Nat.div_lt_iff_lt_mul (by positivity), ← Nat.pow_add, ← Nat.log2_lt hm]
    omega

/-- Nothing is rounded up where there is no fraction. -/
theorem roundsUp_exact (mode : Mode) (neg : Bool) (n k : Nat) {d : Nat} (hd : d < 2 ^ 16) :
    roundsUp mode neg n 0 k d = false := by
  cases mode <;> simp [roundsUp]
  omega

/-! Codes. -/

/-- The magnitude code of an encoding. -/
def FloatFmt.mag (f : FloatFmt) (bits : Nat) : Nat := bits % 2 ^ (f.exp + f.man)

/-- The sign bit of an encoding. -/
def FloatFmt.negative (f : FloatFmt) (bits : Nat) : Bool := bits / 2 ^ (f.exp + f.man) % 2 == 1

/-- The exponent of the least step between two values of a format. -/
def FloatFmt.least (f : FloatFmt) : Int := 1 - f.bias - f.man

/-- The significand of a magnitude code, its hidden bit included. -/
def FloatFmt.sig (f : FloatFmt) (c : Nat) : Nat := if c < 2 ^ f.man then c else 2 ^ f.man + c % 2 ^ f.man

/-- The exponent of a magnitude code's significand. -/
def FloatFmt.step (f : FloatFmt) (c : Nat) : Int := f.least + (c / 2 ^ f.man - 1 : Nat)

/-- What the formats of R73 have in common. -/
theorem floatFormats_shape : ∀ f ∈ floatFormats, 0 < f.exp ∧ 2 ^ f.man ≤ f.maxCode ∧ f.maxCode < 2 ^ (f.exp + f.man) := by decide

section
variable {f : FloatFmt}

theorem mag_lt (f : FloatFmt) (bits : Nat) : f.mag bits < 2 ^ (f.exp + f.man) := Nat.mod_lt _ (by positivity)

theorem signed_mag {bits : Nat} (h : bits < 2 ^ f.width) : f.signed (f.negative bits) (f.mag bits) = bits := by
  have hsplit := Nat.div_add_mod bits (2 ^ (f.exp + f.man))
  have htop : bits / 2 ^ (f.exp + f.man) < 2 := by
    rw [Nat.div_lt_iff_lt_mul (by positivity), ← Nat.pow_succ']
    rwa [FloatFmt.width, show 1 + f.exp + f.man = f.exp + f.man + 1 by omega] at h
  unfold FloatFmt.signed FloatFmt.negative FloatFmt.mag
  interval_cases hs : bits / 2 ^ (f.exp + f.man) <;> simp <;> omega

theorem mag_signed (neg : Bool) {c : Nat} (h : c < 2 ^ (f.exp + f.man)) : f.mag (f.signed neg c) = c := by
  cases neg <;> simp [FloatFmt.mag, FloatFmt.signed, Nat.mod_eq_of_lt h]

theorem negative_signed (neg : Bool) {c : Nat} (h : c < 2 ^ (f.exp + f.man)) : f.negative (f.signed neg c) = neg := by
  cases neg <;> simp [FloatFmt.negative, FloatFmt.signed, Nat.div_eq_of_lt h, Nat.add_div_left _ (Nat.two_pow_pos _)]

theorem sig_eq_zero {c : Nat} : f.sig c = 0 ↔ c = 0 := by
  have := Nat.two_pow_pos f.man
  unfold FloatFmt.sig
  split <;> omega

theorem sig_subnormal {c : Nat} (h : c / 2 ^ f.man = 0) : f.sig c = c % 2 ^ f.man := by
  have hc : c < 2 ^ f.man := (Nat.div_eq_zero_iff_lt (by positivity)).1 h
  rw [FloatFmt.sig, if_pos hc, Nat.mod_eq_of_lt hc]

theorem sig_normal {c : Nat} (h : c / 2 ^ f.man ≠ 0) : f.sig c = 2 ^ f.man + c % 2 ^ f.man := by
  rw [FloatFmt.sig, if_neg fun hc => h (Nat.div_eq_of_lt hc)]

/-- The value of a code that is neither infinity nor NaN. -/
theorem value_finite (neg : Bool) (c : Nat) :
    (if c / 2 ^ f.man == 0 then XVal.mk neg (c % 2 ^ f.man) (1 - f.bias - f.man)
      else .fin neg (2 ^ f.man + c % 2 ^ f.man) ((c / 2 ^ f.man : Nat) - f.bias - f.man)) = .mk neg (f.sig c) (f.step c) := by
  by_cases h : c / 2 ^ f.man = 0
  · simp [h, sig_subnormal, FloatFmt.step, FloatFmt.least]
  · have hpos : 2 ^ f.man + c % 2 ^ f.man ≠ 0 := by positivity
    have hstep : f.step c = (c / 2 ^ f.man : Nat) - f.bias - f.man := by
      unfold FloatFmt.step FloatFmt.least
      generalize c / 2 ^ f.man = q at h
      omega
    simp only [beq_iff_eq, h, if_false, XVal.mk, sig_normal h, hpos, hstep]

/-- The value of an encoding (R72, R73): finite up to the largest code, above it infinity and NaN. -/
theorem value_eq (hf : f ∈ floatFormats) (bits : Nat) :
    f.value bits = if f.mag bits ≤ f.maxCode then .mk (f.negative bits) (f.sig (f.mag bits)) (f.step (f.mag bits))
      else if f.sp = .ieee ∧ f.mag bits = f.infCode then .inf (f.negative bits) else .nan := by
  obtain ⟨hexp, hmax, -⟩ := floatFormats_shape f hf
  have hlt := mag_lt f bits
  have hfin := value_finite (f := f) (f.negative bits) (f.mag bits)
  unfold FloatFmt.value
  dsimp only
  rw [show bits % 2 ^ (f.exp + f.man) = f.mag bits from rfl,
    show (bits / 2 ^ (f.exp + f.man) % 2 == 1) = f.negative bits from rfl, hfin]
  cases hsp : f.sp with
  | finiteOnly =>
    have hle : f.mag bits ≤ f.maxCode := by
      rw [FloatFmt.maxCode, hsp]
      exact Nat.le_sub_one_of_lt hlt
    simp [hle]
  | nanOnly =>
    have hle : f.mag bits ≤ f.maxCode ↔ f.mag bits ≠ 2 ^ (f.exp + f.man) - 1 := by
      rw [FloatFmt.maxCode, hsp]
      dsimp only
      have := Nat.le_self_pow (n := f.exp + f.man) (by omega) 2
      omega
    by_cases h : f.mag bits = 2 ^ (f.exp + f.man) - 1
    · rw [if_neg (show ¬ f.mag bits ≤ f.maxCode from fun hc => hle.1 hc h)]
      simp [h]
    · simp [hle, h]
  | ieee =>
    have hM : 0 < 2 ^ f.man := Nat.two_pow_pos _
    have hq : f.mag bits / 2 ^ f.man < 2 ^ f.exp := by
      rwa [Nat.div_lt_iff_lt_mul hM, ← Nat.pow_add]
    have hle : f.mag bits ≤ f.maxCode ↔ f.mag bits / 2 ^ f.man ≠ 2 ^ f.exp - 1 := by
      have hdiv := Nat.div_lt_iff_lt_mul (x := f.mag bits) (y := 2 ^ f.exp - 1) hM
      rw [FloatFmt.maxCode, hsp] at hmax ⊢
      dsimp only at hmax ⊢
      omega
    by_cases h : f.mag bits / 2 ^ f.man = 2 ^ f.exp - 1
    · have hsplit := Nat.div_add_mod' (f.mag bits) (2 ^ f.man)
      have hinf : f.mag bits = f.infCode ↔ f.mag bits % 2 ^ f.man = 0 := by
        rw [FloatFmt.infCode]
        rw [h] at hsplit
        omega
      simp [hle, h, hinf]
    · simp [hle, h]

/-- A finite value of a format is that of a code up to the largest. -/
theorem of_value_fin (hf : f ∈ floatFormats) {bits m : Nat} {n : Bool} {e : Int} (h : f.value bits = .fin n m e) :
    f.mag bits ≤ f.maxCode ∧ m = f.sig (f.mag bits) ∧ e = f.step (f.mag bits) := by
  rw [value_eq hf] at h
  split at h
  case isTrue hle =>
    unfold XVal.mk at h
    split at h
    · cases h
    · injection h with _ hm he
      exact ⟨hle, hm.symm, he.symm⟩
  case isFalse => split at h <;> cases h

/-- The value of a signed code up to the largest. -/
theorem value_signed (hf : f ∈ floatFormats) (neg : Bool) {c : Nat} (h : c ≤ f.maxCode) :
    f.value (f.signed neg c) = .mk neg (f.sig c) (f.step c) := by
  have hlt : c < 2 ^ (f.exp + f.man) := h.trans_lt (floatFormats_shape f hf).2.2
  rw [value_eq hf, mag_signed neg hlt, negative_signed neg hlt, if_pos h]

/-! The rounding of a finite value (R82). -/

/-- The exponent of the quantum of a finite value. -/
def FloatFmt.quantumExp (f : FloatFmt) (m : Nat) (e : Int) : Int := max (topExp m e - f.man) f.least

/-- The whole quanta of a finite value, rounded. -/
def FloatFmt.rounded (f : FloatFmt) (neg : Bool) (m : Nat) (e : Int) (mode : Mode) (d : Nat) : Nat :=
  let q := quantum m e (f.quantumExp m e)
  if roundsUp mode neg q.1 q.2.1 q.2.2 d then q.1 + 1 else q.1

/-- The magnitude code that a finite value is rounded to. -/
def FloatFmt.roundedMag (f : FloatFmt) (neg : Bool) (m : Nat) (e : Int) (mode : Mode) (d : Nat) : Nat :=
  f.rounded neg m e mode d + (f.quantumExp m e - f.least).toNat * 2 ^ f.man

/-- What R82 makes of a finite value: it overflows, is the value, or is inexact, and then below the least normal or not. -/
theorem roundWith_fin (f : FloatFmt) (neg : Bool) (m : Nat) (e : Int) (mode : Mode) (sat : Bool) (d : Nat) :
    roundWith (.fin neg m e) (.flt f) mode sat d =
      if f.roundedMag neg m e mode d > f.maxCode then (f.overflow neg mode sat, fOF ||| fNX)
      else (f.signed neg (f.roundedMag neg m e mode d),
        if (quantum m e (f.quantumExp m e)).2.1 == 0 then 0 else if topExp m e < 1 - f.bias then fNX ||| fUF else fNX) := rfl

/-- A significand lies between the powers of two of its code's binade. -/
theorem topExp_sig {c : Nat} (hc : c ≠ 0) :
    if c < 2 ^ f.man then topExp (f.sig c) (f.step c) < f.man + f.step c ∧ f.step c = f.least
    else topExp (f.sig c) (f.step c) = f.man + f.step c := by
  have hpos : f.sig c ≠ 0 := fun h => hc (sig_eq_zero.1 h)
  have hmod := Nat.mod_lt c (Nat.two_pow_pos f.man)
  unfold topExp
  split
  case isTrue hlt =>
    have hlog : (f.sig c).log2 < f.man := (Nat.log2_lt hpos).2 (by rwa [FloatFmt.sig, if_pos hlt])
    exact ⟨by omega, by simp [FloatFmt.step, Nat.div_eq_of_lt hlt]⟩
  case isFalse hge =>
    have hlog : (f.sig c).log2 = f.man := by
      refine (Nat.log2_eq_iff hpos).2 ?_
      rw [FloatFmt.sig, if_neg hge, Nat.pow_succ]
      omega
    omega

theorem least_le_step (f : FloatFmt) (c : Nat) : f.least ≤ f.step c := by
  unfold FloatFmt.step
  omega

/-- The quantum of a value that a format holds is the step between the codes about it. -/
theorem quantumExp_held {m c : Nat} {e : Int} (hm : m ≠ 0) (h : SameMag m e (f.sig c) (f.step c)) :
    f.quantumExp m e = f.step c := by
  have hc : c ≠ 0 := fun h0 => h.ne_zero hm (sig_eq_zero.2 h0)
  have htop := topExp_sig (f := f) hc
  have hle := least_le_step f c
  rw [FloatFmt.quantumExp, h.topExp_eq hm]
  split at htop <;> omega

/-- Significand and step give the code again. -/
theorem sig_add_step (f : FloatFmt) (c : Nat) : f.sig c + (f.step c - f.least).toNat * 2 ^ f.man = c := by
  have hstep : (f.step c - f.least).toNat = c / 2 ^ f.man - 1 := by
    unfold FloatFmt.step
    omega
  have hsplit := Nat.mod_add_div' c (2 ^ f.man)
  rw [hstep]
  by_cases h : c / 2 ^ f.man = 0
  · rw [sig_subnormal h, h]
    rw [h] at hsplit
    simpa using hsplit
  · obtain ⟨q, hq⟩ := Nat.exists_eq_succ_of_ne_zero h
    rw [sig_normal h, hq]
    rw [hq, Nat.succ_mul] at hsplit
    simp only [Nat.succ_eq_add_one, Nat.add_sub_cancel]
    omega

/-- A value that a format holds is rounded to its code, in whatever way it is written, in every mode, with no flag. -/
theorem roundWith_held {neg : Bool} {m c d : Nat} {e : Int} (hm : m ≠ 0) (h : SameMag m e (f.sig c) (f.step c))
    (hc : c ≤ f.maxCode) (hd : d < 2 ^ 16) (mode : Mode) (sat : Bool) :
    roundWith (.fin neg m e) (.flt f) mode sat d = (f.signed neg c, 0) := by
  obtain ⟨j, hq⟩ := quantum_of_same h
  have hmag : f.roundedMag neg m e mode d = c := by
    simp [FloatFmt.roundedMag, FloatFmt.rounded, quantumExp_held hm h, hq, roundsUp_exact mode neg _ j hd, sig_add_step]
  rw [roundWith_fin, hmag, if_neg (Nat.not_lt.2 hc), quantumExp_held hm h, hq]
  rfl

/-- A value that is equal to what it is rounded to has raised nothing. -/
theorem flags_of_xeq (hf : f ∈ floatFormats) {neg : Bool} {m d bits : Nat} {e : Int} (hm : m ≠ 0) (hd : d < 2 ^ 16)
    (h : xeq (f.value bits) (.fin neg m e) = true) (mode : Mode) (sat : Bool) :
    (roundWith (.fin neg m e) (.flt f) mode sat d).2 = 0 := by
  obtain ⟨n, m', e', hv⟩ := fin_of_xeq h
  obtain ⟨hc, rfl, rfl⟩ := of_value_fin hf hv
  rw [hv] at h
  have hsame := ((xeq_fin_iff hm).1 h).2.symm
  rw [roundWith_held hm hsame hc hd]

/-! Underflow (R87). -/

section
variable {m : Nat} {e : Int} (hsub : topExp m e < 1 - f.bias)
include hsub

theorem quantumExp_subnormal : f.quantumExp m e = f.least := by
  unfold FloatFmt.quantumExp FloatFmt.least
  omega

theorem quantum_subnormal (hm : m ≠ 0) : (quantum m e f.least).1 < 2 ^ f.man :=
  (quantum_lt_iff hm e f.least f.man).2 (by unfold FloatFmt.least; omega)

/-- A value below the least normal one overflows in no format. -/
theorem roundedMag_subnormal (hm : m ≠ 0) (hf : f ∈ floatFormats) (neg : Bool) (mode : Mode) (d : Nat) :
    f.roundedMag neg m e mode d ≤ f.maxCode := by
  have hle := (floatFormats_shape f hf).2.1
  have hlt := quantum_subnormal hsub hm
  unfold FloatFmt.roundedMag FloatFmt.rounded
  rw [quantumExp_subnormal hsub]
  dsimp only
  split <;> simp <;> omega

/-- A value below the least normal one that has no fraction is the one it is rounded to. -/
theorem xeq_of_exact_subnormal (hm : m ≠ 0) (hf : f ∈ floatFormats) (hfr : (quantum m e f.least).2.1 = 0) (neg : Bool) (mode : Mode)
    {d : Nat} (hd : d < 2 ^ 16) : xeq (f.value (f.signed neg (f.roundedMag neg m e mode d))) (.fin neg m e) = true := by
  have hmag : f.roundedMag neg m e mode d = (quantum m e f.least).1 := by
    simp [FloatFmt.roundedMag, FloatFmt.rounded, quantumExp_subnormal hsub, hfr, roundsUp_exact mode neg _ _ hd]
  have hsame := same_of_quantum hfr
  have hne := hsame.ne_zero hm
  have hlt := quantum_subnormal hsub hm
  have hstep : f.step (quantum m e f.least).1 = f.least := by simp [FloatFmt.step, Nat.div_eq_of_lt hlt]
  rw [value_signed hf neg (roundedMag_subnormal hsub hm hf neg mode d), hmag, hstep, FloatFmt.sig, if_pos hlt, XVal.mk,
    if_neg (by simpa using hne), xeq_fin_iff hm]
  exact ⟨rfl, hsame.symm⟩

end

/-- UF is raised exactly for an inexact result of a value below the least normal one. -/
theorem underflow_iff (hf : f ∈ floatFormats) {neg : Bool} {m d : Nat} {e : Int} (hm : m ≠ 0) (hd : d < 2 ^ 16) (mode : Mode)
    (sat : Bool) : let r := roundWith (.fin neg m e) (.flt f) mode sat d
    r.2 &&& fUF ≠ 0 ↔ xeq (f.value r.1) (.fin neg m e) = false ∧ topExp m e < 1 - f.bias := by
  constructor
  · intro huf
    have hne : xeq (f.value (roundWith (.fin neg m e) (.flt f) mode sat d).1) (.fin neg m e) = false := by
      by_contra hx
      rw [flags_of_xeq hf hm hd (by simpa using hx)] at huf
      exact huf rfl
    refine ⟨hne, ?_⟩
    by_contra hsub
    rw [roundWith_fin, if_neg hsub] at huf
    split at huf
    · simp [fOF, fNX, fUF] at huf
    · split at huf <;> simp [fNX, fUF] at huf
  · rintro ⟨hne, hsub⟩
    have hle := Nat.not_lt.2 (roundedMag_subnormal hsub hm hf neg mode d)
    rw [roundWith_fin, if_neg hle] at hne ⊢
    rw [quantumExp_subnormal hsub, if_pos hsub]
    have hfr : (quantum m e f.least).2.1 ≠ 0 := fun h0 => by
      rw [xeq_of_exact_subnormal hsub hm hf h0 neg mode hd] at hne
      cases hne
    simp only [beq_iff_eq, hfr, if_false]
    decide

/-- A value that is not a finite number raises no UF. -/
theorem no_underflow_special {x : XVal} (hx : ∀ n m e, x ≠ .fin n m e) (mode : Mode) (sat : Bool) (d : Nat) :
    (roundWith x (.flt f) mode sat d).2 &&& fUF = 0 := by
  cases x with
  | nan => simp only [roundWith]; split <;> simp [fNV, fUF]
  | inf n => simp only [roundWith]; cases f.sp <;> simp [fNV, fUF]
  | zero n => simp [roundWith]
  | fin n m e => exact absurd rfl (hx n m e)

end

/-- Settles O10: a value equal to its result has raised nothing (`flags_of_xeq`), and one below the least normal cannot overflow, so
its fraction alone decides (`underflow_iff`). -/
theorem underflowBeforeRounding : Obligations.UnderflowBeforeRounding := by
  intro f hf x mode sat d hd
  refine ⟨?_, fun hx => no_underflow_special hx mode sat d⟩
  rintro neg m e rfl hm
  exact ⟨underflow_iff hf hm hd mode sat, fun h => flags_of_xeq hf hm hd h mode sat⟩

/-! Values that a format holds, overflow, draws (R73, R78, R80, R85). -/

section
variable {f : FloatFmt}

/-- A value that is no NaN is rounded to the bits it is read from. -/
theorem roundWith_value (hf : f ∈ floatFormats) {bits d : Nat} (hb : bits < 2 ^ f.width) (hd : d < 2 ^ 16)
    (hn : (f.value bits).isNan = false) (mode : Mode) (sat : Bool) :
    roundWith (f.value bits) (.flt f) mode sat d = (bits, 0) := by
  rw [value_eq hf] at hn ⊢
  have hbits := signed_mag hb
  generalize f.mag bits = c at *
  by_cases hc : c ≤ f.maxCode
  · rw [if_pos hc, XVal.mk]
    by_cases h0 : f.sig c = 0
    · rw [sig_eq_zero.1 h0] at hbits
      simp [h0, roundWith, hbits]
    · simp only [beq_iff_eq, h0, if_false]
      rw [roundWith_held h0 rfl hc hd, hbits]
  · rw [if_neg hc] at hn ⊢
    by_cases hinf : f.sp = .ieee ∧ c = f.infCode
    · rw [if_pos hinf]
      simp only [roundWith, hinf.1, ← hinf.2, hbits]
    · rw [if_neg hinf] at hn
      cases hn

/-- A NaN is rounded to the canonical one, which a format that holds one has. -/
theorem roundWith_value_nan (hf : f ∈ floatFormats) {bits : Nat} (hn : (f.value bits).isNan = true) (mode : Mode) (sat : Bool)
    (d : Nat) : roundWith (f.value bits) (.flt f) mode sat d = (f.nanCode, 0) := by
  have hv : f.value bits = .nan := by
    cases h : f.value bits <;> simp_all [XVal.isNan]
  have hsp : f.sp ≠ .finiteOnly := by
    intro hsp
    rw [value_eq hf, if_pos (by
      rw [FloatFmt.maxCode, hsp]
      exact Nat.le_sub_one_of_lt (mag_lt f bits)), XVal.mk] at hv
    split at hv <;> cases hv
  rw [hv]
  simp [roundWith, hsp]

/-- The step of the largest code leads its value. -/
theorem value_maxCode (hf : f ∈ floatFormats) :
    f.value f.maxCode = .fin false (f.sig f.maxCode) (f.step f.maxCode) ∧
      topExp (f.sig f.maxCode) (f.step f.maxCode) = f.man + f.step f.maxCode := by
  have hge := (floatFormats_shape f hf).2.1
  have hne : f.maxCode ≠ 0 := by have := Nat.two_pow_pos f.man; omega
  have hv := value_signed hf false (Nat.le_refl f.maxCode)
  have htop := topExp_sig (f := f) hne
  rw [if_neg (Nat.not_lt.2 hge)] at htop
  refine ⟨?_, htop⟩
  rw [XVal.mk, if_neg (by simpa [sig_eq_zero] using hne)] at hv
  simpa [FloatFmt.signed] using hv

/-- A value at or above the power of two beyond the largest value overflows. -/
theorem roundedMag_overflow (hf : f ∈ floatFormats) {m : Nat} {e : Int} (hm : m ≠ 0)
    (h : topExp (f.sig f.maxCode) (f.step f.maxCode) < topExp m e) (neg : Bool) (mode : Mode) (d : Nat) :
    f.maxCode < f.roundedMag neg m e mode d := by
  rw [(value_maxCode hf).2] at h
  have hq : f.quantumExp m e = topExp m e - f.man := by
    have := least_le_step f f.maxCode
    unfold FloatFmt.quantumExp
    omega
  have hn : 2 ^ f.man ≤ f.rounded neg m e mode d := by
    have hge : 2 ^ f.man ≤ (quantum m e (f.quantumExp m e)).1 :=
      Nat.not_lt.1 fun hlt => absurd ((quantum_lt_iff hm _ _ _).1 hlt) (by omega)
    unfold FloatFmt.rounded
    dsimp only
    split <;> omega
  have hk : f.maxCode / 2 ^ f.man ≤ (f.quantumExp m e - f.least).toNat := by
    rw [hq]
    unfold FloatFmt.step at h
    omega
  calc f.maxCode < 2 ^ f.man + f.maxCode / 2 ^ f.man * 2 ^ f.man := by
        have := Nat.lt_div_mul_add (a := f.maxCode) (Nat.two_pow_pos f.man)
        omega
    _ ≤ f.roundedMag neg m e mode d := Nat.add_le_add hn (Nat.mul_le_mul_right _ hk)

end

theorem heldValuesRoundToThemselvesClaim : HeldValuesRoundToThemselvesClaim :=
  fun _ hf _ _ mode sat hb hd =>
    ⟨fun hn => roundWith_value hf hb hd hn mode sat, fun hn => roundWith_value_nan hf hn mode sat _⟩

theorem overflowResultClaim : OverflowResultClaim := by
  intro f hf neg m d e mode sat hm hd hbig
  have hover := roundedMag_overflow hf hm (hbig _ _ _ (value_maxCode hf).1) neg mode d
  rw [roundWith_fin, if_pos hover]
  refine ⟨rfl, fun hsp => ?_, fun hsp => ?_, fun hsp hsat => ?_, fun hsp hsat => ?_⟩
  · simp [FloatFmt.overflow, hsp, FloatFmt.signed]
  · simp [FloatFmt.overflow, hsp, FloatFmt.signed]
  · simp [FloatFmt.overflow, hsp, hsat, FloatFmt.signed]
  · cases mode <;> cases neg <;> simp [FloatFmt.overflow, hsp, hsat, FloatFmt.signed]

theorem roundingDrawsClaim : RoundingDrawsClaim := by
  intro x f mode sat r
  refine ⟨?_, fun hmode => ?_⟩
  · rintro rfl
    exact ⟨rfl, rfl⟩
  · have hno : (mode == Mode.rsto) = false := beq_false_of_ne hmode
    simp [round, hno, Rnd.raise]

/-- Settles O11: a held value's quantum is its own step (`roundWith_held`), a value beyond the largest has more quanta than any code
(`roundedMag_overflow`), and a draw is one step of the generator. -/
theorem rounding : Obligations.Rounding :=
  ⟨heldValuesRoundToThemselvesClaim, overflowResultClaim, roundingDrawsClaim⟩

end Sys2Proof.Machine
end

section
/-! PROOF. The scalar floating-point instructions (R129 to R131): an exact result rounded once and put on its way; selections,
conditions and conversions. -/

namespace Sys2Proof.Machine

/-! What a floating operation leaves. -/

/-- A scalar result with flags, of a plain bundle (R119, R120). -/
theorem putXF_plain (a : Acc) (x : Ctx) (rd : BitVec 5) (v : W64) (fl : BitVec 5) {lat : Nat} (hx : x.dropX = false)
    (hk : x.k.regs.rrb = a.k.regs.rrb) (hlat : 1 < lat) :
    a.putXF x rd v fl lat
      = { a with k := a.k.awaits (.scalar true) (a.k.scalarDest rd) [v.zeroExtend 1024] fl (a.s.now + lat) } := by
  simp only [Acc.putXF, Acc.put, Nat.not_le.2 hlat, if_false, Ctx.destX, hx, Bool.false_or, hk, Core.awaits, Core.scalarDest]

/-- A predicate result with flags, of a plain bundle (R119, R120). -/
theorem putPF_plain (a : Acc) (n : BitVec 5) (v : Bool) (fl : BitVec 5) {lat : Nat} (hlat : 1 < lat) :
    a.putPF n v fl lat
      = { a with k := a.k.awaits (.scalar true) (.pred n.toNat) [rowOf v.toNat] fl (a.s.now + lat) } := by
  simp only [Acc.putPF, Acc.put, Nat.not_le.2 hlat, if_false, Core.awaits]

/-- The mode that an operation's field selects, as its slot reads it. -/
theorem ctx_mode (s : State) (sl : Slot) (rm : BitVec 3) : (s.ctx sl).mode rm = modeField s.self.regs rm := by
  simp [Ctx.mode, modeField, State.ctx]

/-- The operations of R129 to R131. -/
def isFloat : Instr → Bool
  | .fadd _ | .fsub _ | .fmul _ | .ffma _ | .fdiv _ | .fsqrt _ | .fmin _ | .fmax _ | .fcmp _ | .fcvt _ | .fcvti _
  | .icvtf _ => true
  | _ => false

/-- An operation of the S slot that asks its issue for nothing: no mark, no wait, no line, no check of its own. -/
structure AsksNothing (s : State) (i : Instr) : Prop where
  slot : i.slots.head? = some .s
  quiet : Quiet s .s i
  semadd : ∀ o, i ≠ .semadd o
  reads : spReads (s.begun.ctx .s) i = []

theorem asksNothing_of_isFloat {i : Instr} (h : isFloat i = true) (s : State) : AsksNothing s i := by
  unfold isFloat at h
  split at h
  case h_13 => cases h
  all_goals exact ⟨rfl, ⟨rfl, fun _ => rfl, nofun, rfl, rfl, rfl, rfl, rfl⟩, nofun, rfl⟩

/-- The step of an operation of the S slot that changes its core and the generator alone. -/
theorem exec_drawn {s : State} {i : Instr} (hi : AsksNothing s i) (h : s.issues .s i 2 = true) {k : Core} {rnd : Rnd}
    (ha : slotEffect i (s.begun.ctx .s) s.begun.acc = { s.begun.acc with k, rnd })
    (hheld : k.regs.held = s.begun.self.regs.held) (hbad : k.bad = s.begun.self.bad) :
    exec i s = .next (s.leaves s.begun (k.seeded rnd.seed) (s.self.pc + 2) 0) := by
  obtain ⟨-, -, -, -, hheld', hbad', -⟩ := issues_parts h
  have ha' : slotEffect i (s.begun.ctx .s) { s.begun.acc with s := meetReads s.cur (spReads (s.begun.ctx .s) i) s.begun }
      = { s.begun.acc with k, rnd } := by rw [hi.reads, meetReads_nil]; exact ha
  rw [exec_effect hi.slot h (by omega) (fun _ => by omega) hi.quiet hi.semadd ha' rfl rfl (hheld.trans hheld')
    (hbad.trans hbad') rfl, ← begun_pc_self]
  rfl

/-- The step of an operation of the S slot whose whole effect is a scalar result without flags. -/
theorem exec_result {s : State} {i : Instr} (hi : AsksNothing s i) (h : s.issues .s i 2 = true) {rd : BitVec 5} {v : W64}
    {lat : Nat} (ha : slotEffect i (s.begun.ctx .s) s.begun.acc = s.begun.acc.putX (s.begun.ctx .s) rd v lat) :
    exec i s = .next (s.leaves s.begun (s.begun.self.gets s.now rd v lat) (s.self.pc + 2) 0) := by
  rw [← begun_pc_self]
  exact exec_scalar hi.slot h hi.quiet hi.semadd hi.reads rd v lat ha

/-- The core that an exact result of a floating operation leaves, rounded once (R80, R119, R129). -/
theorem floatResult_plain (b : State) (o : SFloat) {lat : Nat} (v : XVal × BitVec 5) (hlat : 1 < lat) :
    let r := round v.1 (fmtOf o.ty) (modeField b.self.regs o.rm) (o.sat == 1) ⟨b.self.regs.seed, v.2⟩
    floatResult o lat v (b.ctx .s) b.acc = { b.acc with
      k := b.self.awaits (.scalar true) (b.self.scalarDest o.rd) [(BitVec.ofNat 64 r.1).zeroExtend 1024] r.2.flags (b.now + lat)
      rnd := r.2 } := by
  unfold floatResult
  rw [ctx_mode]
  exact putXF_plain _ _ _ _ _ rfl rfl hlat

/-! The operations that round once. -/

/-- FCVT between two types rounds the value (R131); to its own type it rounds nothing. -/
theorem effFcvt_of_ne {o : SFloat} (h : o.ty ≠ o.tys) (x : Ctx) (a : Acc) :
    effFcvt o x a = floatResult o 4 (x.fval o.tys o.ra, 0) x a := by
  simp [effFcvt, h]

theorem effFcvt_of_eq {o : SFloat} (h : o.ty = o.tys) (x : Ctx) (a : Acc) :
    effFcvt o x a = a.putX x o.rd (BitVec.ofNat 64 (selfConv (fmtOf o.ty) (x.rd o.ra).toNat)) 4 := by
  simp [effFcvt, h]

/-- Each operation of `floatExact` has its exact result rounded. -/
theorem floatExact_effect {s : State} {i : Instr} {o : SFloat} {x : XVal × BitVec 5} {lat : Nat}
    (h : floatExact s.begun.self.regs i = some (o, x, lat)) :
    isFloat i = true ∧ 1 < lat ∧ slotEffect i (s.begun.ctx .s) s.begun.acc = floatResult o lat x (s.begun.ctx .s) s.begun.acc := by
  simp only [floatExact, ← ctx_mode s.begun .s] at h
  split at h
  case h_7 o' =>
    split at h
    · cases h
    · next hne =>
      simp only [Option.some.injEq, Prod.mk.injEq] at h
      obtain ⟨rfl, rfl, rfl⟩ := h
      exact ⟨rfl, by decide, effFcvt_of_ne hne _ _⟩
  case h_9 => simp at h
  all_goals
    simp only [Option.some.injEq, Prod.mk.injEq] at h
    obtain ⟨rfl, rfl, rfl⟩ := h
    exact ⟨rfl, by decide, rfl⟩

theorem floatResultsClaim : FloatResultsClaim := by
  intro s i o x lat h hi
  obtain ⟨hfloat, hlat, heff⟩ := floatExact_effect hi
  exact exec_drawn (asksNothing_of_isFloat hfloat s) h (heff.trans (floatResult_plain s.begun o x hlat)) rfl rfl

/-! Selections, conditions, conversions. -/

theorem xlt_asymm {a b : XVal} (h : xlt a b = true) : xlt b a = false := by
  cases a <;> cases b
  case fin.fin n m e k m' e' =>
    simp only [xlt, min_comm e' e, decide_eq_true_eq, decide_eq_false_iff_not] at h ⊢
    omega
  all_goals simp_all [xlt]

/-- At most, of numbers: less or equal. -/
theorem not_xlt_eq {a b : XVal} (ha : a.isNan = false) (hb : b.isNan = false) : (!xlt b a) = (xlt a b || xeq a b) := by
  cases hlt : xlt a b with
  | true => rw [xlt_asymm hlt]; rfl
  | false => simp [xeq, ha, hb, hlt]

/-- No NaN is less than a value, nor a value less than it. -/
theorem xlt_of_nan {a b : XVal} (h : (a.isNan || b.isNan) = true) : xlt a b = false := by
  cases a <;> cases b <;> simp_all [xlt, XVal.isNan]

/-- Whether a condition of FCMP holds (R130). -/
def floatHolds (c : Nat) (a b : XVal) : Bool :=
  let un := a.isNan || b.isNan
  match c with
  | 0 => xeq a b
  | 1 => !xeq a b
  | 2 => !un && xlt a b
  | 3 => !un && (xlt a b || xeq a b)
  | 4 => !un && xlt b a
  | 5 => !un && (xlt b a || xeq a b)
  | 6 => un
  | _ => !un

theorem xeq_comm (a b : XVal) : xeq a b = xeq b a := by
  simp only [xeq, Bool.and_comm, Bool.and_left_comm]

/-- A condition of FCMP, and NV where it is an ordered one of a NaN. -/
theorem floatCond_eq (c : Nat) (a b : XVal) :
    floatCond c a b = (floatHolds c a b, if (a.isNan || b.isNan) && 2 ≤ c && c ≤ 5 then fNV else 0) := by
  match c with
  | 0 => simp [floatCond, floatHolds]
  | 1 => simp [floatCond, floatHolds]
  | 2 | 4 =>
    cases hun : a.isNan || b.isNan
    · simp [floatCond, floatHolds, hun]
    · simp [floatCond, floatHolds, hun, xlt_of_nan hun, xlt_of_nan ((Bool.or_comm ..).trans hun)]
  | 3 | 5 =>
    cases hun : a.isNan || b.isNan
    · obtain ⟨ha, hb⟩ := Bool.or_eq_false_iff.1 hun
      simp only [floatCond, floatHolds, hun, not_xlt_eq ha hb, not_xlt_eq hb ha, xeq_comm b a]
      rfl
    · simp [floatCond, floatHolds, hun]
  | 6 => simp [floatCond, floatHolds]
  | n + 7 => simp [floatCond, floatHolds]

/-- The effect of FCMP: its condition and NV on their way to its predicate. -/
theorem effFcmp_plain (b : State) (o : SFloat) :
    let p := exactScalar b.self.regs o.ty o.ra
    let q := exactScalar b.self.regs o.ty o.rb
    effFcmp o (b.ctx .s) b.acc = { b.acc with
      k := b.self.awaits (.scalar true) (.pred o.rd.toNat) [rowOf (floatHolds o.tys.toNat p q).toNat]
        (if (p.isNan || q.isNan) && 2 ≤ o.tys.toNat && o.tys.toNat ≤ 5 then fNV else 0) (b.now + 4) } := by
  dsimp only
  unfold effFcmp
  rw [floatCond_eq]
  exact putPF_plain _ _ _ _ (by decide)

/-- The effect of FCVTI: the integer, extended by its signedness (R131). -/
theorem effFcvti_plain (b : State) (o : SFloat) :
    let r := round (exactScalar b.self.regs o.tys o.ra) (fmtOf o.ty) (modeField b.self.regs o.rm) false ⟨b.self.regs.seed, 0⟩
    effFcvti o (b.ctx .s) b.acc = { b.acc with
      k := b.self.awaits (.scalar true) (b.self.scalarDest o.rd) [(intScalar (fmtOf o.ty) r.1).zeroExtend 1024] r.2.flags
        (b.now + 4)
      rnd := r.2 } := by
  unfold effFcvti
  rw [ctx_mode]
  exact putXF_plain _ _ _ _ _ rfl rfl (by decide)

theorem floatSelectionsClaim : FloatSelectionsClaim := by
  intro s o
  dsimp only
  refine ⟨fun h => ?_, fun h => ?_, fun h => ?_, fun hty h => ?_, fun h => ?_⟩
  · exact exec_result (asksNothing_of_isFloat rfl s) h rfl
  · exact exec_result (asksNothing_of_isFloat rfl s) h rfl
  · have hi := asksNothing_of_isFloat (i := .fcmp o) rfl s
    rw [← begun_pc_self]
    exact exec_core hi.slot h hi.quiet hi.semadd hi.reads _ (effFcmp_plain s.begun o) rfl rfl rfl
  · exact exec_result (asksNothing_of_isFloat rfl s) h (effFcvt_of_eq hty _ _)
  · exact exec_drawn (asksNothing_of_isFloat rfl s) h (effFcvti_plain s.begun o) rfl rfl

/-- Settles O12: each exact result is rounded once (`floatResult_plain`), an FCMP follows its table (`floatCond_eq`), and what asks for
nothing but its own core issues as its effect (`exec_drawn`). -/
theorem floatInstructions : Obligations.FloatInstructions := ⟨floatResultsClaim, floatSelectionsClaim⟩

end Sys2Proof.Machine
end

section
/-! PROOF. What an accumulation computes (R93 to R96, R186): packed elements read back, an INT8 accumulation element by element, one
chunk of a floating accumulation; and how an MMA retires (R191, R200, R201). -/

namespace Sys2Proof.Machine

/-! Packed elements (R9). -/

theorem elem_pack (w : Nat) (l : List Nat) {j v : Nat} (h : l[j]? = some v) : elem w (pack w l) j = v % 2 ^ w := by
  induction l generalizing j with
  | nil => simp at h
  | cons x xs ih =>
    have hx : x % 2 ^ w < 2 ^ w := Nat.mod_lt _ (Nat.two_pow_pos w)
    cases j with
    | zero =>
      obtain rfl : x = v := by simpa using h
      simp [elem, pack, Nat.shiftLeft_eq]
    | succ j =>
      have htail : pack w (x :: xs) >>> w = pack w xs := by
        rw [pack, Nat.shiftLeft_eq, Nat.shiftRight_eq_div_pow, Nat.add_mul_div_right _ _ (Nat.two_pow_pos w),
          Nat.div_eq_of_lt hx, Nat.zero_add]
      rw [elem, Nat.mul_succ, Nat.add_comm, Nat.shiftRight_add, htail]
      exact ih (by simpa using h)

theorem pack_lt (w : Nat) (l : List Nat) : pack w l < 2 ^ (w * l.length) := by
  induction l with
  | nil => simp [pack]
  | cons x xs ih =>
    have hx : x % 2 ^ w < 2 ^ w := Nat.mod_lt _ (Nat.two_pow_pos w)
    calc pack w (x :: xs) = x % 2 ^ w + pack w xs * 2 ^ w := by rw [pack, Nat.shiftLeft_eq]
      _ < (pack w xs + 1) * 2 ^ w := by rw [Nat.succ_mul]; omega
      _ ≤ 2 ^ (w * xs.length) * 2 ^ w := Nat.mul_le_mul_right _ ih
      _ = 2 ^ (w * (x :: xs).length) := by rw [← Nat.pow_add, List.length_cons, Nat.mul_succ]

theorem toNat_ofNat_of_lt {w n : Nat} (h : n < 2 ^ w) : (BitVec.ofNat w n).toNat = n := by
  rw [BitVec.toNat_ofNat, Nat.mod_eq_of_lt h]

/-- An element of a row of 32 packed words. -/
theorem elem_rowOf_pack {l : List Nat} (hl : l.length = 32) {j v : Nat} (h : l[j]? = some v) :
    elem 32 (rowOf (pack 32 l)).toNat j = v % 2 ^ 32 := by
  have hlt : pack 32 l < 2 ^ 1024 := by
    have hlt := pack_lt 32 l
    rwa [hl, show 32 * 32 = 1024 from rfl] at hlt
  rw [rowOf, toNat_ofNat_of_lt hlt, elem_pack 32 l h]

theorem getElem?_numbered {α : Type} (l : List α) (n j : Nat) : (numbered n l)[j]? = l[j]?.map fun x => (n + j, x) := by
  induction l generalizing n j with
  | nil => simp [numbered]
  | cons x xs ih =>
    cases j with
    | zero => rfl
    | succ j => simp only [numbered, List.getElem?_cons_succ, ih, Nat.add_assoc, Nat.add_comm 1 j]

theorem length_numbered {α : Type} (l : List α) (n : Nat) : (numbered n l).length = l.length := by
  induction l generalizing n with
  | nil => rfl
  | cons x xs ih => simp [numbered, ih]

/-! An INT8 accumulation (R96). -/

/-- The signed bytes of an operand row. -/
def int8s (row : Row) : List Int := (elems 8 128 row.toNat).map (toSigned 8)

/-- The elements of a row of an INT8 accumulation. -/
def int8Row (m : Mma) (a old : Row) : List Nat :=
  (numbered 0 (m.b.map int8s)).map fun q => accChunkInt (elem 32 old.toNat q.1) (int8s a) q.2

theorem result_int8 {m : Mma} (h : m.fa = 0) :
    m.result = ((m.a.zip m.old).map fun p => rowOf (pack 32 (int8Row m p.1 p.2)), 0) := by
  simp only [Mma.result, h]
  rfl

/-- The sum of the products of two operand rows. -/
theorem accChunkInt_int8s (acc : Nat) (a b : Row) :
    (accChunkInt acc (int8s a) (int8s b) : Int)
      = (acc + ((List.range 128).map fun x => toSigned 8 (elem 8 a.toNat x) * toSigned 8 (elem 8 b.toNat x)).sum) % 2 ^ 32 := by
  have hzip : ((int8s a).zip (int8s b)).map (fun p => p.1 * p.2)
      = (List.range 128).map fun x => toSigned 8 (elem 8 a.toNat x) * toSigned 8 (elem 8 b.toNat x) := by
    simp only [int8s, elems, List.map_map, List.zip_map', Function.comp_def]
  rw [accChunkInt, hzip, ← List.sum_eq_foldl, wrapInt, Int.toNat_of_nonneg (Int.emod_nonneg _ (by decide))]
  rfl

theorem integerAccumulationClaim : IntegerAccumulationClaim := by
  intro m i j a b old hfa hla hlo hlb ha hb ho
  have hrow : m.result.1[i]? = some (rowOf (pack 32 (int8Row m a old))) := by
    have hzip : (m.a.zip m.old)[i]? = some (a, old) := List.getElem?_zip_eq_some.2 ⟨ha, ho⟩
    simp [result_int8 hfa, hzip]
  have hlen : (int8Row m a old).length = 32 := by simp [int8Row, length_numbered, hlb]
  have helem : (int8Row m a old)[j]? = some (accChunkInt (elem 32 old.toNat j) (int8s a) (int8s b)) := by
    simp [int8Row, getElem?_numbered, hb]
  refine ⟨by rw [result_int8 hfa], by simp [result_int8 hfa, hla, hlo], ?_⟩
  rw [List.getD_eq_getElem?_getD, hrow, Option.getD_some, elem_rowOf_pack hlen helem, Int.natCast_mod, accChunkInt_int8s]
  exact Int.emod_emod_of_dvd _ (dvd_refl _)

/-! One chunk of a floating accumulation (R93 to R95). -/

theorem xmul_isNan {a b : XVal} (h : (a.isNan || b.isNan) = true) : (xmul a b).1.isNan = true := by
  cases a <;> cases b <;> simp_all [xmul, XVal.isNan]

/-- The product of finite values is finite. -/
theorem xmul_finite {a b : XVal} (ha : (!a.isNan && !a.isInf) = true) (hb : (!b.isNan && !b.isInf) = true) :
    (!(xmul a b).1.isNan && !(xmul a b).1.isInf) = true := by
  cases a <;> cases b <;> simp_all [xmul, XVal.isNan, XVal.isInf]

/-- The products of a chunk. -/
def chunkTerms (as bs : List XVal) : List XVal := (as.zip bs).map fun p => (xmul p.1 p.2).1

/-- A NaN among the operands is one among the products. -/
theorem chunkTerms_any_isNan {as bs : List XVal} (hl : as.length = bs.length)
    (h : (as.any XVal.isNan || bs.any XVal.isNan) = true) : (chunkTerms as bs).any XVal.isNan = true := by
  induction as generalizing bs with
  | nil => cases bs with
    | nil => simp at h
    | cons => cases hl
  | cons a as ih => cases bs with
    | nil => cases hl
    | cons b bs =>
      by_cases hab : (a.isNan || b.isNan) = true
      · simp [chunkTerms, xmul_isNan hab]
      · have hrest : (as.any XVal.isNan || bs.any XVal.isNan) = true := by
          simp only [List.any_cons] at h
          simp_all
        have := ih (Nat.succ.inj hl) hrest
        simp only [chunkTerms, List.zip_cons_cons, List.map_cons, List.any_cons] at this ⊢
        rw [this, Bool.or_true]

theorem chunkTerms_finite {as bs : List XVal} (ha : as.all (fun x => !x.isNan && !x.isInf) = true)
    (hb : bs.all (fun x => !x.isNan && !x.isInf) = true) :
    ∀ t ∈ chunkTerms as bs, (!t.isNan && !t.isInf) = true := by
  intro t ht
  obtain ⟨⟨a, b⟩, hab, rfl⟩ := List.mem_map.1 ht
  obtain ⟨ham, hbm⟩ := List.of_mem_zip hab
  exact xmul_finite (List.all_eq_true.1 ha a ham) (List.all_eq_true.1 hb b hbm)

theorem accChunk_nan {acc : XVal} {as bs : List XVal} (h : (acc.isNan || (chunkTerms as bs).any XVal.isNan) = true) :
    accChunk acc as bs = (.nan, if acc.isNan || as.any XVal.isNan || bs.any XVal.isNan then 0 else fNV) := by
  simp only [accChunk, List.map_map, Function.comp_def]
  exact if_pos h

/-- A chunk of finite operands: its exact sum added and rounded once. -/
theorem accChunk_finite {acc : XVal} {as bs : List XVal} (hacc : (!acc.isNan && !acc.isInf) = true)
    (hts : ∀ t ∈ chunkTerms as bs, (!t.isNan && !t.isInf) = true) :
    let r := roundWith (xadd .rne acc (sumTerms (chunkTerms as bs))).1 (.flt fp32) .rne false 0
    accChunk acc as bs = (fp32.value r.1, r.2 &&& fOF) := by
  simp only [Bool.and_eq_true, Bool.not_eq_true'] at hacc hts
  have hterms : ((as.zip bs).map fun p => xmul p.1 p.2).map Prod.fst = chunkTerms as bs := by
    simp [chunkTerms, Function.comp_def]
  have hnan : (acc.isNan || (chunkTerms as bs).any XVal.isNan) = false := by
    rw [hacc.1, Bool.false_or, List.any_eq_false]
    exact fun t ht => by simp [(hts t ht).1]
  have hinfs : (acc :: chunkTerms as bs).filter XVal.isInf = [] := by
    rw [List.filter_eq_nil_iff]
    exact fun t ht => by rcases List.mem_cons.1 ht with rfl | ht <;> simp [*]
  have hfind : (chunkTerms as bs).find? XVal.isInf = none := List.find?_eq_none.2 fun t ht => by simp [(hts t ht).2]
  simp only [accChunk, hterms, hnan, hinfs, hfind, List.any_nil, Bool.and_self, Bool.false_eq_true, if_false]

theorem chunkAccumulationClaim : ChunkAccumulationClaim := by
  intro acc as bs hl
  refine ⟨fun hin => ?_, fun hin hterm => ?_, fun hfin => ?_⟩
  · have hnan : (acc.isNan || (chunkTerms as bs).any XVal.isNan) = true := by
      cases hacc : acc.isNan
      · rw [Bool.false_or]
        exact chunkTerms_any_isNan hl (by simpa [hacc] using hin)
      · rfl
    rw [accChunk_nan hnan, if_pos hin]
  · have hnan : (acc.isNan || (chunkTerms as bs).any XVal.isNan) = true := by
      rw [show (chunkTerms as bs).any XVal.isNan = true from hterm, Bool.or_true]
    rw [accChunk_nan hnan, if_neg (by rw [hin]; decide)]
  · obtain ⟨hacc, hops⟩ := Bool.and_eq_true_iff.1 hfin
    rw [List.all_append] at hops
    obtain ⟨has, hbs⟩ := Bool.and_eq_true_iff.1 hops
    exact accChunk_finite hacc (chunkTerms_finite has hbs)

/-! Retirement (R191, R195, R200, R201). -/

theorem mmaRetire_due {s : State} {c : Nat} {m : Mma} (h : (s.core c).mma = some m) (hdue : m.due ≤ s.now) :
    let k := ({ s.core c with mma := none } : Core)
    mmaRetire c s = m.rings.foldl (fun s n => releaseSlots c n s)
      (s.setCore c ((if m.keep then k.setRows m.tc 0 m.result.1 else k).orFlags m.result.2)) := by
  simp only [mmaRetire, h, hdue, if_true]

theorem mmaRetire_not_due {s : State} {c : Nat} (h : ∀ m, (s.core c).mma = some m → s.now < m.due) : mmaRetire c s = s := by
  cases hm : (s.core c).mma with
  | none => simp only [mmaRetire, hm]
  | some m => simp only [mmaRetire, hm, Nat.not_le.2 (h m hm), if_false]

theorem matrixRetiresClaim : MatrixRetiresClaim := fun _ c =>
  ⟨fun _ h hdue => congrArg (Host.Outcome.next <| drain c ·) (mmaRetire_due h hdue),
    fun h => congrArg (Host.Outcome.next <| drain c ·) (mmaRetire_not_due h)⟩

/-- Settles O22: an element of a packed row is that of its list (`elem_rowOf_pack`), a chunk's products are finite or NaN as its operands
are (`chunkTerms_finite`, `chunkTerms_any_isNan`), and an MMA retires at its tick (`mmaRetire_due`). -/
theorem accumulation : Obligations.Accumulation :=
  ⟨integerAccumulationClaim, chunkAccumulationClaim, matrixRetiresClaim⟩

end Sys2Proof.Machine
end

section
/-! PROOF. The integer and predicate instructions (R121 to R128): each word operation as arithmetic on the integers it holds, and the
issue of an operation that asks for nothing but its own core. -/

namespace Sys2Proof.Machine

/-- The operations of R121 to R128. -/
def isInteger : Instr → Bool
  | .add _ | .sub _ | .mul _ | .mulh _ | .div _ | .rem _ | .addi _ | .and _ | .or _ | .xor _ | .shl _ | .shr _ | .sar _
  | .andi _ | .ori _ | .xori _ | .shli _ | .shri _ | .sari _ | .min _ | .max _ | .clz _ | .popc _ | .movi _ | .movhi _
  | .sel _ | .cmp _ | .cmpi _ | .plog _ | .pget _ | .pset _ => true
  | _ => false

theorem asksNothing_of_isInteger {i : Instr} (h : isInteger i = true) (s : State) : AsksNothing s i := by
  unfold isInteger at h
  split at h
  case h_32 => cases h
  all_goals exact ⟨rfl, ⟨rfl, fun _ => rfl, nofun, rfl, rfl, rfl, rfl, rfl⟩, nofun, rfl⟩

/-! Division (R122). -/

/-- The signed quotient is the integer quotient rounded toward zero. -/
theorem sdiv_eq_ofInt (a b : W64) : a.sdiv b = BitVec.ofInt 64 (a.toInt.tdiv b.toInt) :=
  BitVec.eq_of_toInt_eq (by rw [BitVec.toInt_sdiv, BitVec.toInt_ofInt])

/-- The signed remainder is the integer remainder with the dividend's sign. -/
theorem srem_eq_ofInt (a b : W64) : a.srem b = BitVec.ofInt 64 (a.toInt.tmod b.toInt) := by
  rw [← BitVec.toInt_srem, BitVec.ofInt_toInt]

theorem udiv_eq_ofNat (a b : W64) : a.udiv b = BitVec.ofNat 64 (a.toNat / b.toNat) :=
  BitVec.eq_of_toNat_eq (by
    rw [BitVec.toNat_ofNat, Nat.mod_eq_of_lt (Nat.lt_of_le_of_lt (Nat.div_le_self ..) a.isLt)]
    exact BitVec.toNat_udiv)

theorem umod_eq_ofNat (a b : W64) : a.umod b = BitVec.ofNat 64 (a.toNat % b.toNat) :=
  BitVec.eq_of_toNat_eq (by
    rw [BitVec.toNat_ofNat, Nat.mod_eq_of_lt (Nat.lt_of_le_of_lt (Nat.mod_le ..) a.isLt)]
    exact BitVec.toNat_umod)

/-- The quotient of R122, in numbers. -/
theorem quotient_eq (fn : BitVec 6) (a b : W64) :
    quotient (fn == 1) a b = if b = 0 then BitVec.allOnes 64
      else if fn = 1 then BitVec.ofNat 64 (a.toNat / b.toNat) else BitVec.ofInt 64 (a.toInt.tdiv b.toInt) := by
  simp only [quotient, beq_iff_eq, udiv_eq_ofNat, sdiv_eq_ofInt]

theorem remainder_eq (fn : BitVec 6) (a b : W64) :
    remainder (fn == 1) a b = if b = 0 then a
      else if fn = 1 then BitVec.ofNat 64 (a.toNat % b.toNat) else BitVec.ofInt 64 (a.toInt.tmod b.toInt) := by
  simp only [remainder, beq_iff_eq, umod_eq_ofNat, srem_eq_ofInt]

/-- Settles O8: DIV and REM ask for nothing before their issue, and `quotient` and `remainder` are integer division. -/
theorem division : Obligations.Division := by
  intro s o
  dsimp only
  refine ⟨fun h => ?_, fun h => ?_, fun hfn ha hb => ?_, fun hb => ?_⟩
  · rw [← quotient_eq]
    exact exec_result (asksNothing_of_isInteger rfl s) h rfl
  · rw [← remainder_eq]
    exact exec_result (asksNothing_of_isInteger rfl s) h rfl
  · rw [ha, hb, hfn]
    decide
  · rw [if_pos hb, if_pos hb]
    exact ⟨rfl, rfl⟩

theorem add_eq_ofNat (a b : W64) : a + b = BitVec.ofNat 64 (a.toNat + b.toNat) :=
  BitVec.eq_of_toNat_eq (by rw [BitVec.toNat_add, BitVec.toNat_ofNat])

theorem sub_eq_ofInt (a b : W64) : a - b = BitVec.ofInt 64 (a.toNat - b.toNat) :=
  BitVec.eq_of_toNat_eq (by rw [BitVec.toNat_sub, BitVec.toNat_ofInt]; omega)

theorem mul_eq_ofNat (a b : W64) : a * b = BitVec.ofNat 64 (a.toNat * b.toNat) :=
  BitVec.eq_of_toNat_eq (by rw [BitVec.toNat_mul, BitVec.toNat_ofNat])

/-- An immediate added is the sum of the integers. -/
theorem add_imm37 (a : W64) (i : BitVec 37) : a + imm37 i = BitVec.ofInt 64 (a.toNat + i.toInt) := by
  rw [BitVec.ofInt_add, BitVec.ofInt_natCast, BitVec.ofNat_toNat, BitVec.setWidth_eq]
  rfl

/-- The high half of a product is the product divided by 2 ^ 64 (R121). -/
theorem mulHigh_eq (uns : Bool) (a b : W64) :
    mulHigh uns a b = if uns then BitVec.ofNat 64 (a.toNat * b.toNat / 2 ^ 64)
      else BitVec.ofInt 64 (a.toInt * b.toInt / 2 ^ 64) := by
  unfold mulHigh
  split
  · apply BitVec.eq_of_toNat_eq
    have ha := a.isLt
    have hb := b.isLt
    have hab : a.toNat * b.toNat < 2 ^ 128 := by nlinarith
    rw [BitVec.toNat_setWidth, BitVec.toNat_ushiftRight, BitVec.toNat_mul, BitVec.toNat_setWidth, BitVec.toNat_setWidth,
      Nat.shiftRight_eq_div_pow, Nat.mod_eq_of_lt (a := a.toNat) (by omega), Nat.mod_eq_of_lt (a := b.toNat) (by omega),
      Nat.mod_eq_of_lt hab, BitVec.toNat_ofNat]
  · apply BitVec.eq_of_toNat_eq
    have hprod : a.signExtend 128 * b.signExtend 128 = BitVec.ofInt 128 (a.toInt * b.toInt) := (BitVec.ofInt_mul ..).symm
    rw [hprod, BitVec.toNat_setWidth, BitVec.toNat_ushiftRight, BitVec.toNat_ofInt, BitVec.toNat_ofInt,
      Nat.shiftRight_eq_div_pow]
    generalize a.toInt * b.toInt = z
    omega

/-! Shifts (R121). -/

theorem shl64_eq (a : W64) (k : Nat) : shl64 a k = BitVec.ofNat 64 (a.toNat * 2 ^ k) := by
  unfold shl64
  split
  · next h =>
    obtain ⟨j, rfl⟩ := Nat.exists_eq_add_of_le h
    apply BitVec.eq_of_toNat_eq
    rw [BitVec.toNat_ofNat, Nat.pow_add, Nat.mul_left_comm, Nat.mul_mod_right]
    rfl
  · exact BitVec.eq_of_toNat_eq (by rw [BitVec.toNat_shiftLeft, Nat.shiftLeft_eq, BitVec.toNat_ofNat])

theorem shr64_eq (a : W64) (k : Nat) : shr64 a k = BitVec.ofNat 64 (a.toNat / 2 ^ k) := by
  have ha := a.isLt
  unfold shr64
  split
  · next h => rw [Nat.div_eq_of_lt (Nat.lt_of_lt_of_le ha (Nat.pow_le_pow_right (by decide) h))]; rfl
  · exact BitVec.eq_of_toNat_eq (by
      rw [BitVec.toNat_ushiftRight, Nat.shiftRight_eq_div_pow, BitVec.toNat_ofNat,
        Nat.mod_eq_of_lt (Nat.lt_of_le_of_lt (Nat.div_le_self ..) ha)])

theorem sar64_eq (a : W64) (k : Nat) : sar64 a k = BitVec.ofInt 64 (a.toInt / 2 ^ k) := by
  unfold sar64
  split
  · next h =>
    have hpow : (2 : Int) ^ 64 ≤ 2 ^ k := pow_le_pow_right₀ (by decide) h
    have hlo := a.le_toInt
    have hhi := a.toInt_lt
    rw [BitVec.msb_eq_toInt]
    split
    · next hneg =>
      have hq : a.toInt / 2 ^ k = -1 := by
        rw [Int.ediv_eq_iff_of_pos (by positivity)]
        have := of_decide_eq_true hneg
        omega
      rw [hq]
      decide
    · next hneg =>
      rw [Int.ediv_eq_zero_of_lt (by simpa using hneg) (by omega)]
      rfl
  · rw [BitVec.sshiftRight, Int.shiftRight_eq_div_pow]
    norm_cast

/-! Selections and counts. -/

/-- The lesser of two words, unsigned or signed. -/
theorem min64_eq (uns : Bool) (a b : W64) :
    (if less64 uns b a then b else a) = if uns then BitVec.ofNat 64 (Nat.min a.toNat b.toNat)
      else BitVec.ofInt 64 (min a.toInt b.toInt) := by
  cases uns with
  | true =>
    rw [show Nat.min a.toNat b.toNat = min a.toNat b.toNat from rfl]
    by_cases h : b.toNat < a.toNat
    · simp [less64, BitVec.ult_iff_toNat_lt, h, min_eq_right h.le]
    · simp [less64, BitVec.ult_iff_toNat_lt, h, min_eq_left (not_lt.1 h)]
  | false =>
    by_cases h : b.toInt < a.toInt
    · simp [less64, BitVec.slt_iff_toInt_lt, h, min_eq_right h.le]
    · simp [less64, BitVec.slt_iff_toInt_lt, h, min_eq_left (not_lt.1 h)]

/-- The greater of two words, unsigned or signed. -/
theorem max64_eq (uns : Bool) (a b : W64) :
    (if less64 uns a b then b else a) = if uns then BitVec.ofNat 64 (Nat.max a.toNat b.toNat)
      else BitVec.ofInt 64 (max a.toInt b.toInt) := by
  cases uns with
  | true =>
    rw [show Nat.max a.toNat b.toNat = max a.toNat b.toNat from rfl]
    by_cases h : a.toNat < b.toNat
    · simp [less64, BitVec.ult_iff_toNat_lt, h, max_eq_right h.le]
    · simp [less64, BitVec.ult_iff_toNat_lt, h, max_eq_left (not_lt.1 h)]
  | false =>
    by_cases h : a.toInt < b.toInt
    · simp [less64, BitVec.slt_iff_toInt_lt, h, max_eq_right h.le]
    · simp [less64, BitVec.slt_iff_toInt_lt, h, max_eq_left (not_lt.1 h)]

/-- A choice by what differs is the other choice by what is the same. -/
theorem ite_bne_eq (p q : Bool) (a b : W64) : (if p != q then a else b) = if p == q then b else a := by
  cases p <;> cases q <;> rfl

theorem popCount_eq (a : W64) : popCount 64 a.toNat = (List.range 64).countP fun k => a.getLsbD k :=
  List.countP_eq_length_filter.symm

/-- MOVHI puts its immediate above the low 46 bits (R124). -/
theorem movhi_eq (i : BitVec 46) (a : W64) :
    (i.zeroExtend 64 <<< 46) ||| (a &&& (0x3FFFFFFFFFFF : W64)) = BitVec.ofNat 64 (i.toNat * 2 ^ 46 + a.toNat % 2 ^ 46) := by
  apply BitVec.eq_of_toNat_eq
  have hmask : a.toNat &&& (0x3FFFFFFFFFFF : W64).toNat = a.toNat % 2 ^ 46 := Nat.and_two_pow_sub_one_eq_mod a.toNat 46
  have hlow : a.toNat % 2 ^ 46 < 2 ^ 46 := Nat.mod_lt _ (by decide)
  have hi := i.isLt
  rw [BitVec.toNat_or, BitVec.toNat_and, hmask, BitVec.toNat_shiftLeft, BitVec.toNat_setWidth, BitVec.toNat_ofNat,
    Nat.mod_eq_of_lt (a := i.toNat) (by omega), Nat.shiftLeft_eq,
    show i.toNat * 2 ^ 46 % 2 ^ 64 = (i.toNat % 2 ^ 18) <<< 46 by rw [Nat.shiftLeft_eq]; omega,
    ← Nat.shiftLeft_add_eq_or_of_lt hlow, Nat.shiftLeft_eq]
  omega

/-! The issue. -/

/-- Each operation of `integerResult` puts that result, after that time, on its way to its register. -/
theorem integerResult_effect {s : State} {i : Instr} {rd : BitVec 5} {v : W64} {lat : Nat}
    (h : integerResult s.begun.self.regs i = some (rd, v, lat)) :
    isInteger i = true ∧ slotEffect i (s.begun.ctx .s) s.begun.acc = s.begun.acc.putX (s.begun.ctx .s) rd v lat := by
  unfold integerResult at h
  split at h
  case h_26 => cases h
  all_goals
    simp only [Option.some.injEq, Prod.mk.injEq] at h
    obtain ⟨rfl, rfl, rfl⟩ := h
    refine ⟨rfl, ?_⟩
  case h_1 => rw [← add_eq_ofNat]; rfl
  case h_2 => rw [← sub_eq_ofInt]; rfl
  case h_3 => rw [← mul_eq_ofNat]; rfl
  case h_4 => rw [← mulHigh_eq]; rfl
  case h_5 => rw [← add_imm37]; rfl
  case h_9 | h_15 => rw [← shl64_eq]; rfl
  case h_10 | h_16 => rw [← shr64_eq]; rfl
  case h_11 | h_17 => rw [← sar64_eq]; rfl
  case h_18 => rw [← min64_eq]; rfl
  case h_19 => rw [← max64_eq]; rfl
  case h_21 => rw [← popCount_eq]; rfl
  case h_23 => rw [← movhi_eq]; rfl
  case h_24 o =>
    exact congrArg (fun v => s.begun.acc.putX (s.begun.ctx .s) o.rd v 1) (ite_bne_eq _ _ _ _)
  case h_25 => rw [BitVec.ofNat_toNat]; rfl
  all_goals rfl

theorem integerResultsClaim : IntegerResultsClaim := by
  intro s i rd v lat h hi
  obtain ⟨hint, heff⟩ := integerResult_effect hi
  exact exec_result (asksNothing_of_isInteger hint s) h heff

/-! Predicates (R125 to R128). -/

/-- A predicate result of one cycle is written at once. -/
theorem putP_one (a : Acc) (n : BitVec 5) (b : Bool) : a.putP n b 1 = { a with k := withPred a.k n b } := by
  cases b <;> simp [Acc.putP, Acc.put, Core.landAt, Core.landRegs, withPred, rowOf]

theorem intCond_iff (fn : Nat) (a b : W64) : intCond fn a b = true ↔ conditionHolds fn a b := by
  unfold intCond conditionHolds
  split <;> simp [BitVec.slt_eq_decide, BitVec.ult_eq_decide]

/-- The step of an operation that writes one predicate. -/
theorem exec_pred {s : State} {i : Instr} (hi : isInteger i = true) (h : s.issues .s i 2 = true) {n : BitVec 5} {b : Bool}
    (ha : slotEffect i (s.begun.ctx .s) s.begun.acc = s.begun.acc.putP n b 1) :
    exec i s = .next (s.leaves s.begun (withPred s.begun.self n b) (s.self.pc + 2) 0) := by
  have hask := asksNothing_of_isInteger hi s
  rw [← begun_pc_self]
  exact exec_core hask.slot h hask.quiet hask.semadd hask.reads _ (ha.trans (putP_one ..)) rfl rfl rfl

/-- The bit of a PLOG's table that two predicates select. -/
theorem tableIndex_eq (a b : Bool) : 2 * a.toNat + b.toNat = (if a then 2 else 0) + if b then 1 else 0 := by
  cases a <;> cases b <;> rfl

/-- The predicates that PSET leaves are those whose bits are its operands' under the mask. -/
theorem pset_eq (q p : BitVec 24) (a m : W64)
    (h : ∀ n < 24, p.getLsbD n = if m.getLsbD n then a.getLsbD n else q.getLsbD n) :
    (q &&& ~~~(m.truncate 24)) ||| (a.truncate 24 &&& m.truncate 24) = p := by
  refine BitVec.eq_of_getLsbD_eq fun n hn => ?_
  rw [h n hn]
  cases hm : m.getLsbD n <;> simp [hn, hm]

theorem predicatesClaim : PredicatesClaim := by
  intro s b
  dsimp only
  refine ⟨fun o h hb => ?_, fun o h hb => ?_, fun o h hb => ?_, fun o p h hp => ?_⟩
  · rw [← intCond_iff, Bool.coe_iff_coe] at hb
    rw [hb]
    exact exec_pred rfl h rfl
  · rw [← intCond_iff, Bool.coe_iff_coe] at hb
    rw [hb]
    exact exec_pred rfl h rfl
  · refine exec_pred rfl h ?_
    rw [hb]
    exact congrArg (fun n => s.begun.acc.putP o.pd (o.tt.getLsbD n) 1) (tableIndex_eq _ _)
  · have hask := asksNothing_of_isInteger (i := .pset o) rfl s
    rw [← begun_pc_self s, ← pset_eq _ p _ _ hp]
    exact exec_core hask.slot h hask.quiet hask.semadd hask.reads _ rfl rfl rfl rfl

/-- Settles O9: each integer operation's result is that of its row (`integerResult_effect`), each predicate that of its condition
or mask, and none asks for anything before its issue. -/
theorem integerAndPredicateResults : Obligations.IntegerAndPredicateResults := ⟨integerResultsClaim, predicatesClaim⟩

end Sys2Proof.Machine
end

section
/-! PROOF. XLAT and HREL (R138): what was on its way to a handle is discarded, and the handle takes its new state. -/

namespace Sys2Proof.Machine

/-- The step of an operation of the S slot that changes its core and the state beside it. -/
theorem exec_beside {s : State} {i : Instr} (hi : AsksNothing s i) (h : s.issues .s i 2 = true) {t : State} {k : Core}
    (ha : slotEffect i (s.begun.ctx .s) s.begun.acc = { s.begun.acc with s := t, k }) (hnow : t.now = s.now)
    (hheld : k.regs.held = s.begun.self.regs.held) (hseed : k.regs.seed = s.begun.self.regs.seed)
    (hbad : k.bad = s.begun.self.bad) : exec i s = .next (s.leaves t k (s.self.pc + 2) 0) := by
  obtain ⟨-, -, -, -, hheld', hbad', -⟩ := issues_parts h
  have ha' : slotEffect i (s.begun.ctx .s) { s.begun.acc with s := meetReads s.cur (spReads (s.begun.ctx .s) i) s.begun }
      = { s.begun.acc with s := t, k } := by rw [hi.reads, meetReads_nil]; exact ha
  rw [exec_effect hi.slot h (by omega) (fun _ => by omega) hi.quiet hi.semadd ha' rfl rfl (hheld.trans hheld')
    (hbad.trans hbad') hnow, ← begun_pc_self s]
  have hsame : ({ k with regs := { k.regs with seed := s.begun.self.regs.seed } } : Core) = k := by
    rw [seed_same k.regs _ hseed.symm]
  exact congrArg (fun j => Host.Outcome.next (s.leaves t j (s.begun.self.pc + 2) 0)) hsame

/-! What is on its way to a handle. -/

/-- Discarding what is on its way to a handle changes of the state no more than a die. -/
theorem dropWalk_state (c h : Nat) (a : Acc) : (dropWalk c h a).s = a.s ∨ ∃ d, (dropWalk c h a).s = a.s.setDie (coreDie c) d := by
  unfold dropWalk
  dsimp only
  split
  · exact .inr ⟨_, rfl⟩
  · exact .inl rfl

theorem dropWalk_now (c h : Nat) (a : Acc) : (dropWalk c h a).s.now = a.s.now := by
  rcases dropWalk_state c h a with heq | ⟨d, heq⟩ <;> simp only [heq, State.setDie_now]

/-- The address space of a core is its launch's, whatever a die's walks. -/
theorem dropWalk_space (c h : Nat) (a : Acc) (d : Nat) : (dropWalk c h a).s.space d = a.s.space d := by
  rcases dropWalk_state c h a with heq | ⟨e, heq⟩ <;> simp only [heq, State.space, State.setDie_core, State.setDie_launch]

/-! The effects. -/

/-- The core with a handle that has recorded an address (R138). -/
abbrev Core.translating (k : Core) (n : Nat) (state : HState) (va : W64) : Core :=
  { k with regs := k.regs.setHandle n { k.regs.handle n with state, va } }

section
variable (b : State) (o : SReg) (a : Acc) (ha : a = dropWalk b.cur o.rd.toNat b.acc)
include ha

/-- An address that is not canonical (R138). -/
theorem effXlat_faulted (hva : 2 ^ 56 ≤ (b.self.regs.rd o.ra).toNat) :
    effXlat o (b.ctx .s) b.acc = { a with k := a.k.translating o.rd.toNat .faulted (b.self.regs.rd o.ra) } := by
  subst ha
  have hbad : ((b.self.regs.rd o.ra).toNat / 2 ^ 56 != 0) = true := by
    rw [bne_iff_ne]
    omega
  exact if_pos hbad

/-- A canonical address that an entry of the handle TLB covers. -/
theorem effXlat_hit (hva : (b.self.regs.rd o.ra).toNat < 2 ^ 56) {e : Xlation}
    (he : (a.k.htlb.find? fun e => e.covers (b.space b.cur).1 (b.self.regs.rd o.ra).toNat) = some e) :
    effXlat o (b.ctx .s) b.acc = { a with
      k := ({ a.k.translating o.rd.toNat .pending (b.self.regs.rd o.ra) with
        htlb := e :: a.k.htlb.filter (· != e) } : Core).awaits (.scalar false) (.handle o.rd.toNat e) [] 0 (a.s.now + 24) } := by
  have hspace : (dropWalk b.cur o.rd.toNat b.acc).s.space b.cur = b.space b.cur := dropWalk_space ..
  subst ha
  have hok : ¬ ((b.self.regs.rd o.ra).toNat / 2 ^ 56 != 0) = true := by
    rw [bne_iff_ne]
    omega
  simp only [effXlat, State.ctx, Ctx.rd, hok, hspace, he]
  rfl

/-- A canonical address that no entry covers waits for a walk. -/
theorem effXlat_miss (hva : (b.self.regs.rd o.ra).toNat < 2 ^ 56)
    (he : (a.k.htlb.find? fun e => e.covers (b.space b.cur).1 (b.self.regs.rd o.ra).toNat) = none) :
    effXlat o (b.ctx .s) b.acc = { a with
      s := a.s.queueWalk (coreDie b.cur) (b.space b.cur).1 (b.space b.cur).2 (b.self.regs.rd o.ra)
        (.handle b.cur o.rd.toNat)
      k := a.k.translating o.rd.toNat .pending (b.self.regs.rd o.ra) } := by
  have hspace : (dropWalk b.cur o.rd.toNat b.acc).s.space b.cur = b.space b.cur := dropWalk_space ..
  subst ha
  have hok : ¬ ((b.self.regs.rd o.ra).toNat / 2 ^ 56 != 0) = true := by
    rw [bne_iff_ne]
    omega
  simp only [effXlat, State.ctx, Ctx.rd, hok, hspace, he]
  rfl

end

/-- Settles O16: neither operation asks for anything before its issue; XLAT's effect follows its address and the handle TLB
(`effXlat_faulted`, `effXlat_hit`, `effXlat_miss`). -/
theorem handles : Obligations.Handles := by
  intro s o
  dsimp only
  have hx : AsksNothing s (.xlat o) := ⟨rfl, ⟨rfl, fun _ => rfl, nofun, rfl, rfl, rfl, rfl, rfl⟩, nofun, rfl⟩
  have hr : AsksNothing s (.hrel o) := ⟨rfl, ⟨rfl, fun _ => rfl, nofun, rfl, rfl, rfl, rfl, rfl⟩, nofun, rfl⟩
  have hnow := dropWalk_now s.cur o.rd.toNat s.begun.acc
  refine ⟨fun h hva => ?_, fun h hva hmiss => ?_, fun e h hva hhit => ?_, fun h => ?_⟩
  · exact exec_beside hx h (effXlat_faulted s.begun o _ rfl hva) hnow rfl rfl rfl
  · exact exec_beside hx h (effXlat_miss s.begun o _ rfl hva
      (List.find?_eq_none.2 fun e he => Bool.eq_false_iff.1 (hmiss e he))) hnow rfl rfl rfl
  · have hn : (dropWalk s.cur o.rd.toNat s.begun.acc).s.now = s.now := hnow
    rw [← hn]
    exact exec_beside hx h (effXlat_hit s.begun o _ rfl hva hhit) hnow rfl rfl rfl
  · exact exec_beside hr h rfl hnow rfl rfl rfl

end Sys2Proof.Machine
end

section
/-! PROOF. Results land (R119, R153, R223, R274, R281, R286): by the step of their kind, when they are due; and what performs by
itself after it changes no byte of memory. -/

namespace Sys2Proof.Machine

/-! What performs by itself leaves memory (R272, R295). -/

theorem performEff_mem_of_drains (c : Nat) (s : State) {e : Effect} (h : e.drains = true) : (performEff c s e).mem = s.mem := by
  cases e with
  | store _ _ _ _ _ | sp _ _ | spclr _ _ => cases h
  | signal n v | semadd n v => exact applyAdm_mem ..
  | semset n v => exact moveSem_mem ..
  | _ => rfl

theorem drainFrom_mem (c fuel i : Nat) (s : State) : (drainFrom c fuel i s).mem = s.mem := by
  induction fuel generalizing i s with
  | zero => rfl
  | succ n ih =>
    unfold drainFrom
    split
    · rfl
    · next o ho =>
      split
      · next h =>
        obtain ⟨hdrains, hmay⟩ := Bool.and_eq_true_iff.1 h
        rw [ih]
        simp only [performAt, hmay, if_true, ho]
        exact performEff_mem_of_drains _ _ hdrains
      · exact ih ..

/-- What performs as soon as it may changes no byte of memory. -/
theorem drain_mem (c : Nat) (s : State) : (drain c s).mem = s.mem := drainFrom_mem ..

/-- What performs as soon as it may leaves the registers, the tiles and the flags of the core that it finds. -/
theorem drain_setCore {s : State} {c : Nat} {k : Core} :
    let k' := (drain c (s.setCore c k)).core c
    k'.regs = k.regs ∧ k'.shadow = k.shadow ∧ k'.tile = k.tile ∧ k'.flags = k.flags := by
  have hj := (keeps_drain c (s.setCore c k)).core c
  rw [State.setCore_same] at hj
  exact ⟨agrees_field (f := Core.regs) (fun _ => rfl) hj, agrees_field (f := Core.shadow) (fun _ => rfl) hj,
    agrees_field (f := Core.tile) (fun _ => rfl) hj, agrees_field (f := Core.flags) (fun _ => rfl) hj⟩

/-! The steps. -/

/-- Whether the step of a kind takes the results of another. -/
def landsBy : LandKind → LandKind → Bool
  | .scalar _ => LandKind.isScalar
  | .row _ => LandKind.isRow
  | .load => (· == .load)
  | .atomic _ => LandKind.isAtomic
  | .sample => (· == .sample)

theorem exec_landing (c i : Nat) (kind : LandKind) (s : State) :
    exec (landing c i kind) s = .next (drain c (landStep c (landsBy kind) i s)) := by
  cases kind <;> rfl

/-- The step of a kind takes the results of the kinds whose step it is. -/
theorem landsBy_iff (c i : Nat) (kind other : LandKind) :
    landsBy kind other = true ↔ landing c i kind = landing c i other := by
  cases kind <;> cases other <;> simp [landsBy, landing, LandKind.isScalar, LandKind.isRow, LandKind.isAtomic]

section
variable {s : State} {c i : Nat} {l : Landing} (hl : (s.core c).land[i]? = some l)
include hl

/-- A result that is due lands by the step of its kind. -/
theorem landStep_due (hdue : l.due ≤ s.now) :
    landStep c (landsBy l.kind) i s = s.setCore c
      ((({ s.core c with land := removeAt (s.core c).land i } : Core).landAt l.region l.dest l.val).orFlags l.flags) := by
  have hown : landsBy l.kind l.kind = true := (landsBy_iff c i _ _).2 rfl
  simp only [landStep, Core.landDue, Core.landOne, hl, hown, hdue, decide_true, Bool.and_self, if_true]

theorem landStep_early (kind : LandKind → Bool) (h : s.now < l.due) : landStep c kind i s = s := by
  simp only [landStep, Core.landDue, hl, Nat.not_le.2 h, decide_false, Bool.and_false, Bool.false_eq_true, if_false]

theorem landStep_other {kind : LandKind → Bool} (h : kind l.kind = false) : landStep c kind i s = s := by
  simp only [landStep, Core.landDue, hl, h, Bool.false_and, Bool.false_eq_true, if_false]

end

/-! What a result leaves. -/

theorem wrPhys_read_same {r : Regs} {n : Nat} (hn : n ≠ 0) (h : r.x.wf = true) (v : W64) : (r.wrPhys n v).x.read n = v := by
  rw [Regs.wrPhys, if_neg (by simpa using hn)]
  exact Store.read_write_same h n v

theorem wrPhys_read_other (r : Regs) {n m : Nat} (h : m ≠ n) (v : W64) : (r.wrPhys n v).x.read m = r.x.read m := by
  unfold Regs.wrPhys
  split
  · rfl
  · exact Store.read_write_other h v

/-- A scalar result lands in its register; in the shadow where a mark has passed since. -/
theorem landAt_scalar_regs (k : Core) (region n : Nat) (v : Row) :
    let k' := k.landAt region (.scalar n) [v]
    k'.regs = k.regs.wrPhys n (v.truncate 64)
      ∧ k'.shadow = (if region < k.region then k.shadow.wrPhys n (v.truncate 64) else k.shadow)
      ∧ k'.tile = k.tile ∧ k'.flags = k.flags := by
  dsimp only [Core.landAt, Core.landRegs]
  split <;> exact ⟨rfl, rfl, rfl, rfl⟩

/-- Settles O34: the step of a kind takes its own results once they are due (`landStep_due`, `landsBy_iff`), and what performs by
itself afterwards leaves registers, tiles, flags and memory (`drain_setCore`, `drain_mem`). -/
theorem resultsLand : Obligations.ResultsLand := by
  intro s c i l hl
  dsimp only
  have hland : l.due ≤ s.now → exec (landing c i l.kind) s = .next (drain c (s.setCore c
      ((({ s.core c with land := removeAt (s.core c).land i } : Core).landAt l.region l.dest l.val).orFlags l.flags))) :=
    fun hdue => by rw [exec_landing, landStep_due hl hdue]
  refine ⟨hland, fun h => ?_, fun kind hne => ?_, fun n v hd hn hv hdue hwf hwf' => ?_, fun r n v hd hv hdue hwf => ?_⟩
  · rw [exec_landing, landStep_early hl _ h]
  · rw [exec_landing, landStep_other hl]
    exact Bool.eq_false_iff.2 fun h => hne ((landsBy_iff c i _ _).1 h)
  · refine ⟨_, hland hdue, ?_⟩
    rw [hd, hv]
    obtain ⟨hregs, hshadow, htile, hflags⟩ := drain_setCore (s := s) (c := c)
      (k := ((({ s.core c with land := removeAt (s.core c).land i } : Core).landAt l.region (.scalar n) [v]).orFlags l.flags))
    obtain ⟨hregs', hshadow', htile', hflags'⟩ :=
      landAt_scalar_regs { s.core c with land := removeAt (s.core c).land i } l.region n v
    rw [hregs, hshadow, htile, hflags]
    simp only [Core.orFlags]
    rw [hregs', hshadow', htile', hflags']
    refine ⟨wrPhys_read_same hn hwf _, fun hlt => ?_, fun hle => ?_, rfl, fun m hm => wrPhys_read_other _ hm _, rfl, drain_mem ..⟩
    · rw [if_pos hlt]
      exact wrPhys_read_same hn hwf' _
    · rw [if_neg (Nat.not_lt.2 hle)]
  · refine ⟨_, hland hdue, ?_⟩
    rw [hd, hv]
    obtain ⟨hregs, -, htile, hflags⟩ := drain_setCore (s := s) (c := c)
      (k := ((({ s.core c with land := removeAt (s.core c).land i } : Core).landAt l.region (.row r n) [v]).orFlags l.flags))
    rw [Core.row, hregs, htile, hflags]
    exact ⟨Store.read_write_same hwf _ _, fun m hm => Store.read_write_other hm _, rfl, rfl, drain_mem ..⟩

end Sys2Proof.Machine
end

section
/-! PROOF. Accesses through a handle (R138, R248, R277, R283): what the checks of a handle's page stop on, in their order; the global
stores of a page that is ready; the traps of loads, stores and atomics. -/

namespace Sys2Proof

open Machine

/-! The checks of R248. -/

/-- What an access to an offset of a handle's page traps on, by the first check that fails: the trap and its record's words. -/
inductive HandleStop (hd : Handle) (hn : W64) (off align size : Nat) (need : Need) : Trap → W64 → W64 → Prop
  | invalid (h : hd.state = .invalid) : HandleStop hd hn off align size need .handleInvalid 0 0
  | revoked (h : hd.state = .revoked) :
    HandleStop hd hn off align size need .handleRevoked (BitVec.ofNat 64 (hd.page.base + off)) hn
  | faulted (h : hd.state = .faulted) : HandleStop hd hn off align size need .pageFault hd.va hn
  | misalign (h : hd.state = .valid) (hp : ¬ (off % align = 0 ∧ off + size ≤ pageSize hd.page.leaf)) :
    HandleStop hd hn off align size need .misalign (BitVec.ofNat 64 (hd.page.base + off)) hn
  | permission (h : hd.state = .valid) (hp : off % align = 0 ∧ off + size ≤ pageSize hd.page.leaf)
    (hrw : ((need != .store && !leafR hd.page.leaf) || (need != .load && !leafW hd.page.leaf)) = true) :
    HandleStop hd hn off align size need .permFault (BitVec.ofNat 64 (hd.page.base + off)) hn
  | format (h : hd.state = .valid) (hp : off % align = 0 ∧ off + size ≤ pageSize hd.page.leaf)
    (hrw : ((need != .store && !leafR hd.page.leaf) || (need != .load && !leafW hd.page.leaf)) = false)
    (hf : (need == .atomic && leafSfmt hd.page.leaf != leafDfmt hd.page.leaf) = true) :
    HandleStop hd hn off align size need .permFault (BitVec.ofNat 64 (hd.page.base + off)) hn
  | cow (h : hd.state = .valid) (hp : off % align = 0 ∧ off + size ≤ pageSize hd.page.leaf)
    (hrw : ((need != .store && !leafR hd.page.leaf) || (need != .load && !leafW hd.page.leaf)) = false)
    (hf : (need == .atomic && leafSfmt hd.page.leaf != leafDfmt hd.page.leaf) = false)
    (hc : (need != .load && leafCow hd.page.leaf) = true) :
    HandleStop hd hn off align size need .cowWrite (BitVec.ofNat 64 (hd.page.base + off)) hn

section
variable {x : Ctx} {h : BitVec 4} {off align size : Nat} {need : Need}

/-- The check of an access's place, where the access lies in its page at its alignment. -/
theorem outside_eq_false (hp : off % align = 0 ∧ off + size ≤ pageSize (x.k.regs.handle h.toNat).page.leaf) :
    (off % align != 0 || decide (pageSize (x.k.regs.handle h.toNat).page.leaf < off + size)) = false := by
  simp [hp.1, Nat.not_lt.2 hp.2]

/-- The first check that fails traps. -/
theorem probeHandle_of_stop {t : Trap} {w1 w2 : W64}
    (hs : HandleStop (x.k.regs.handle h.toNat) (h.zeroExtend 64) off align size need t w1 w2) :
    probeHandle x h off align size need = .trap t w1 w2 := by
  unfold probeHandle
  cases hs with
  | invalid hst | revoked hst | faulted hst => simp only [hst]
  | misalign hst hp =>
    have hout : (off % align != 0 || decide (pageSize (x.k.regs.handle h.toNat).page.leaf < off + size)) = true := by
      rw [not_and_or, Nat.not_le] at hp
      simpa using hp
    simp only [hst, hout, Probe.trapIf, if_true, Probe.first]
  | permission hst hp hrw =>
    simp only [hst, outside_eq_false hp, hrw, Probe.trapIf, Bool.false_eq_true, if_true, if_false, Probe.first]
  | format hst hp hrw hf =>
    simp only [hst, outside_eq_false hp, hrw, hf, Probe.trapIf, Bool.false_eq_true, if_true, if_false, Probe.first]
  | cow hst hp hrw hf hc =>
    simp only [hst, outside_eq_false hp, hrw, hf, hc, Probe.trapIf, Bool.false_eq_true, if_true, if_false, Probe.first]

/-- An access to a page that is ready for it passes its checks. -/
theorem probeHandle_ready
    (hr : pageReady x.k h off align size (need != .store) (need != .load) (need == .atomic) = true) :
    probeHandle x h off align size need = .go := by
  simp only [pageReady, Bool.and_eq_true, beq_iff_eq, decide_eq_true_eq, Bool.or_eq_true, Bool.not_eq_true'] at hr
  obtain ⟨⟨⟨⟨⟨hst, hal⟩, hin⟩, hread⟩, hwrite⟩, hatom⟩ := hr
  have hrw : ((need != .store && !leafR (x.k.regs.handle h.toNat).page.leaf)
      || (need != .load && !leafW (x.k.regs.handle h.toNat).page.leaf)) = false := by
    rcases hread with h1 | h1 <;> rcases hwrite with h2 | ⟨h2, -⟩ <;> simp [h1, h2]
  have hf : (need == .atomic && leafSfmt (x.k.regs.handle h.toNat).page.leaf != leafDfmt (x.k.regs.handle h.toNat).page.leaf)
      = false := by
    rcases hatom with h1 | h1 <;> simp [h1]
  have hc : (need != .load && leafCow (x.k.regs.handle h.toNat).page.leaf) = false := by
    rcases hwrite with h1 | ⟨-, h1⟩ <;> simp [h1]
  unfold probeHandle
  simp only [hst, outside_eq_false ⟨hal, hin⟩, hrw, hf, hc, Probe.trapIf, Bool.false_eq_true, if_false, Probe.first]

end

/-! The stores (R277). -/

/-- A store asks its issue for nothing but the checks of its page. -/
theorem storeProbe_go {b : State} {o : GFmt} {align size : Nat}
    (hr : pageReady b.self o.h (((b.self.regs.rd o.ro).toNat + o.off.toNat * size) % 2 ^ 64) align size false true false = true) :
    probeStore o align size (b.ctx .t) = .go :=
  probeHandle_ready (x := b.ctx .t) (need := .store) hr

theorem globalStores : GlobalStoresClaim := by
  intro s o
  dsimp only
  refine ⟨fun rel h hr => ?_, fun rel h hr => ?_, fun h hr => ?_⟩
  · cases rel <;>
    exact exec_gates rfl h ⟨rfl, fun _ => rfl, nofun, rfl, rfl, rfl, storeProbe_go hr, rfl⟩ nofun rfl _ rfl
  · cases rel <;>
    exact exec_gates rfl h ⟨rfl, fun _ => rfl, nofun, rfl, rfl, rfl, storeProbe_go hr, rfl⟩ nofun rfl _ rfl
  · refine exec_gates rfl h ⟨rfl, fun _ => rfl, nofun, rfl, rfl, rfl, storeProbe_go hr, rfl⟩ nofun rfl _ ?_
    rw [show slotEffect (.stgt o) (s.begun.ctx .t) s.begun.acc = s.begun.acc.gate
      ((numbered 0 (s.begun.self.rows (physTile s.begun.self.regs.rrb (regHigh o.reg)))).map fun r =>
        .store ((s.begun.ctx .t).place o.h (gOff o 4096 (s.begun.ctx .t))).1
          (placed (((s.begun.ctx .t).place o.h (gOff o 4096 (s.begun.ctx .t))).2 + 128 * r.1) (rowBytes r.2))
          o.cls.toNat o.sc.toNat false) from rfl, numbered_rows, List.map_map]
    rfl

/-! The traps of loads, acquires and stores (R138, R274). -/

/-- A failed check of the handle is what stops an acquire, whatever it would have waited for. -/
theorem first_of_trap {p : Probe} {t : Trap} {w1 w2 : W64} (h : p = .trap t w1 w2) (ps : List Probe) :
    Probe.first (p :: ps) = .trap t w1 w2 := by
  rw [h]; rfl

/-- The step of an access through a handle that fails a check. -/
theorem exec_handleTrap {s : State} {o : GFmt} {i : Instr} {sl : Slot} {align size : Nat} {write : Bool}
    (hi : (sl, i, align, size, write) ∈ [(.l, .ldg o, 8, 8, false), (.l, .ldgr o, 128, 128, false),
      (.l, .ldgt o, 128, 4096, false), (.l, .ldscg o, 256, 256, false), (.l, .ldgAcq o, 8, 8, false),
      (.l, .ldgrAcq o, 128, 128, false), (.t, .stg o, 8, 8, true), (.t, .stgRel o, 8, 8, true), (.t, .stgr o, 128, 128, true),
      (.t, .stgrRel o, 128, 128, true), (.t, .stgt o, 128, 4096, true)])
    (h : s.issues sl i 2 = true) {t : Trap} {w1 w2 : W64}
    (hs : HandleStop (s.begun.self.regs.handle o.h.toNat) (o.h.zeroExtend 64)
      (((s.begun.self.regs.rd o.ro).toNat + o.off.toNat * size) % 2 ^ 64) align size (if write then .store else .load) t w1 w2)
    (hre : t ≠ .regError) (hso : t ≠ .semOverflow) :
    exec i s = .next (drain s.cur (takeTrap s.cur sl.num t w1 w2 s.tried)) := by
  have hp := probeHandle_of_stop (x := s.begun.ctx sl) (h := o.h) hs
  simp only [List.mem_cons, Prod.mk.injEq, List.not_mem_nil, or_false] at hi
  rcases hi with ⟨rfl, rfl, rfl, rfl, rfl⟩ | ⟨rfl, rfl, rfl, rfl, rfl⟩ | ⟨rfl, rfl, rfl, rfl, rfl⟩ | ⟨rfl, rfl, rfl, rfl, rfl⟩ |
    ⟨rfl, rfl, rfl, rfl, rfl⟩ | ⟨rfl, rfl, rfl, rfl, rfl⟩ | ⟨rfl, rfl, rfl, rfl, rfl⟩ | ⟨rfl, rfl, rfl, rfl, rfl⟩ |
    ⟨rfl, rfl, rfl, rfl, rfl⟩ | ⟨rfl, rfl, rfl, rfl, rfl⟩ | ⟨rfl, rfl, rfl, rfl, rfl⟩ <;>
    refine exec_trapped rfl h rfl (fun _ => rfl) nofun rfl rfl (fun _ _ => rfl) ?_ hre hso
  case inr.inr.inr.inr.inl | inr.inr.inr.inr.inr.inl => exact first_of_trap hp _
  all_goals exact hp

theorem handleTraps : HandleTrapsClaim := by
  intro s o i sl align size write hi h
  dsimp only
  have hneed : ∀ e, (((if write then Need.store else .load) != .store && !leafR e)
      || ((if write then Need.store else .load) != .load && !leafW e)) = !(if write then leafW e else leafR e) := by
    intro e; cases write <;> simp
  have hfmt : ∀ b, ((if write then Need.store else .load) == .atomic && b) = false := by intro b; cases write <;> rfl
  refine ⟨fun hst => ?_, fun hst => ?_, fun hst => ?_, fun hst hp => ?_, fun hst hp hrw => ?_, fun hst hp hw hlw hc => ?_⟩
  · exact exec_handleTrap hi h (.invalid hst) (by decide) (by decide)
  · exact exec_handleTrap hi h (.revoked hst) (by decide) (by decide)
  · exact exec_handleTrap hi h (.faulted hst) (by decide) (by decide)
  · exact exec_handleTrap hi h (.misalign hst hp) (by decide) (by decide)
  · exact exec_handleTrap hi h (.permission hst hp (by rw [hneed, hrw]; rfl)) (by decide) (by decide)
  · exact exec_handleTrap hi h (.cow hst hp (by rw [hneed, hw, if_pos rfl, hlw]; rfl) (hfmt _) (by rw [hw, hc]; rfl))
      (by decide) (by decide)

/-! The traps of atomics (R280, R283). -/

/-! The state that an implicit mark leaves. -/

theorem implicitMark_self (s : State) : (implicitMark s.cur s.tried).core s.cur = (implicitMark s.cur s.tried).self :=
  congrArg _ (marked_from s).cur.symm

theorem implicitMark_setSelf (s : State) :
    (implicitMark s.cur s.tried).setCore s.cur (implicitMark s.cur s.tried).self = implicitMark s.cur s.tried := by
  have h := implicitMark_touched (tried_touched s)
  unfold State.touched at h
  rwa [show (implicitMark s.tried.cur s.tried).cur = s.cur from (marked_from s).cur] at h

/-- The context of the one word of a plain bundle that takes a mark first. -/
theorem marked_ctxs (s : State) (sl : Slot) (i : Instr) :
    ctxs s.cur s.marked (s.tried.self.pc + 2) [plainIWord sl i] = [(plainIWord sl i, s.marked.ctx sl)] := by
  have hpc : s.marked.self.pc = s.tried.self.pc := by rw [marked_pc, tried_self]
  have hcur : s.marked.cur = s.cur := (marked_from s).cur
  rw [← hpc, ← hcur]
  exact ctxs_one s.marked sl i

/-- A trap that leaves no count beside its record. -/
theorem takeProbe_trap (c slot : Nat) {t : Trap} (w1 w2 : W64) (s : State) (hre : t ≠ .regError) (hso : t ≠ .semOverflow) :
    takeProbe c slot (.trap t w1 w2) s = takeTrap c slot t w1 w2 s := by
  cases t
  case regError => exact absurd rfl hre
  case semOverflow => exact absurd rfl hso
  all_goals rfl

/-- What stops a bundle that takes a mark before it is tried, none of it being there: it issues on the state that the mark
leaves. -/
theorem tryIssue_marked {s : State} {sl : Slot} {i : Instr} (h : s.issues sl i 2 = true) (hma : marksAlways i = true)
    (hm : ∀ x, marksBefore x i = false) (hsw : ∀ o, i ≠ .semwait o) (hd : ∀ k, downBefore k i = k)
    (hwl : ∀ x t, walksBefore x i t = t) (hst : (slotProbe none (s.marked.ctx sl) i).isStall = false) :
    tryIssue s.cur (plainHeader sl) [plainIWord sl i] false s.tried
      = issueNow s.cur (plainHeader sl) [plainIWord sl i] [plainIWord sl i] (s.tried.self.pc + 2) []
          (implicitMark s.cur s.tried) := by
  obtain ⟨-, -, -, -, -, hbad, -, -, hroom, htiles, hbusy, hgate⟩ := issues_parts h
  have hmark := marked_from s
  have hself := implicitMark_self s
  have hland : (implicitMark s.cur s.tried).landed s.cur = s.marked := rfl
  have hwk : wakeBanks s.cur [plainIWord sl i] s.tried = none :=
    wakeBanks_none _ (by rw [show s.tried.core s.cur = s.tried.self from rfl, ← begun_tileOn, ← begun_rrb]; exact htiles)
  have hx := marked_ctxs s sl i
  have hnext : s.tried.self.pc + 1 + BitVec.ofNat 13 (presCount (plainHeader sl).pres) = s.tried.self.pc + 2 := by
    rw [presCount_header, BitVec.add_assoc]; rfl
  have hrb : regsBusy (implicitMark s.cur s.tried).self [plainIWord sl i] = false := by
    rw [tried_landed, landScales_isBusy, ← tried_landed, ← marked_regs, marked_self] at hbusy
    have hib : (implicitMark s.cur s.tried).self.isBusy = s.tried.self.isBusy :=
      funext fun r => by simp only [Core.isBusy, hmark.busy]
    rw [← hib] at hbusy
    simpa [regsBusy, Core.isBusy, Core.busy] using hbusy
  have hneed : ¬ 64 < (implicitMark s.cur s.tried).self.gated.length + bundleNeed (plainHeader sl) [plainIWord sl i] := by
    rw [hmark.gated]
    have : gateNeed i ≤ 64 := Nat.le_trans (Nat.le_add_left ..) hgate
    simpa [bundleNeed, Header.plain] using this
  have hft : ¬ 4095 < (implicitMark s.cur s.tried).self.pc.toNat % 4096 + 1 + presCount (plainHeader sl).pres := by
    rw [begun_pc, ← hmark.pc] at hroom
    rw [presCount_header]
    omega
  have hprep : prepare s.cur [plainIWord sl i] [plainIWord sl i] (s.tried.self.pc + 2) s.tried = implicitMark s.cur s.tried := by
    simp only [prepare, List.any_cons, List.any_nil, Bool.or_false, hma, Bool.true_or, if_true, List.foldl_cons, List.foldl_nil,
      hself, hd, implicitMark_setSelf, hrb, Bool.false_eq_true, if_false, hland, hx, hwl]
  have hpb : predsBusy (s.tried.core s.cur) [plainIWord sl i] = false := by simp [predsBusy, Ctl.plain]
  have hen : [plainIWord sl i].filter (fun w => w.enabled (s.tried.core s.cur)) = [plainIWord sl i] := rfl
  have hfence : fenceHold s.cur [plainIWord sl i] (implicitMark s.cur s.tried) = none := by
    simp only [fenceHold, List.findSome?, fenceTime_none hm _ (s.begun.ctx sl)]
  unfold tryIssue
  rw [hwk]
  simp only [hpb, Bool.false_eq_true, if_false, hen, show (s.tried.core s.cur).pc = s.tried.self.pc from rfl, hnext, hprep, hself,
    hland, hx, List.map_cons, List.map_nil, wordProbe_plain (b := s.marked) (by rw [marked_bad]; exact hbad), hst, hrb, hneed,
    List.any_cons, List.any_nil, Bool.or_false, Bool.or_self, decide_false, hfence, hft,
    Bool.and_false, barrierOf_none (hm (s.begun.ctx sl)) sl, semWaits_none hsw, headerWait,
    show ((plainHeader sl).wen == 1) = false from rfl, List.append_nil, List.isEmpty_nil, if_true]

/-- The step of an operation that takes a mark before its bundle and whose own check traps: the trap is taken on the state that
the mark leaves, and nothing of the bundle takes effect. -/
theorem exec_markedTrapped {s : State} {sl : Slot} {i : Instr} {t : Trap} {w1 w2 : W64} (h0 : i.slots.head? = some sl)
    (h : s.issues sl i 2 = true) (hma : marksAlways i = true) (hm : ∀ x, marksBefore x i = false)
    (hsw : ∀ o, i ≠ .semwait o) (hd : ∀ k, downBefore k i = k) (hwl : ∀ x t, walksBefore x i t = t)
    (hk : ∀ b n, (regReads b i).any (Reg.k n).meets = false)
    (hp : slotProbe none (s.marked.ctx sl) i = .trap t w1 w2) (hre : t ≠ .regError) (hso : t ≠ .semOverflow) :
    exec i s = .next (drain s.cur (takeTrap s.cur sl.num t w1 w2 (implicitMark s.cur s.tried))) := by
  have hbad : s.marked.self.bad = [] := by rw [marked_bad]; exact (issues_parts h).2.2.2.2.2.1
  have hself := implicitMark_self s
  have hland : (implicitMark s.cur s.tried).landed s.cur = s.marked := rfl
  have hx := marked_ctxs s sl i
  have hft := firstTrap_plain (b := s.marked) hbad hp
  rw [show s.marked.cur = s.cur from (marked_from s).cur] at hft
  have hc : correctRead [plainIWord sl i] [plainIWord sl i] (implicitMark s.cur s.tried).self = (implicitMark s.cur s.tried).self :=
    correctRead_of_landed (by rw [← marked_self]; exact hbad) fun n => hk _ n
  rw [exec_slot h0, issueOne_fetched h (by omega), tryIssue_marked h hma hm hsw hd hwl (by rw [hp]; rfl)]
  simp only [issueNow, show ((plainHeader sl).mark == 1) = false from rfl, Bool.false_eq_true, if_false, headerPass,
    List.foldl_nil, hself, implicitMark_setSelf, hland, hx, hft, hc, takeProbe_trap _ _ _ _ _ hre hso]

/-- The step of an atomic whose handle or page stops it. -/
theorem exec_atomicTrap {s : State} {o : AFmt} {i : Instr} (hi : i ∈ [.aadd o, .amin o, .amax o, .aand o, .aor o, .axor o,
      .axchg o, .acas o, .afadd o]) (h : s.issues .t i 2 = true) {t : Trap} {w1 w2 : W64}
    (hs : HandleStop (s.marked.self.regs.handle o.h.toNat) (o.h.zeroExtend 64)
      (((s.marked.self.regs.rd o.ro).toNat + o.off.toNat * ((fmtOf o.ty).width / 8)) % 2 ^ 64) ((fmtOf o.ty).width / 8)
      ((fmtOf o.ty).width / 8) .atomic t w1 w2) (hre : t ≠ .regError) (hso : t ≠ .semOverflow) :
    exec i s = .next (drain s.cur (takeTrap s.cur 5 t w1 w2 (implicitMark s.cur s.tried))) := by
  have hp : probeAtom o (s.marked.ctx .t) = .trap t w1 w2 := first_of_trap (probeHandle_of_stop (x := s.marked.ctx .t) (h := o.h) hs) _
  simp only [List.mem_cons, List.not_mem_nil, or_false] at hi
  rcases hi with rfl | rfl | rfl | rfl | rfl | rfl | rfl | rfl | rfl <;>
    exact exec_markedTrapped (sl := .t) rfl h rfl (fun _ => rfl) nofun (fun _ => rfl) (fun _ _ => rfl) (fun _ _ => rfl) hp hre hso

theorem atomicTraps : AtomicTrapsClaim := by
  intro s o i hi h
  dsimp only
  refine ⟨fun hst => ?_, fun hst => ?_, fun hst => ?_, fun hst hp => ?_, fun hst hp hrw => ?_, fun hst hp hr hw hf => ?_,
    fun hst hp hr hw hf hc => ?_⟩
  · exact exec_atomicTrap hi h (.invalid hst) (by decide) (by decide)
  · exact exec_atomicTrap hi h (.revoked hst) (by decide) (by decide)
  · exact exec_atomicTrap hi h (.faulted hst) (by decide) (by decide)
  · exact exec_atomicTrap hi h (.misalign hst hp) (by decide) (by decide)
  · exact exec_atomicTrap hi h (.permission hst hp (by rcases Bool.and_eq_false_iff.1 hrw with hno | hno <;> simp [hno])) (by decide) (by decide)
  · exact exec_atomicTrap hi h (.format hst hp (by simp [hr, hw]) (by simpa using hf)) (by decide) (by decide)
  · exact exec_atomicTrap hi h (.cow hst hp (by simp [hr, hw]) (by simp [hf]) (by simpa using hc)) (by decide) (by decide)

/-- Settles O27: a store to a page that is ready gates its bytes (`probeHandle_ready`, `exec_gates`); the first failed check of a
handle's page (`HandleStop`) is the trap that is taken, by an atomic on the state that its mark leaves (`exec_markedTrapped`). -/
theorem globalWritesAndHandleTraps : Obligations.GlobalWritesAndHandleTraps := ⟨globalStores, handleTraps, atomicTraps⟩

end Sys2Proof
end

section
/-! PROOF. Placement of a launch (R406, R411 to R413): what reads of memory by the pumphouse leave unchanged, what a launch's cores hold
as they are entered, and what its placement leaves. -/

namespace Sys2Proof

open Machine

/-! Reads by the pumphouse (R450, R451). -/

/-- A state after reads of memory: the cores, the packages, the queues, the launches and the tick are as before, and memory is
where no granule is in error. -/
structure ReadsOf (s t : State) : Prop where
  cores : t.cores = s.cores
  pkgs : t.pkgs = s.pkgs
  queues : t.queues = s.queues
  launches : t.launches = s.launches
  now : t.now = s.now
  mem : s.dead = [] → t.mem = s.mem ∧ t.dead = []

theorem ReadsOf.refl (s : State) : ReadsOf s s := ⟨rfl, rfl, rfl, rfl, rfl, fun h => ⟨rfl, h⟩⟩

theorem ReadsOf.trans {s t u : State} (h : ReadsOf s t) (h' : ReadsOf t u) : ReadsOf s u :=
  ⟨h'.cores.trans h.cores, h'.pkgs.trans h.pkgs, h'.queues.trans h.queues, h'.launches.trans h.launches, h'.now.trans h.now,
    fun hd => ⟨(h'.mem (h.mem hd).2).1.trans (h.mem hd).1, (h'.mem (h.mem hd).2).2⟩⟩

theorem readsOf_foldl {α : Type} (f : State → α → State) (h : ∀ t a, ReadsOf t (f t a)) (l : List α) (s : State) :
    ReadsOf s (l.foldl f s) :=
  foldl_keeps (p := ReadsOf s) f (fun t a ht => ht.trans (h t a)) l (.refl s)

theorem readsOf_meetGranule (s : State) (g : Nat) : ReadsOf s (meetGranule s g) := by
  unfold meetGranule
  dsimp only
  split
  · next h => exact ⟨rfl, rfl, rfl, rfl, rfl, fun hd => by simp [hd] at h⟩
  · split
    · exact ⟨rfl, rfl, rfl, rfl, rfl, fun h => ⟨rfl, h⟩⟩
    · exact .refl s

theorem readsOf_meetWalk (s : State) (pkg root va : Nat) : ReadsOf s (s.meetWalk pkg root va) :=
  ite_keeps (p := ReadsOf s) _ (.refl s)
    (ite_keeps (p := ReadsOf s) _ (.refl s) (readsOf_foldl meetGranule readsOf_meetGranule _ s))

theorem readsOf_meet (s : State) (src : Src) (o n : Nat) : ReadsOf s (s.meet src o n).1 := by
  unfold State.meet
  split
  · exact .refl s
  · exact readsOf_foldl meetGranule readsOf_meetGranule _ s

theorem readsOf_countRead (s : State) (src : Src) (o n : Nat) : ReadsOf s (s.countRead src o n) := by
  unfold State.countRead State.addSats
  dsimp only
  split
  · exact .refl s
  · split
    · exact .refl s
    · exact ⟨rfl, rfl, rfl, rfl, rfl, fun h => ⟨rfl, h⟩⟩

/-- The reads of a range through an address space. -/
theorem readsOf_afterRead (s : State) (pkg space root va n : Nat) : ReadsOf s (s.afterRead pkg space root va n) := by
  have hwalks := readsOf_foldl (fun s p => s.meetWalk pkg root (p * 65536)) (fun t _ => readsOf_meetWalk t _ _ _) (pagesOf va n) s
  unfold State.afterRead
  split
  · next r e =>
    obtain ⟨ps, -, rfl⟩ := Option.map_eq_some_iff.1 e
    exact foldl_keeps (p := fun a : State × Nat × List Byte => ReadsOf s a.1) _
      (fun a r ha => (ha.trans (readsOf_meet ..)).trans (readsOf_countRead ..)) _ hwalks
  · exact hwalks

theorem readsOf_imageReads (l : Nat) (x : Launch) (s : State) : ReadsOf s (imageReads l x s) :=
  readsOf_foldl (fun s (r : Nat × Nat) => s.afterRead (launchPkg l) x.queue x.root (x.desc.imgVa + r.1) r.2)
    (fun t _ => readsOf_afterRead t _ _ _ _ _) _ s

/-! Cores written one after another. -/

section
variable (f : Nat → Core → Core) (htrap : ∀ c k, (f c k).trap = k.trap)

theorem writeCores_other {cs : List Nat} {d : Nat} (h : d ∉ cs) (s : State) :
    (cs.foldl (fun s c => s.setCore c (f c (s.core c))) s).core d = s.core d := by
  induction cs generalizing s with
  | nil => rfl
  | cons c cs ih =>
    obtain ⟨hd, hcs⟩ : d ≠ c ∧ d ∉ cs := by simpa using h
    rw [List.foldl_cons, ih hcs, State.setCore_other _ _ _ _ hd]

include htrap in
/-- A core written is what the write makes of it, of a core with its trap record. -/
theorem writeCores_mem {cs : List Nat} {d : Nat} (h : d ∈ cs) (s : State) :
    ∃ k : Core, (cs.foldl (fun s c => s.setCore c (f c (s.core c))) s).core d = f d k ∧ k.trap = (s.core d).trap := by
  induction cs generalizing s with
  | nil => cases h
  | cons c cs ih =>
    rw [List.foldl_cons]
    by_cases hd : d ∈ cs
    · obtain ⟨k, hk, ht⟩ := ih hd (s.setCore c (f c (s.core c)))
      refine ⟨k, hk, ht.trans ?_⟩
      by_cases hdc : d = c
      · subst hdc; rw [State.setCore_same, htrap]
      · rw [State.setCore_other _ _ _ _ hdc]
    · obtain rfl : d = c := (List.mem_cons.1 h).resolve_right hd
      exact ⟨s.core d, by rw [writeCores_other f hd, State.setCore_same], rfl⟩

end

/-- Writes of cores and of clusters change no more than these. -/
theorem writeCores_frame (f : Nat → Core → Core) (cs : List Nat) (s : State) :
    { cs.foldl (fun s c => s.setCore c (f c (s.core c))) s with cores := s.cores } = s :=
  foldl_keeps (p := fun t : State => { t with cores := s.cores } = s) (fun s c => s.setCore c (f c (s.core c))) (fun _ _ h => h) cs rfl

theorem writeClusters_frame (f : State → Nat → Cluster) (p : Nat) (cs : List Nat) (s : State) :
    { cs.foldl (fun s c => s.setCluster (p * 48 + c) (f s c)) s with clusters := s.clusters } = s :=
  foldl_keeps (p := fun t : State => { t with clusters := s.clusters } = s) (fun s c => s.setCluster (p * 48 + c) (f s c))
    (fun _ _ h => h) cs rfl

/-! A core as it is entered (R413). -/

theorem bankCode_entryBank (tiles : Nat) {b : Nat} (hb : b < 8) :
    bankCode (entryBank tiles) b = if 16 * b < tiles then 0 else 2 := by
  obtain ⟨n, hn, hiff⟩ : ∃ n, n < 9 ∧ ∀ c, c < 8 → (16 * c < tiles ↔ c < n) :=
    ⟨min 8 ((tiles + 15) / 16), by omega, fun c hc => by omega⟩
  have heq : entryBank tiles = BitVec.ofNat 16 ((List.range 8).foldl (fun v c => v + (if c < n then 0 else 2) * 4 ^ c) 0) := by
    simp only [entryBank, show List.range 8 = [0, 1, 2, 3, 4, 5, 6, 7] from rfl, List.foldl_cons, List.foldl_nil, hiff 0 (by decide),
      hiff 1 (by decide), hiff 2 (by decide), hiff 3 (by decide), hiff 4 (by decide), hiff 5 (by decide), hiff 6 (by decide),
      hiff 7 (by decide)]
  have hall : ∀ n < 9, ∀ b < 8,
      bankCode (BitVec.ofNat 16 ((List.range 8).foldl (fun v c => v + (if c < n then 0 else 2) * 4 ^ c) 0)) b
        = if b < n then 0 else 2 := by decide
  rw [heq, hall n hn b hb]
  simp only [hiff b hb]

/-- The registers at entry, with the arguments in `s1` to `s4`. -/
def entryRegs (c : Nat) (args : List W64) : Regs := (numbered 1 args).foldl (fun r a => r.wrPhys a.1 a.2) (Core.atReset c).regs

/-- Writes of scalars change no other register. -/
theorem wrPhys_frame (r : Regs) (n : Nat) (v : W64) : { r.wrPhys n v with x := [] } = { r with x := [] } := by
  unfold Regs.wrPhys; split <;> rfl

theorem entryRegs_frame (c : Nat) (args : List W64) : { entryRegs c args with x := [] } = (Core.atReset c).regs :=
  foldl_keeps (p := fun r : Regs => { r with x := [] } = (Core.atReset c).regs) (fun r (a : Nat × W64) => r.wrPhys a.1 a.2)
    (fun r a h => (wrPhys_frame r a.1 a.2).trans h) _ rfl

/-- Scalars written one after another from a number on. -/
theorem writeScalars_read (args : List W64) {n : Nat} (hn : 0 < n) {r : Regs} (h : r.x.wf = true) (m : Nat) :
    ((numbered n args).foldl (fun r a => r.wrPhys a.1 a.2) r).x.read m
      = if n ≤ m ∧ m < n + args.length then args.getD (m - n) 0 else r.x.read m := by
  induction args generalizing n r with
  | nil => rw [if_neg (by simp)]; rfl
  | cons a args ih =>
    have hx : (r.wrPhys n a).x = r.x.write n a := by rw [Regs.wrPhys, if_neg (by simpa using hn.ne')]
    have hwf : (r.wrPhys n a).x.wf = true := hx ▸ Store.wf_write h n a
    rw [numbered, List.foldl_cons, ih (Nat.succ_pos n) hwf, hx, List.length_cons]
    by_cases hm : m = n
    · subst hm
      rw [if_neg (by omega), if_pos (by omega), Store.read_write_same h, Nat.sub_self, List.getD_cons_zero]
    · rw [Store.read_write_other hm]
      by_cases hr : n + 1 ≤ m ∧ m < n + 1 + args.length
      · rw [if_pos hr, if_pos (by omega), show m - n = m - (n + 1) + 1 by omega, List.getD_cons_succ]
      · rw [if_neg hr, if_neg (by omega)]

/-- Each argument stands in its register. -/
theorem entryRegs_rd (c : Nat) {args : List W64} (h : args.length = 4) {i : Nat} (hi : i < 4) :
    (entryRegs c args).rd (BitVec.ofNat 5 (i + 1)) = args.getD i 0 := by
  have hname : ∀ i < 4, (BitVec.ofNat 5 (i + 1) == 0) = false ∧ physScalar 0 (BitVec.ofNat 5 (i + 1)) = i + 1 := by decide
  have hread := writeScalars_read args (Nat.succ_pos 0) (r := (Core.atReset c).regs) rfl (i + 1)
  rw [if_pos (by omega)] at hread
  rw [Regs.rd, (hname i hi).1, show (entryRegs c args).rrb = 0 from congrArg Regs.rrb (entryRegs_frame c args), (hname i hi).2]
  exact hread

/-- A core as placement leaves it. -/
theorem entered_enterCore (c l : Nat) (x : Launch) (code rings : List W64) (n : Nat) {k z : Core} (ht : k.trap = z.trap)
    (ha : x.desc.args.length = 4) : entered c l x (enterCore c l x code rings n k) z = true := by
  have hregs : (enterCore c l x code rings n k).regs = entryRegs c x.desc.args := rfl
  have hargs : (List.range 4).all (fun i => (entryRegs c x.desc.args).rd (BitVec.ofNat 5 (i + 1)) == x.desc.args.getD i 0)
      = true := List.all_eq_true.2 fun i hi => beq_iff_eq.2 (entryRegs_rd c ha (List.mem_range.1 hi))
  have hbanks : (List.range 8).all (fun b => bankCode (entryBank x.desc.tiles) b == if 16 * b < x.desc.tiles then 0 else 2)
      = true := List.all_eq_true.2 fun b hb => beq_iff_eq.2 (bankCode_entryBank _ (List.mem_range.1 hb))
  have hframe := entryRegs_frame c x.desc.args
  unfold entered
  dsimp only
  rw [hregs, hargs, hframe]
  unfold enterCore
  dsimp only
  rw [hbanks, ht]
  simp [Core.atReset, entryRegs]

/-! The placement (R411 to R413). -/

/-- The cores of a part entered, and its clusters. -/
def enterCores (delay l : Nat) (x : Launch) (code rings : List W64) (s : State) : State :=
  (maskCores (launchPkg l) x.desc.cmask).foldl (fun s c => s.setCore c (enterCore c l x code rings (s.now + delay) (s.core c))) s
def enterClusters (l : Nat) (x : Launch) (data : List Row) (s : State) : State :=
  ((List.range 48).filter x.desc.cmask.getLsbD).foldl (fun s c => s.setCluster (launchPkg l * 48 + c) (enterCluster l data)) s

/-- No write of a core moves the tick, so every core is entered at the same one. -/
theorem enterCores_eq (delay l : Nat) (x : Launch) (code rings : List W64) (s : State) :
    enterCores delay l x code rings s = (maskCores (launchPkg l) x.desc.cmask).foldl
      (fun t c => t.setCore c (enterCore c l x code rings (s.now + delay) (t.core c))) s := by
  unfold enterCores
  induction maskCores (launchPkg l) x.desc.cmask generalizing s with
  | nil => rfl
  | cons c cs ih => exact ih _

theorem enterCores_frame (delay l : Nat) (x : Launch) (code rings : List W64) (s : State) :
    { enterCores delay l x code rings s with cores := s.cores } = s :=
  enterCores_eq delay l x code rings s ▸ writeCores_frame (fun c k => enterCore c l x code rings (s.now + delay) k) _ s

theorem enterCores_mem (delay : Nat) {l c : Nat} {x : Launch} (code rings : List W64)
    (h : c ∈ maskCores (launchPkg l) x.desc.cmask) (s : State) :
    ∃ k, (enterCores delay l x code rings s).core c = enterCore c l x code rings (s.now + delay) k ∧ k.trap = (s.core c).trap :=
  enterCores_eq delay l x code rings s ▸ writeCores_mem (fun c k => enterCore c l x code rings (s.now + delay) k) (fun _ _ => rfl) h s

theorem enterCores_other (delay : Nat) {l c : Nat} {x : Launch} (code rings : List W64)
    (h : c ∉ maskCores (launchPkg l) x.desc.cmask) (s : State) : (enterCores delay l x code rings s).core c = s.core c :=
  enterCores_eq delay l x code rings s ▸ writeCores_other (fun c k => enterCore c l x code rings (s.now + delay) k) h s

theorem enterClusters_frame (l : Nat) (x : Launch) (data : List Row) (s : State) :
    { enterClusters l x data s with clusters := s.clusters } = s := writeClusters_frame (fun _ _ => enterCluster l data) _ _ s

/-- A part placed with what was read for it, from the state after the reads. -/
def placeWith (delay : Nat) (lord : List Nat) (l : Nat) (x : Launch) (code rings : List W64) (data : List Row) (r : State) : State :=
  let p := launchPkg l
  let w := enterClusters l x data (enterCores delay l x code rings r)
  let u := w.setPkg p { w.pkg p with homeSet := true }
  u.setLaunch l { x with
    phase := .placed, since := u.ticks p + delay, entryTick := u.tbase p + BitVec.ofNat 64 delay, lord, drain := none }

theorem placePart_eq (delay : Nat) (lord : List Nat) (s : State) (l : Nat) :
    ∃ code rings data, placePart delay lord s l
      = placeWith delay lord l (s.launch l) code rings data (imageReads l (s.launch l) s) := by
  -- `read` and `reads` stand for the reads: the kernel would begin to evaluate one of a literal size.
  rw [placePart.eq_1]
  obtain ⟨read, hread⟩ : ∃ f, f = State.vaBytes := ⟨_, rfl⟩
  obtain ⟨reads, hreads⟩ : ∃ f, f = imageReads := ⟨_, rfl⟩
  rw [← hread, ← hreads]
  exact ⟨_, _, _, rfl⟩

/-- What a part's placement leaves: its record, its cores entered at the tick, everything else of cores and queues as before, and
memory where no granule is in error. -/
structure PlacedPart (delay : Nat) (lord : List Nat) (s : State) (l : Nat) (t : State) : Prop where
  phase : (t.launch l).phase = .placed
  entryTick : (t.launch l).entryTick = s.tbase (launchPkg l) + BitVec.ofNat 64 delay
  order : (t.launch l).lord = lord
  entered : ∀ c ∈ s.placedCores l, ∃ (k : Core) (code rings : List W64),
    t.core c = enterCore c l (s.launch l) code rings (s.now + delay) k ∧ k.trap = (s.core c).trap
  others : ∀ c, c ∉ s.placedCores l → t.core c = s.core c
  mem : s.dead = [] → t.mem = s.mem
  queues : t.queues = s.queues

theorem placedPart_placePart (delay : Nat) (lord : List Nat) (s : State) (l : Nat) :
    PlacedPart delay lord s l (placePart delay lord s l) := by
  obtain ⟨code, rings, data, hplace⟩ := placePart_eq delay lord s l
  obtain ⟨r, hr⟩ : ∃ r, imageReads l (s.launch l) s = r := ⟨_, rfl⟩
  have hreads : ReadsOf s r := hr ▸ readsOf_imageReads ..
  have hcore : ∀ c, r.core c = s.core c := fun c => by simp only [State.core, hreads.cores]
  obtain ⟨q, hq⟩ : ∃ q, enterCores delay l (s.launch l) code rings r = q := ⟨_, rfl⟩
  obtain ⟨w, hw⟩ : ∃ w, enterClusters l (s.launch l) data q = w := ⟨_, rfl⟩
  have hqr : { q with cores := r.cores } = r := hq ▸ enterCores_frame ..
  have hwq : { w with clusters := q.clusters } = q := hw ▸ enterClusters_frame ..
  rw [hplace, hr, placeWith, hq, hw]
  have hbase : (w.setPkg (launchPkg l) { w.pkg (launchPkg l) with homeSet := true }).tbase (launchPkg l) = s.tbase (launchPkg l) := by
    have hnow : w.now = s.now := (congrArg State.now hwq).trans ((congrArg State.now hqr).trans hreads.now)
    have hpkg : w.pkgs = s.pkgs := (congrArg State.pkgs hwq).trans ((congrArg State.pkgs hqr).trans hreads.pkgs)
    rw [State.tbase, State.setPkg_same]; simp [State.tbase, State.pkg, hnow, hpkg]
  have hrun : ∀ c, w.core c = q.core c := fun c => (congrArg (State.core · c) hwq :)
  have hmem : w.mem = r.mem := (congrArg State.mem hwq).trans (congrArg State.mem hqr :)
  have hqueues : w.queues = r.queues := (congrArg State.queues hwq).trans (congrArg State.queues hqr :)
  refine ⟨?_, ?_, ?_, fun c hc => ?_, fun c hc => ?_, fun hd => hmem.trans (hreads.mem hd).1, hqueues.trans hreads.queues⟩
  · rw [State.setLaunch_same]
  · rw [State.setLaunch_same]; exact congrArg (· + BitVec.ofNat 64 delay) hbase
  · rw [State.setLaunch_same]
  · obtain ⟨k, hk, ht⟩ := enterCores_mem delay code rings hc r
    rw [hq, hreads.now] at hk
    exact ⟨k, code, rings, (hrun c).trans hk, ht.trans (congrArg Core.trap (hcore c))⟩
  · exact (hrun c).trans (hq ▸ (enterCores_other delay code rings hc r).trans (hcore c))

theorem launchesArePlacedClaim : LaunchesArePlacedClaim := by
  intro s p
  refine ⟨fun h => ?_, fun l hbest hphase hchosen hfab hargs hp => ?_⟩
  · exact congrArg Host.Outcome.next (by rw [launchPlacement, h])
  have hparts : s.parts l = [l] := by rw [State.parts, hfab]; rfl
  have hord : s.lordOf l (s.entryDelay l) = [(s.tbase p).toNat + s.entryDelay l, p, l % 65536] := by
    simp [State.lordOf, hparts, hp]
  have hplace : launchPlacement p s = placePart (s.entryDelay l) (s.lordOf l (s.entryDelay l)) s l := by
    simp [launchPlacement, hbest, hphase, hchosen, hparts]
  have hpart := placedPart_placePart (s.entryDelay l) (s.lordOf l (s.entryDelay l)) s l
  rw [← hplace] at hpart
  refine ⟨_, rfl, hpart.phase, hp ▸ hpart.entryTick, hpart.order.trans hord, fun c hc => ?_, hpart.others, hpart.mem, hpart.queues⟩
  obtain ⟨k, code, rings, hk, ht⟩ := hpart.entered c hc
  exact ⟨hk ▸ entered_enterCore c l _ code rings _ ht hargs, congrArg Core.ready hk⟩

end Sys2Proof
end

section
/-! PROOF. The halt of a core, the end of a launch, and what is freed with it (R415, R416, R419, R428). -/

namespace Sys2Proof

open Machine

variable {s : State} {l : Nat}

/-! Snapshots ordered for one launch (R419). -/

theorem afterSnaps_one (next : State → State) :
    afterSnaps [l] next s = if s.snapsDone l then next (s.endSnaps l) else s.applySnaps l := by simp [afterSnaps]

theorem snapsDone_nil (h : (s.launch l).snaps = []) : s.snapsDone l = true := by rw [State.snapsDone, h]; rfl

theorem endSnaps_nil (h : (s.launch l).snaps = []) : s.endSnaps l = s := by rw [State.endSnaps, h]; rfl

/-- With no snapshot ordered, what comes after the snapshots comes at once. -/
theorem afterSnaps_nil (next : State → State) (h : (s.launch l).snaps = []) : afterSnaps [l] next s = next s := by
  rw [afterSnaps_one, if_pos (snapsDone_nil h), endSnaps_nil h]

theorem snapsDone_iff :
    s.snapsDone l = true ↔ ∀ n ∈ (s.launch l).snaps, ∃ xs, n.inval = some xs ∧ s.quiet xs = true := by
  simp [State.snapsDone, Option.any_eq_true]

/-! The end of a launch, by its phase and its kill (R415, R428). -/

theorem launchEnd_nothing (h : (s.launch l).phase = .none ∨ (s.launch l).phase = .ended ∨
    ((s.launch l).phase ≠ .placed ∧ (s.launch l).doom = none)) : launchEnd l s = s := by
  rcases h with h | h | ⟨h, hdoom⟩
  · simp [launchEnd, h]
  · simp [launchEnd, h]
  · simp [launchEnd, h, hdoom]

theorem launchEnd_unplaced {st code : Nat} (h : (s.launch l).phase = .waiting ∨ (s.launch l).phase = .saved)
    (hdoom : (s.launch l).doom = some (st, code)) : launchEnd l s = afterSnaps [l] (endUnplaced l st code) s := by
  rcases h with h | h <;> simp [launchEnd, h, hdoom]

theorem launchEnd_killed {st code : Nat} (h : (s.launch l).phase = .placed) (hdoom : (s.launch l).doom = some (st, code)) :
    launchEnd l s = if s.killable l || (s.parts l).any s.spared then (s.parts l).foldl (killPart st code) s
      else if (s.placedCores l).all (fun c => (s.core c).idle) && !s.engineHolds fun p => p.lid == l then
        afterSnaps [l] (endPart l st code) s
      else s := by simp [launchEnd, h, hdoom]

theorem launchEnd_halted (h : (s.launch l).phase = .placed) (hdoom : (s.launch l).doom = none) (hhalt : s.halted l = true)
    (hparts : ((s.parts l).all fun m => (s.launch m).doom.isNone) = true)
    (hhost : (s.engineHolds fun p => p.host && p.lid == l) = false)
    (hsync : (s.pkgs.any fun p => p.2.syncs.any fun y => y.entry.lid == l) = false) :
    launchEnd l s = afterSnaps [l] (endPart l 0x01 0) s := by
  unfold launchEnd
  dsimp only
  rw [hdoom, hhalt, hparts, hhost, hsync]
  simp [h]

/-- With no context saved, no entry of a queue is freed. -/
theorem endUnplaced_unsaved (st code : Nat) (h : (s.launch l).saved = none) :
    endUnplaced l st code s = (s.setLaunch l { s.launch l with phase := .ended, saved := none }).complete l (s.launch l) st code := by
  unfold endUnplaced
  dsimp only
  rw [h]
  rfl

/-! What is freed with a launch's part (R415 step 1). -/

/-- The state in which a part's cores have been freed and its clusters have not. -/
def freedCores (s : State) (l : Nat) : State :=
  (s.placedCores l).foldl (fun s c => s.setCore c (freeCore c (s.core c)))
    { s with berms := s.berms.filter fun m => m.dst / 8 * 65536 + m.lid != l }

theorem freedCores_frame (s : State) (l : Nat) : { freedCores s l with cores := s.cores, berms := s.berms } = s :=
  congrArg (fun t : State => { t with berms := s.berms })
    (writeCores_frame freeCore _ { s with berms := s.berms.filter fun m => m.dst / 8 * 65536 + m.lid != l })

theorem freePart_frame (s : State) (l : Nat) : { freePart s l with clusters := s.clusters } = freedCores s l := by
  have h : { freePart s l with clusters := (freedCores s l).clusters } = freedCores s l :=
    writeClusters_frame (fun s n => freeCluster (s.cluster (launchPkg l * 48 + n))) _ _ _
  rwa [show (freedCores s l).clusters = s.clusters from (congrArg State.clusters (freedCores_frame s l) :)] at h

theorem freePart_core (s : State) (l c : Nat) : (freePart s l).core c = (freedCores s l).core c :=
  (congrArg (State.core · c) (freePart_frame s l) :)

theorem freePart_core_mem {c : Nat} (h : c ∈ s.placedCores l) : ∃ k, (freePart s l).core c = freeCore c k := by
  obtain ⟨k, hk, -⟩ := writeCores_mem freeCore (fun _ _ => rfl) h
    { s with berms := s.berms.filter fun m => m.dst / 8 * 65536 + m.lid != l }
  exact ⟨k, (freePart_core s l c).trans hk⟩

theorem freePart_core_other {c : Nat} (h : c ∉ s.placedCores l) : (freePart s l).core c = s.core c :=
  (freePart_core s l c).trans (writeCores_other freeCore h _)

theorem freePart_mem (s : State) (l : Nat) : (freePart s l).mem = s.mem :=
  (congrArg State.mem (freePart_frame s l)).trans (congrArg State.mem (freedCores_frame s l) :)

theorem freePart_launches (s : State) (l : Nat) : (freePart s l).launches = s.launches :=
  (congrArg State.launches (freePart_frame s l)).trans (congrArg State.launches (freedCores_frame s l) :)

theorem launchesEndClaim : LaunchesEndClaim := by
  refine ⟨fun s c => rfl, fun s l h => congrArg _ (launchEnd_nothing h), fun s l st code h hdoom hsnaps hsaved => ?_,
    fun s l h hdoom hhalt hparts hhost hsync => ?_, fun s l st code h hdoom hsnaps => ?_, fun s l => snapsDone_iff, fun s l => ?_⟩
  · exact congrArg Host.Outcome.next (by rw [launchEnd_unplaced h hdoom, afterSnaps_nil _ hsnaps, endUnplaced_unsaved _ _ hsaved])
  · have hend := launchEnd_halted h hdoom hhalt hparts hhost hsync
    exact ⟨fun hsnaps => congrArg Host.Outcome.next (hend.trans (afterSnaps_nil _ hsnaps)),
      fun hd => congrArg Host.Outcome.next (by rw [hend, afterSnaps_one, hd]; rfl),
      fun hd => congrArg Host.Outcome.next (by rw [hend, afterSnaps_one, hd]; rfl)⟩
  · exact congrArg Host.Outcome.next (by rw [launchEnd_killed h hdoom, afterSnaps_nil _ hsnaps]; rfl)
  · refine ⟨fun c hc => ?_, fun c hc => freePart_core_other hc, freePart_mem s l, freePart_launches s l⟩
    obtain ⟨k, hk⟩ := freePart_core_mem hc
    exact ⟨congrArg Core.run hk, congrArg Core.tile hk, (congrArg Core.regs hk :)⟩

/-- Settles O52: a placement by what it leaves of each part's cores, an end by the launch's phase and its kill. -/
theorem launchesArePlacedAndEnd : Obligations.LaunchesArePlacedAndEnd := ⟨launchesArePlacedClaim, launchesEndClaim⟩

end Sys2Proof
end

section
/-! PROOF. Time, start-up and scrubbing (O59; R111, R444, R448, R451). -/

namespace Sys2Proof.Machine

/-! Time (R111, R444). -/

/-- TSTAT as a message sets it. -/
def heard (k : Pkg) (port : Nat) (off : BitVec 32) : Pkg :=
  { k with offset := off, mport := port % 2 == 1, locked := off.toInt.natAbs ≤ 80 }

section
variable {s : State} {p port : Nat} {off : BitVec 32}

theorem ptpMessage_still {adjust : Bool} (h : adjust = false ∨ off = 0 ∨ s.now + 1 < (s.pkg p).lastAdj + 1024) :
    ptpMessage p port off adjust s = s.setPkg p (heard (s.pkg p) port off) := by
  refine if_neg fun hc => ?_
  obtain ⟨⟨ha, hoff⟩, hlast⟩ : (adjust = true ∧ off ≠ 0) ∧ (s.pkg p).lastAdj + 1024 ≤ s.now + 1 := by simpa using hc
  rcases h with h | h | h
  · exact absurd ha (by simp [h])
  · exact hoff h
  · omega

theorem ptpMessage_adjust (hoff : off ≠ 0) (h : (s.pkg p).lastAdj + 1024 ≤ s.now + 1) :
    ptpMessage p port off true s = { s.setPkg p { heard (s.pkg p) port off with
        lastAdj := s.now + 1
        toff := if off.toInt < 0 then (s.pkg p).toff + 1 else (s.pkg p).toff - 1 } with now := s.now + 1 } :=
  if_pos (by simpa [h] using hoff)

end

/-! What a start leaves of a package's place and flash (R448). -/

/-- A state whose packages have the place in the fabric and the flash that they had. -/
def SamePlaces (s t : State) : Prop := ∀ p, (t.pkg p).topo = (s.pkg p).topo ∧ (t.pkg p).flash = (s.pkg p).flash

theorem SamePlaces.refl (s : State) : SamePlaces s s := fun _ => ⟨rfl, rfl⟩

section
variable {s t : State} (h : SamePlaces s t)
include h

theorem samePlaces_of_pkgs {u : State} (e : u.pkgs = t.pkgs) : SamePlaces s u := fun p => by
  rw [State.pkg, e]
  exact h p

theorem samePlaces_foldl {α : Type} {f : State → α → State} (hf : ∀ u a, SamePlaces s u → SamePlaces s (f u a)) (l : List α) :
    SamePlaces s (l.foldl f t) := foldl_keeps (p := SamePlaces s) f hf l h

omit h in
theorem samePlaces_ite {a b : State} {c : Prop} [Decidable c] (ha : SamePlaces s a) (hb : SamePlaces s b) :
    SamePlaces s (if c then a else b) := ite_keeps (p := SamePlaces s) c ha hb

theorem samePlaces_setCore (n : Nat) (k : Core) : SamePlaces s (t.setCore n k) := h
theorem samePlaces_setDie (n : Nat) (k : Die) : SamePlaces s (t.setDie n k) := h
theorem samePlaces_setLaunch (n : Nat) (k : Launch) : SamePlaces s (t.setLaunch n k) := h
theorem samePlaces_setEngq (n : Nat) (k : EngQueue) : SamePlaces s (t.setEngq n k) := h
theorem samePlaces_setColl (n : Nat) (k : Coll) : SamePlaces s (t.setColl n k) := h
theorem samePlaces_setSem (cl n v : Nat) : SamePlaces s (t.setSem cl n v) := h
theorem samePlaces_passed (c n : Nat) : SamePlaces s (t.passed c n) := h
theorem samePlaces_invalidate (space lo hi : Nat) : SamePlaces s (t.invalidate space lo hi) := h
theorem samePlaces_flushPages (xs : List Xlation) : SamePlaces s (t.flushPages xs) := h

/-! Increments of engines, and ends of collectives. -/

theorem samePlaces_grant (c : Nat) : SamePlaces s (t.grant c) :=
  samePlaces_setCore (samePlaces_foldl h (fun _ _ hu => samePlaces_passed (samePlaces_setSem hu _ _ _) _ _) _) _ _

theorem samePlaces_testWaits (cl n : Nat) : SamePlaces s (t.testWaits cl n) := by
  have key : ∀ cs : List Nat, SamePlaces s (cs.foldl (fun a c =>
      if a.1.grants n c then (a.1.grant c, a.2 ++ [(0, Instr.bundleIssue c)]) else a) (t, ([] : List (Nat × Instr)))).1 :=
    fun cs => foldl_keeps (p := fun a : State × List (Nat × Instr) => SamePlaces s a.1) _
      (fun a c ha => ite_keeps (p := fun a : State × List (Nat × Instr) => SamePlaces s a.1) _ (samePlaces_grant ha c) ha) cs h
  unfold State.testWaits
  generalize t.round cl n = cs
  exact key cs

theorem samePlaces_incSem (cl n v : Nat) : SamePlaces s (t.incSem cl n v) := samePlaces_testWaits (samePlaces_setSem h cl n _) cl n

theorem samePlaces_engineInc (cl n v : Nat) : SamePlaces s (t.engineInc cl n v) :=
  samePlaces_ite (samePlaces_setDie (samePlaces_incSem h cl n v) _ _) (samePlaces_incSem h cl n v)

theorem samePlaces_signalOf (die : Nat) (p : Push) : SamePlaces s (signalOf die p t) := samePlaces_ite (samePlaces_engineInc h _ _ _) h

theorem samePlaces_putElem (p : Push) (st n : Nat) : SamePlaces s (putElem p st n t) := samePlaces_ite (samePlaces_setCore h _ _) h

theorem samePlaces_strictEnd (lid st : Nat) : SamePlaces s (strictEnd lid st t) := samePlaces_ite (samePlaces_setLaunch h _ _) h

theorem samePlaces_endPosted (die : Nat) (p : Push) (st n : Nat) (zeroed : Bool) : SamePlaces s (endPosted die p st n zeroed t) :=
  samePlaces_strictEnd (samePlaces_putElem (samePlaces_signalOf (samePlaces_setEngq h _ _) _ _) _ _ _) _ _

theorem samePlaces_releaseRows (c : Coll) : SamePlaces s (t.releaseRows c) :=
  samePlaces_foldl h (fun _ _ hu => samePlaces_setDie hu _ _) _

theorem samePlaces_freeHeld (c : Coll) : SamePlaces s (c.freeHeld t) := samePlaces_foldl h (fun _ _ hu => samePlaces_setDie hu _ _) _

theorem samePlaces_endColl (i st : Nat) : SamePlaces s (endColl i st t) := by
  unfold endColl
  split
  · exact h
  · next c _ =>
    refine samePlaces_foldl (samePlaces_of_pkgs (t := c.freeHeld (t.releaseRows c)) ?_ ?_)
      (fun _ _ hu => samePlaces_endPosted hu _ _ _ _ _) _
    · exact samePlaces_freeHeld (samePlaces_releaseRows h c) c
    · rfl

/-! Links lost, and the RESHARDs that they abort. -/

omit h in
theorem samePlaces_setBytes (bs : List Byte) {t : State} (h : SamePlaces s t) (a : Nat) : SamePlaces s (t.setBytes a bs) := by
  induction bs generalizing t a with
  | nil => exact h
  | cons b bs ih => exact ih (t := t.setByte a b) h (a + 1)

theorem samePlaces_undoLeaf (u : Undo) : SamePlaces s (undoLeaf t u) := by
  unfold undoLeaf State.writeLeaf
  split
  · exact h
  · exact samePlaces_foldl h (fun _ _ hu => samePlaces_setBytes _ hu _) _

theorem samePlaces_abortReshard (i st : Nat) : SamePlaces s (abortReshard i st t) := by
  unfold abortReshard
  split
  · exact h
  · exact samePlaces_ite h (samePlaces_setColl (samePlaces_foldl (samePlaces_foldl (samePlaces_flushPages h _)
      (fun _ _ hu => samePlaces_undoLeaf hu _) _) (fun _ _ hu => samePlaces_invalidate hu _ _ _) _) _ _)

theorem samePlaces_reshardLinks : SamePlaces s (reshardLinks t) :=
  samePlaces_foldl h (fun _ _ hu => samePlaces_ite (samePlaces_abortReshard hu _ _) hu) _

theorem samePlaces_notify (p : Nat) (n : Note) : SamePlaces s (t.notify p n) := by
  have hnote : ((t.pkg p).notify n).topo = (t.pkg p).topo ∧ ((t.pkg p).notify n).flash = (t.pkg p).flash := by
    unfold Pkg.notify
    split
    · exact ⟨rfl, rfl⟩
    · split <;> exact ⟨rfl, rfl⟩
  intro q
  by_cases hq : q = p
  · subst hq
    rw [State.notify, State.setPkg_same, hnote.1, hnote.2]
    exact h q
  · rw [State.notify, State.setPkg_other _ _ _ _ hq]
    exact h q

theorem samePlaces_changePort (f i : Nat) (p : LinkPort) : SamePlaces s (t.changePort f i p) :=
  samePlaces_ite (samePlaces_setDie h _ _) (samePlaces_notify (samePlaces_setDie h _ _) _ _)

theorem samePlaces_dropEnd (f i : Nat) : SamePlaces s (dropEnd t f i) :=
  samePlaces_ite (samePlaces_changePort (samePlaces_setDie h _ _) _ _ _) h

theorem samePlaces_linkDown (f i : Nat) : SamePlaces s (linkDown f i t) := by
  unfold linkDown
  split
  · exact h
  · next g _ =>
    refine samePlaces_ite (samePlaces_reshardLinks ?_) h
    have hends := samePlaces_dropEnd (samePlaces_dropEnd h f i) g i
    generalize dropEnd (dropEnd t f i) g i = u at hends ⊢
    exact hends

theorem samePlaces_cutOff (p : Nat) : SamePlaces s (cutOff p t) :=
  samePlaces_foldl (samePlaces_foldl h (fun _ _ hu => samePlaces_foldl hu (fun _ _ hv => samePlaces_linkDown hv _ _) _) _)
    (fun _ _ hu => samePlaces_ite (samePlaces_endColl hu _ _) hu) _

end

/-! With no collective under way, links lost leave memory. -/

/-- No collective is under way, and memory holds what another state's does. -/
def IdleMem (s t : State) : Prop := t.colls = [] ∧ t.mem = s.mem

section
variable {s t : State} (h : IdleMem s t)
include h

theorem idleMem_changePort (f i : Nat) (p : LinkPort) : IdleMem s (t.changePort f i p) := ite_keeps (p := IdleMem s) _ h h

theorem idleMem_dropEnd (f i : Nat) : IdleMem s (dropEnd t f i) :=
  ite_keeps (p := IdleMem s) _ (idleMem_changePort (t := t.setDie f _) h f i _) h

theorem idleMem_reshardLinks : IdleMem s (reshardLinks t) := by
  rw [reshardLinks, h.1]
  exact h

theorem idleMem_loseLink (f g : Nat) : IdleMem s (t.loseLink f g) := ⟨congrArg (List.map _) h.1, h.2⟩

theorem idleMem_linkDown (f i : Nat) : IdleMem s (linkDown f i t) := by
  unfold linkDown
  split
  · exact h
  · next g _ =>
    refine ite_keeps (p := IdleMem s) _ (idleMem_reshardLinks ?_) h
    have hends := idleMem_dropEnd (idleMem_dropEnd h f i) g i
    generalize dropEnd (dropEnd t f i) g i = u at hends ⊢
    exact idleMem_loseLink hends f g

theorem idleMem_linksDown (p : Nat) (ds is : List Nat) :
    IdleMem s (ds.foldl (fun s d => is.foldl (fun s i => linkDown (p * 8 + d) i s) s) t) :=
  foldl_keeps (p := IdleMem s) _ (fun _ _ hu => foldl_keeps (p := IdleMem s) _ (fun _ _ hv => idleMem_linkDown hv _ _) _ hu) _ h

theorem idleMem_cutOff (p : Nat) : IdleMem s (cutOff p t) := by
  have hcut := idleMem_linksDown h p (List.range 8) (List.range 6)
  unfold cutOff
  dsimp only
  generalize List.foldl _ t (List.range 8) = u at hcut ⊢
  rw [hcut.1]
  exact hcut

end

/-! A package as the next start finds it (R448). -/

theorem Tab.find_filter_none {α : Type} (t : Tab α) (keep : Nat → Bool) {n : Nat} (h : keep n = false) :
    Tab.find (t.filter fun e => keep e.1) n = none := by
  induction t with
  | nil => rfl
  | cons e t ih =>
    rw [List.filter_cons]
    split
    · next he =>
      have hne : (e.1 == n) = false := by
        rw [beq_eq_false_iff_ne]
        rintro rfl
        simp [h] at he
      rw [Tab.find, hne]
      exact ih
    · exact ih

/-- What a restart leaves: the package down and as at reset but for its place and its flash, its queues and launches gone, and memory
as before where no collective was under way. -/
structure Restarted (p : Nat) (s t : State) : Prop where
  pkg : ∃ now, t.pkg p = freshPkg { topo := (s.pkg p).topo, flash := (s.pkg p).flash } now ∧ t.now = now
  queue : ∀ q, q / 64 = p → t.queue q = {}
  launch : ∀ l, l / 65536 = p → t.launch l = {}
  mem : s.colls = [] → t.mem = s.mem

theorem restarted_restart (p : Nat) (s : State) : Restarted p s (restart p s) := by
  have hplaces := samePlaces_cutOff (.refl s) p
  have hidle : s.colls = [] → IdleMem s (cutOff p s) := fun h => idleMem_cutOff ⟨h, rfl⟩ p
  unfold restart
  generalize cutOff p s = t at hplaces hidle
  refine ⟨⟨t.now, ?_, rfl⟩, fun q hq => ?_, fun l hl => ?_, fun h => (hidle h).2⟩
  · rw [State.setPkg_same]
    exact congrArg₂ (fun a b => freshPkg { topo := a, flash := b } t.now) (hplaces p).1 (hplaces p).2
  · exact congrArg (Option.getD · _) (Tab.find_filter_none _ (fun q => queuePkg q != p) (by simp [queuePkg, hq]))
  · exact congrArg (Option.getD · _) (Tab.find_filter_none _ (fun l => launchPkg l != p) (by simp [launchPkg, hl]))

theorem Restarted.tbase {p : Nat} {s t : State} (h : Restarted p s t) : t.tbase p = 0 := by
  obtain ⟨now, hpkg, hnow⟩ := h.pkg
  rw [State.tbase, hpkg, hnow, freshPkg]
  simp

end Sys2Proof.Machine
end

section
/-! PROOF. A start step by step, and the scrubber's granules (O59; R448, R451). -/

namespace Sys2Proof.Machine

section
variable {s : State} {p port : Nat} {off : BitVec 32} {dg : BitVec 256} {v : BootVals}

/-! TBASE as an adjustment leaves it (R444). -/

theorem ptpMessage_adjust_tbase (hoff : off ≠ 0) (h : (s.pkg p).lastAdj + 1024 ≤ s.now + 1) :
    (ptpMessage p port off true s).tbase p = if off.toInt < 0 then s.tbase p + 2 else s.tbase p := by
  have hpkg : (ptpMessage p port off true s).pkg p = { heard (s.pkg p) port off with
      lastAdj := s.now + 1, toff := if off.toInt < 0 then (s.pkg p).toff + 1 else (s.pkg p).toff - 1 } := by
    rw [ptpMessage_adjust hoff h]
    exact Tab.get_put_same ..
  have hnow : (ptpMessage p port off true s).now = s.now + 1 := by rw [ptpMessage_adjust hoff h]
  rw [State.tbase, State.tbase, hpkg, hnow]
  split <;> bv_omega

theorem ptpMessage_adjust_tbase_other {q : Nat} (hq : q ≠ p) (hoff : off ≠ 0) (h : (s.pkg p).lastAdj + 1024 ≤ s.now + 1) :
    (ptpMessage p port off true s).tbase q = s.tbase q + 1 := by
  have hpkg : (ptpMessage p port off true s).pkg q = s.pkg q := by
    rw [ptpMessage_adjust hoff h]
    exact Tab.get_put_other _ _ hq _
  have hnow : (ptpMessage p port off true s).now = s.now + 1 := by rw [ptpMessage_adjust hoff h]
  rw [State.tbase, State.tbase, hpkg, hnow]
  bv_omega

/-! How a start goes on (R448). -/

theorem boot_again (ok : Bool) (h : v.again = true) : boot p dg ok v s = restart p s := if_pos h

theorem boot_up (ok : Bool) (h : v.again = false) (hup : (s.pkg p).up = true) : boot p dg ok v s = s := by simp [boot, h, hup]

section
variable (h : v.again = false) (hup : (s.pkg p).up = false)
include h hup

theorem boot_skipped (ok : Bool) (hform : stepForm (s.pkg p).flash (s.pkg p).bstep = 2) : boot p dg ok v s
    = s.setPkg p { s.pkg p with bmode := (s.pkg p).bmode ++ [2], bstep := (s.pkg p).bstep + 1 } := by simp [boot, h, hup, hform]

variable (hform : stepForm (s.pkg p).flash (s.pkg p).bstep ≠ 2)
include hform

theorem boot_lost (ok : Bool) (hlost : v.lost = true) : boot p dg ok v s
    = restart p (s.setPkg p { s.pkg p with flash := (s.pkg p).flash ++ [⟨(s.pkg p).bstep, 0, dg⟩] }) := by
  simp [boot, h, hup, hform, hlost]

theorem boot_failed (hlost : v.lost = false) : boot p dg false v s = restart p (s.setPkg p { s.pkg p with
    flash := (s.pkg p).flash ++ [⟨(s.pkg p).bstep, 0, dg⟩, ⟨(s.pkg p).bstep, 2, dg⟩] }) := by simp [boot, h, hup, hform, hlost]

end

/-- A package whose step has ended well, before what the step does. -/
def stepped (k : Pkg) (dg : BitVec 256) : Pkg :=
  { k with
    flash := k.flash ++ [⟨k.bstep, 0, dg⟩, ⟨k.bstep, 1, dg⟩], bmode := k.bmode ++ [stepForm k.flash k.bstep], bstep := k.bstep + 1 }

theorem boot_done (h : v.again = false) (hup : (s.pkg p).up = false) (hform : stepForm (s.pkg p).flash (s.pkg p).bstep ≠ 2)
    (hlost : v.lost = false) :
    boot p dg true v s = stepWork p (s.pkg p).bstep dg v (s.setPkg p (stepped (s.pkg p) dg)) := by
  simp [boot, h, hup, hform, hlost, stepped]

/-! What a step does. -/

theorem stepWork_split {k : Pkg} (hset : k.homeSet = false) (hv : v.split.toNat % 128 ≤ 64) :
    stepWork p 2 dg v (s.setPkg p k) = s.setPkg p { k with
      homeg := v.split.extractLsb' 0 7, homeSet := true, frames := v.frames.map fun f => ⟨f.1, f.2⟩ } := by
  have hwrite := Host.Outcome.next.inj ((deviceWritesClaim (s.setPkg p k) p 0 v.split).1 (by rw [State.setPkg_same, hset]) hv)
  rw [stepWork, hwrite]
  simp

theorem stepWork_split_discarded {k : Pkg} (h : k.homeSet = true ∨ 64 < v.split.toNat % 128) :
    stepWork p 2 dg v (s.setPkg p k) = s.setPkg p { k with frames := v.frames.map fun f => ⟨f.1, f.2⟩ } := by
  have hwrite := Host.Outcome.next.inj ((deviceWritesClaim (s.setPkg p k) p 0 v.split).2.1 (by rwa [State.setPkg_same]))
  rw [stepWork, hwrite]
  simp

theorem stepWork_late {n : Nat} (h : 6 < n) : stepWork p n dg v s = s := by
  obtain ⟨m, rfl⟩ := Nat.exists_eq_add_of_le' h
  rfl

/-! The scrubber (R451). -/

theorem scrub_home {m pa : Nat} (h : s.homeDie (pa / 256 * 256) = m) : scrub m pa s = meetGranule s (pa / 256) :=
  if_pos (beq_iff_eq.2 h)

theorem meetGranule_clean {g : Nat} (hdead : s.dead.contains g = false) (hweak : s.weak.contains g = false) :
    meetGranule s g = s := by
  unfold meetGranule
  rw [hdead, hweak]
  rfl

theorem meetGranule_weak {g : Nat} (hdead : s.dead.contains g = false) (hweak : s.weak.contains g = true) :
    meetGranule s g = { s.setMdie (s.homeDie (g * 256)) { s.mdie (s.homeDie (g * 256)) with
      ecorr := (s.mdie (s.homeDie (g * 256))).ecorr + 1 } with weak := s.weak.filter (· != g) } := by
  unfold meetGranule
  rw [hdead, hweak]
  rfl

theorem meetGranule_dead {g : Nat} (hdead : s.dead.contains g = true) :
    meetGranule s g = { s.setMdie (s.homeDie (g * 256)) { s.mdie (s.homeDie (g * 256)) with
        euncorr := (s.mdie (s.homeDie (g * 256))).euncorr + 1 } with
      dead := s.dead.filter (· != g), weak := s.weak.filter (· != g), mem := s.mem.clearRange (g * 256) (g * 256 + 256) } :=
  if_pos hdead

end

/-! The obligation's parts. -/

/-- A package as a start finds it, with what is in flash, its place in the fabric and memory as in an earlier state. -/
def AtStart (p : Nat) (s : State) (flash : List BootEntry) (t : State) : Prop :=
  (t.pkg p).up = false ∧ (t.pkg p).bstep = 0 ∧ (t.pkg p).bmode = [] ∧ (t.pkg p).flash = flash ∧ (t.pkg p).topo = (s.pkg p).topo ∧
    t.tbase p = 0 ∧ (∀ q, q / 64 = p → t.queue q = {}) ∧ (∀ l, l / 65536 = p → t.launch l = {}) ∧ (s.colls = [] → t.mem = s.mem)

theorem atStart_restart (p : Nat) (s : State) : AtStart p s (s.pkg p).flash (restart p s) := by
  have h := restarted_restart p s
  obtain ⟨now, hpkg, -⟩ := h.pkg
  exact ⟨congrArg Pkg.up hpkg, congrArg Pkg.bstep hpkg, congrArg Pkg.bmode hpkg, (congrArg Pkg.flash hpkg :),
    (congrArg Pkg.topo hpkg :),
    h.tbase, h.queue, h.launch, h.mem⟩

/-- A start that ends within a step leaves what that step has written in flash. -/
theorem atStart_restart_setPkg (p : Nat) (s : State) (flash : List BootEntry) :
    AtStart p s flash (restart p (s.setPkg p { s.pkg p with flash })) := by
  have h := atStart_restart p (s.setPkg p { s.pkg p with flash })
  unfold AtStart at h ⊢
  simpa only [State.setPkg_same, State.setPkg_colls, State.setPkg_mem] using h

theorem timeMessages (s : State) (p port : Nat) (off : BitVec 32) :
    let k := s.pkg p
    let u := heard k port off
    (exec (.ptpMessage p port off false) s = .next (s.setPkg p u)) ∧
    (off = 0 ∨ s.now + 1 < k.lastAdj + 1024 → exec (.ptpMessage p port off true) s = .next (s.setPkg p u)) ∧
    (off ≠ 0 → k.lastAdj + 1024 ≤ s.now + 1 → ∃ t, exec (.ptpMessage p port off true) s = .next t ∧ t.now = s.now + 1 ∧
      t.tbase p = (if off.toInt < 0 then s.tbase p + 2 else s.tbase p) ∧ (t.pkg p).lastAdj = s.now + 1 ∧
      (t.pkg p).offset = off ∧ ∀ q, q ≠ p → t.tbase q = s.tbase q + 1) := by
  refine ⟨congrArg Host.Outcome.next (ptpMessage_still (.inl rfl)), fun h => congrArg Host.Outcome.next (ptpMessage_still (.inr h)),
    fun hoff h => ⟨_, rfl, ?_, ptpMessage_adjust_tbase hoff h, ?_, ?_, fun q hq => ptpMessage_adjust_tbase_other hq hoff h⟩⟩
  · rw [ptpMessage_adjust hoff h]
  · rw [ptpMessage_adjust hoff h]
    exact congrArg Pkg.lastAdj (State.setPkg_same ..)
  · rw [ptpMessage_adjust hoff h]
    exact congrArg Pkg.offset (State.setPkg_same ..)

/-- A step that ends well, by its number. -/
theorem bootSteps {s : State} {p : Nat} {dg : BitVec 256} {v : BootVals} (hagain : v.again = false) (hup : (s.pkg p).up = false)
    (hform : stepForm (s.pkg p).flash (s.pkg p).bstep ≠ 2) (hlost : v.lost = false) :
    let k := s.pkg p
    let n := k.bstep
    let b := stepped k dg
    let split := v.split.toNat % 128
    let ahead := (s.tbase p).toNat - v.time.toNat
    (n = 0 → exec (.boot p dg true v) s = .next (s.setPkg p { b with topo := bootTopo p v.topo })) ∧
    (n = 1 → exec (.boot p dg true v) s = .next (s.setPkg p { b with
      meas := Config.sm3 (k.meas.toNat + 2 ^ 256 * dg.toNat) 64 })) ∧
    (n = 2 → k.homeSet = false → split ≤ 64 → exec (.boot p dg true v) s = .next (s.setPkg p { b with
      homeg := v.split.extractLsb' 0 7, homeSet := true, frames := v.frames.map fun f => ⟨f.1, f.2⟩ })) ∧
    (n = 2 → (k.homeSet = true ∨ 64 < split) → exec (.boot p dg true v) s = .next (s.setPkg p { b with
      frames := v.frames.map fun f => ⟨f.1, f.2⟩ })) ∧
    (n = 5 → exec (.boot p dg true v) s = .next (s.setPkg p { b with
      toff := if (s.tbase p).toNat < v.time.toNat then v.time - BitVec.ofNat 64 s.now else k.toff
      offset := BitVec.ofNat 32 (min 0x7FFFFFFF ahead), locked := ahead ≤ 80, mport := v.port })) ∧
    (n = 6 → exec (.boot p dg true v) s = .next (s.setPkg p { b with up := true })) ∧
    (6 < n → exec (.boot p dg true v) s = .next (s.setPkg p b)) := by
  intro k n b split ahead
  have hdone : ∀ {m : Nat} {t : State}, n = m → stepWork p m dg v (s.setPkg p b) = t → exec (.boot p dg true v) s = .next t :=
    fun hn ht => congrArg Host.Outcome.next ((boot_done hagain hup hform hlost).trans
      ((congrArg (fun i => stepWork p i dg v (s.setPkg p b)) hn).trans ht))
  refine ⟨fun hn => hdone hn ?_, fun hn => hdone hn ?_, fun hn hset hv => hdone hn (stepWork_split hset hv),
    fun hn h => hdone hn (stepWork_split_discarded h), fun hn => hdone hn ?_, fun hn => hdone hn ?_,
    fun hn => hdone rfl (stepWork_late hn)⟩
  · simp [stepWork]
  · simp [stepWork, measure, b, k, stepped]
  · have hbase : (s.setPkg p b).tbase p = s.tbase p := by rw [State.tbase, State.setPkg_same]; rfl
    simp only [stepWork, State.ticks, hbase, State.setPkg_same, State.setPkg_twice]
    rfl
  · simp [stepWork]

theorem starts (s : State) (p : Nat) :
    let k := s.pkg p
    (∀ dg ok v, v.again = true → ∃ t, exec (.boot p dg ok v) s = .next t ∧ AtStart p s k.flash t) ∧
    (∀ dg ok v, v.again = false → k.up = true → exec (.boot p dg ok v) s = .next s) ∧
    (∀ dg v, v.again = false → k.up = false →
      let n := k.bstep
      let form := stepForm k.flash n
      (form = 2 → ∀ ok, exec (.boot p dg ok v) s = .next (s.setPkg p { k with bmode := k.bmode ++ [2], bstep := n + 1 })) ∧
      (form ≠ 2 → v.lost = true → ∀ ok, ∃ t, exec (.boot p dg ok v) s = .next t ∧ AtStart p s (k.flash ++ [⟨n, 0, dg⟩]) t) ∧
      (form ≠ 2 → v.lost = false → ∃ t, exec (.boot p dg false v) s = .next t ∧
        AtStart p s (k.flash ++ [⟨n, 0, dg⟩, ⟨n, 2, dg⟩]) t)) := by
  refine ⟨fun dg ok v h => ⟨_, rfl, ?_⟩, fun dg ok v h hup => congrArg Host.Outcome.next (boot_up ok h hup), fun dg v h hup =>
    ⟨fun hform ok => congrArg Host.Outcome.next (boot_skipped h hup ok hform), fun hform hlost ok => ⟨_, rfl, ?_⟩,
      fun hform hlost => ⟨_, rfl, ?_⟩⟩⟩
  · rw [boot_again ok h]
    exact atStart_restart p s
  · rw [boot_lost h hup hform ok hlost]
    exact atStart_restart_setPkg p s _
  · rw [boot_failed h hup hform hlost]
    exact atStart_restart_setPkg p s _

theorem scrubs (s : State) (m pa : Nat) (h : s.homeDie (pa / 256 * 256) = m) :
    let x := s.mdie m
    (s.dead.contains (pa / 256) = false → s.weak.contains (pa / 256) = true → exec (.scrub m pa) s
      = .next { s.setMdie m { x with ecorr := x.ecorr + 1 } with weak := s.weak.filter (· != pa / 256) }) ∧
    (s.dead.contains (pa / 256) = false → s.weak.contains (pa / 256) = false → exec (.scrub m pa) s = .next s) ∧
    (s.dead.contains (pa / 256) = true → ∃ t, exec (.scrub m pa) s = .next t ∧ t.dead.contains (pa / 256) = false ∧
      (t.mdie m).euncorr = x.euncorr + 1 ∧ ∀ j, j < 256 → t.mem.read (pa / 256 * 256 + j) = 0) := by
  subst h
  refine ⟨fun hd hw => congrArg Host.Outcome.next ((scrub_home rfl).trans (meetGranule_weak hd hw)),
    fun hd hw => congrArg Host.Outcome.next ((scrub_home rfl).trans (meetGranule_clean hd hw)),
    fun hd => ⟨_, congrArg Host.Outcome.next ((scrub_home rfl).trans (meetGranule_dead hd)), ?_, ?_, fun j hj => ?_⟩⟩
  · simp
  · exact congrArg MemDie.euncorr (State.setMdie_same ..)
  · exact (Store.read_clearRange ..).trans (if_pos (by omega))

/-- Settles O59: time messages by whether the servo adjusts, a start by how its next step goes on, the scrubber by what its granule
holds. -/
theorem timeAndStartup : Obligations.TimeAndStartup := by
  intro s p
  obtain ⟨hanew, hready, hsteps⟩ := starts s p
  refine ⟨fun port off => timeMessages s p port off, rfl, ⟨hanew, hready, fun dg v hagain hup => ?_⟩, fun m pa h => scrubs s m pa h⟩
  obtain ⟨hskipped, hlost, hfailed⟩ := hsteps dg v hagain hup
  exact ⟨hskipped, hlost, hfailed, fun hform hkept => bootSteps hagain hup hform hkept⟩

end Sys2Proof.Machine
end

section
/-! PROOF. Packed rows (R9, R145, R157): rows whose elements agree, rows with one element replaced, and the types that a row
instruction may hold. -/

namespace Sys2Proof.Machine

/-! Types (R37, R145, R155). -/

theorem groupA_of_isIntTy {ty : BitVec 5} (h : isIntTy ty = true) : groupA ty = true := by simp [groupA, h]

theorem groupA_of_groupASigned {ty : BitVec 5} (h : groupASigned ty = true) : groupA ty = true := by
  revert ty; decide

theorem groupA_of_groupF {ty : BitVec 5} (h : groupF ty = true) : groupA ty = true := by
  revert ty; decide

theorem groupA_of_isIntTy_or_groupF {ty : BitVec 5} (h : (isIntTy ty || groupF ty) = true) : groupA ty = true :=
  (Bool.or_eq_true_iff.1 h).elim groupA_of_isIntTy groupA_of_groupF

theorem groupW_of_groupA {ty : BitVec 5} (h : groupA ty = true) : groupW ty = true := by simp [groupW, h]

/-- The elements of a row of a type of group W fill it. -/
theorem width_mul_lanes {ty : BitVec 5} (h : groupW ty = true) : (fmtOf ty).width * lanes ty = 1024 := by
  revert ty; decide

theorem lanes_eq {ty : BitVec 5} (h : groupW ty = true) : lanes ty = 1024 / (fmtOf ty).width := by
  revert ty; decide

theorem lanes_pos {ty : BitVec 5} (h : groupW ty = true) : 0 < lanes ty := by
  revert ty; decide

theorem int_of_isIntTy {ty : BitVec 5} (h : isIntTy ty = true) : ∃ s w, fmtOf ty = .int s w := by
  have hty : floatTy ty = false := by revert ty; decide
  cases hf : fmtOf ty with
  | int s w => exact ⟨s, w, rfl⟩
  | flt f => rw [floatTy, hf] at hty; cases hty

theorem flt_of_groupF {ty : BitVec 5} (h : groupF ty = true) : ∃ f, fmtOf ty = .flt f := by
  have hty : floatTy ty = true := by revert ty; decide
  cases hf : fmtOf ty with
  | int s w => rw [floatTy, hf] at hty; cases hty
  | flt f => exact ⟨f, rfl⟩

/-- The integers that VABS and VNEG may take are signed, and hold a sign bit. -/
theorem signed_of_groupASigned {ty : BitVec 5} (h : groupASigned ty = true) {s : Bool} {w : Nat} (hf : fmtOf ty = .int s w) :
    s = true ∧ 0 < w := by
  have hty : floatTy ty = true ∨ fmtOf ty = .int true (fmtOf ty).width ∧ 0 < (fmtOf ty).width := by
    clear hf; revert ty; decide
  simpa [floatTy, hf, Fmt.width] using hty

/-! Well-formed operands. -/

theorem groupA_of_vArith {o : VThree} (h : vArith o = true) : groupA o.ty = true := by
  simp only [vArith, Bool.and_eq_true] at h
  obtain ⟨⟨⟨⟨hty, -⟩, -⟩, -⟩, -⟩ := h
  exact hty

theorem group_of_vPlain {grp : BitVec 5 → Bool} {o : VThree} (h : vPlain grp o = true) : grp o.ty = true := by
  simp only [vPlain, Bool.and_eq_true] at h
  obtain ⟨⟨⟨⟨⟨hty, -⟩, -⟩, -⟩, -⟩, -⟩ := h
  exact hty

theorem groupA_of_vsArith {o : VScalar} (h : vsArith o = true) : groupA o.ty = true := by
  simp only [vsArith, Bool.and_eq_true] at h
  obtain ⟨⟨⟨⟨hty, -⟩, -⟩, -⟩, -⟩ := h
  exact hty

theorem group_of_vsPlain {grp : BitVec 5 → Bool} {o : VScalar} (h : vsPlain grp o = true) : grp o.ty = true := by
  simp only [vsPlain, Bool.and_eq_true] at h
  obtain ⟨⟨⟨⟨hty, -⟩, -⟩, -⟩, -⟩ := h
  exact hty

theorem groupF_of_vTrans {o : VThree} (h : vTrans o = true) : groupF o.ty = true := by
  simp only [vTrans, Bool.and_eq_true] at h
  obtain ⟨⟨⟨hty, -⟩, -⟩, -⟩ := h
  exact hty

theorem groupW_of_vPlain_int {o : VThree} (h : vPlain isIntTy o = true) : groupW o.ty = true :=
  groupW_of_groupA (groupA_of_isIntTy (group_of_vPlain h))

/-! Packed rows (R9). -/

theorem toNat_lt_of_width {w n m : Nat} (h : w * n = m) (r : BitVec m) : r.toNat < 2 ^ (w * n) := by
  subst h
  exact r.isLt

/-- A row is packed from its elements' low bits alone. -/
theorem mapRow_congr {w n : Nat} {g g' : Nat → Nat} (h : ∀ i < n, g i % 2 ^ w = g' i % 2 ^ w) :
    mapRow w n g = mapRow w n g' := by
  have hpack : ∀ l : List Nat, (∀ i ∈ l, g i % 2 ^ w = g' i % 2 ^ w) → pack w (l.map g) = pack w (l.map g') := by
    intro l
    induction l with
    | nil => simp
    | cons i l ih =>
      intro hl
      simp only [List.mem_cons, forall_eq_or_imp] at hl
      simp only [List.map_cons, pack, hl.1, ih hl.2]
  exact hpack _ fun i hi => h i (List.mem_range.1 hi)

/-- A row is packed from its own elements. -/
theorem mapRow_elem (w n v : Nat) : mapRow w n (elem w v) = v % 2 ^ (w * n) := by
  induction n generalizing v with
  | zero => simp [mapRow, pack, Nat.mod_one]
  | succ n ih =>
    have hsucc : elem w v ∘ Nat.succ = elem w (v / 2 ^ w) := by
      funext i
      simp only [Function.comp, elem, Nat.shiftRight_eq_div_pow, Nat.div_div_eq_div_mul, ← Nat.pow_add, Nat.mul_succ,
        Nat.add_comm w]
    have hzero : elem w v 0 % 2 ^ w = v % 2 ^ w := by simp [elem]
    rw [mapRow, List.range_succ_eq_map, List.map_cons, List.map_map, hsucc, pack, hzero, Nat.shiftLeft_eq]
    have := ih (v / 2 ^ w)
    rw [mapRow] at this
    rw [this, Nat.mul_succ, Nat.add_comm (w * n), Nat.pow_add, Nat.mod_mul, Nat.mul_comm (2 ^ w)]

/-- One element of a packed list replaced. -/
theorem pack_set {w v : Nat} {l : List Nat} {j : Nat} (hj : j < l.length) :
    pack w (l.set j v) + l[j] % 2 ^ w * 2 ^ (w * j) = pack w l + v % 2 ^ w * 2 ^ (w * j) := by
  induction l generalizing j with
  | nil => cases hj
  | cons x l ih =>
    cases j with
    | zero => simp only [List.set_cons_zero, List.getElem_cons_zero, pack, Nat.mul_zero, Nat.pow_zero]; omega
    | succ j =>
      have ih := congrArg (· * 2 ^ w) (ih (Nat.lt_of_succ_lt_succ hj))
      simp only [Nat.add_mul, Nat.mul_assoc, ← Nat.pow_add] at ih
      simp only [List.set_cons_succ, List.getElem_cons_succ, pack, Nat.shiftLeft_eq, Nat.mul_succ]
      omega

/-- One element of a row replaced, the others as they are. -/
theorem mapRow_replace {w n v j e : Nat} (hv : v < 2 ^ (w * n)) (hj : j < n) (he : e < 2 ^ w) :
    mapRow w n (fun i => if i = j then e else elem w v i) = v - elem w v j <<< (w * j) + e <<< (w * j) := by
  have hmap : (List.range n).map (fun i => if i = j then e else elem w v i) = ((List.range n).map (elem w v)).set j e := by
    apply List.ext_getElem (by simp)
    intro i _ _
    simp [List.getElem_set, eq_comm]
  have hset := pack_set (w := w) (v := e) (l := (List.range n).map (elem w v)) (j := j) (by simpa using hj)
  have hself : pack w ((List.range n).map (elem w v)) = v := (mapRow_elem w n v).trans (Nat.mod_eq_of_lt hv)
  have helem : elem w v j % 2 ^ w = elem w v j := Nat.mod_mod ..
  have hle : elem w v j * 2 ^ (w * j) ≤ v := calc
    elem w v j * 2 ^ (w * j) ≤ v / 2 ^ (w * j) * 2 ^ (w * j) :=
      Nat.mul_le_mul_right _ (by rw [elem, Nat.shiftRight_eq_div_pow]; exact Nat.mod_le ..)
    _ ≤ v := Nat.div_mul_le_self ..
  rw [← hmap, hself, List.getElem_map, List.getElem_range, helem, Nat.mod_eq_of_lt he] at hset
  rw [mapRow, Nat.shiftLeft_eq, Nat.shiftLeft_eq]
  omega

end Sys2Proof.Machine
end

section
/-! PROOF. The integers of a row's elements (R74, R89, R157 to R161): how they wrap and clamp, and what each operation on them is. -/

namespace Sys2Proof.Machine

theorem two_pow_eq_natCast (w : Nat) : (2 : Int) ^ w = ((2 ^ w : Nat) : Int) := (Nat.cast_pow 2 w).symm

theorem natCast_wrapInt (w : Nat) (i : Int) : (wrapInt w i : Int) = i % (2 ^ w : Nat) :=
  Int.toNat_of_nonneg (Int.emod_nonneg _ (by positivity))

theorem wrapInt_natCast (w n : Nat) : wrapInt w (n : Int) = n % 2 ^ w := by
  rw [wrapInt, ← Int.natCast_mod, Int.toNat_natCast]

theorem toSigned_bounds (w v : Nat) : -2 ^ w ≤ toSigned w v ∧ toSigned w v < 2 ^ w := by
  have hlt : v % 2 ^ w < 2 ^ w := Nat.mod_lt _ (Nat.two_pow_pos w)
  rw [two_pow_eq_natCast]
  unfold toSigned
  split <;> omega

/-- A signed integer of a type with a sign bit lies within the type's bounds. -/
theorem toSigned_range {w : Nat} (hw : 0 < w) (v : Nat) : -2 ^ (w - 1) ≤ toSigned w v ∧ toSigned w v < 2 ^ (w - 1) := by
  have hlt : v % 2 ^ w < 2 ^ w := Nat.mod_lt _ (Nat.two_pow_pos w)
  have hpow : 2 ^ w = 2 * 2 ^ (w - 1) := by rw [← Nat.pow_succ', Nat.succ_eq_add_one, Nat.sub_add_cancel hw]
  rw [two_pow_eq_natCast]
  unfold toSigned
  split <;> omega

/-- An integer wrapped, or clamped to its type's bounds (R89). -/
theorem convInt_eq (s : Bool) (w : Nat) (sat : BitVec 1) (v : Int) :
    convInt s w (sat == 1) v = if sat = 1 then wrapInt w (max (if s then -2 ^ (w - 1) else 0)
      (min (if s then 2 ^ (w - 1) - 1 else 2 ^ w - 1) v)) else wrapInt w v := by
  simp only [convInt, beq_iff_eq]
  push_cast
  rfl

/-- A signed result that exceeds the greatest integer by at most one is wrapped, or clamped (R89). -/
theorem convInt_signed {w : Nat} (sat : BitVec 1) {u : Int} (hlo : -2 ^ (w - 1) ≤ u) (hhi : u ≤ 2 ^ (w - 1)) :
    convInt true w (sat == 1) u
      = if u = 2 ^ (w - 1) then (if sat = 1 then 2 ^ (w - 1) - 1 else 2 ^ (w - 1)) % 2 ^ w else wrapInt w u := by
  rw [convInt_eq]
  simp only [if_true]
  rw [two_pow_eq_natCast] at hlo hhi ⊢
  have hp : 0 < 2 ^ (w - 1) := Nat.two_pow_pos _
  generalize 2 ^ (w - 1) = p at hlo hhi hp ⊢
  by_cases hmax : u = p
  · rw [if_pos hmax, hmax]
    split
    · rw [show max (-(p : Int)) (min ((p : Int) - 1) p) = ((p - 1 : Nat) : Int) by omega, wrapInt_natCast]
    · exact wrapInt_natCast w p
  · rw [if_neg hmax, show max (-(p : Int)) (min ((p : Int) - 1) u) = u by omega, ite_self]

/-- The magnitude of a signed integer: the least integer's wraps, or clamps (R158). -/
theorem convInt_natAbs {w : Nat} (hw : 0 < w) (sat : BitVec 1) (v : Nat) :
    convInt true w (sat == 1) (toSigned w v).natAbs % 2 ^ w
      = (if toSigned w v = -2 ^ (w - 1) then (if sat = 1 then 2 ^ (w - 1) - 1 else 2 ^ (w - 1))
        else (toSigned w v).natAbs) % 2 ^ w := by
  obtain ⟨hlo, hhi⟩ := toSigned_range hw v
  have hmin : ((toSigned w v).natAbs : Int) = 2 ^ (w - 1) ↔ toSigned w v = -2 ^ (w - 1) := by omega
  rw [convInt_signed _ (by omega) (by omega)]
  simp only [hmin, wrapInt_natCast]
  split <;> exact Nat.mod_mod ..

/-- The negative of a signed integer: the least integer's wraps, or clamps (R158). -/
theorem convInt_neg {w : Nat} (hw : 0 < w) (sat : BitVec 1) (v : Nat) :
    convInt true w (sat == 1) (-toSigned w v) % 2 ^ w
      = (if toSigned w v = -2 ^ (w - 1) then (if sat = 1 then 2 ^ (w - 1) - 1 else 2 ^ (w - 1))
        else wrapInt w (-toSigned w v)) % 2 ^ w := by
  obtain ⟨hlo, hhi⟩ := toSigned_range hw v
  have hmin : -toSigned w v = 2 ^ (w - 1) ↔ toSigned w v = -2 ^ (w - 1) := by omega
  rw [convInt_signed _ (by omega) (by omega)]
  simp only [hmin]
  split
  · exact Nat.mod_mod ..
  · rfl

/-- The other sign bit, in numbers. -/
theorem xor_signBit {k e : Nat} (h : e < 2 ^ (k + 1)) : e ^^^ 2 ^ k = if 2 ^ k ≤ e then e - 2 ^ k else e + 2 ^ k := by
  have hlow : ∀ a < 2 ^ k, a ^^^ 2 ^ k = a + 2 ^ k := by
    intro a ha
    rw [Nat.add_comm, ← Nat.mul_one (2 ^ k), Nat.two_pow_add_eq_or_of_lt ha 1, Nat.mul_one, Nat.or_comm]
    apply Nat.eq_of_testBit_eq
    intro j
    by_cases hj : k = j
    · subst hj; simp [Nat.testBit_lt_two_pow ha]
    · simp [hj]
  split
  · next hge =>
    have hsub := hlow (e - 2 ^ k) (by rw [Nat.pow_succ] at h; omega)
    rw [Nat.sub_add_cancel hge] at hsub
    rw [← hsub, Nat.xor_assoc, Nat.xor_self, Nat.xor_zero, hsub]
  · next hlt => exact hlow e (Nat.lt_of_not_le hlt)

/-- The high half of a product of `w`-bit integers. -/
theorem wrapInt_div (w : Nat) (i : Int) : wrapInt (2 * w) i / 2 ^ w = wrapInt w (i / (2 ^ w : Nat)) := by
  have hp : ((2 ^ w : Nat) : Int) ≠ 0 := by positivity
  have hq : i / (2 ^ (2 * w) : Nat) = i / (2 ^ w : Nat) / (2 ^ w : Nat) := by
    rw [Nat.two_mul, Nat.pow_add, Nat.cast_mul, Int.ediv_ediv_of_nonneg (by positivity)]
  apply Int.natCast_inj.1
  calc ((wrapInt (2 * w) i / 2 ^ w : Nat) : Int)
      = (i - (2 ^ w : Nat) * ((2 ^ w : Nat) * (i / (2 ^ (2 * w) : Nat)))) / (2 ^ w : Nat) := by
        rw [Int.natCast_ediv, natCast_wrapInt, Int.emod_def, ← Int.mul_assoc, ← Nat.cast_mul, ← Nat.pow_add, ← Nat.two_mul]
    _ = i / (2 ^ w : Nat) - (2 ^ w : Nat) * (i / (2 ^ w : Nat) / (2 ^ w : Nat)) := by
        rw [Int.sub_mul_ediv_left _ _ hp, hq]
    _ = wrapInt w (i / (2 ^ w : Nat)) := by rw [natCast_wrapInt, Int.emod_def]

/-- An arithmetic shift by the width or more leaves the sign. -/
theorem wrapInt_shift {w : Nat} {a : Int} (hlo : -2 ^ w ≤ a) (hhi : a < 2 ^ w) (c : Nat) :
    wrapInt w (a / (2 ^ min w c : Nat)) = if w ≤ c then (if a < 0 then 2 ^ w - 1 else 0) else wrapInt w (a / 2 ^ c) := by
  rw [two_pow_eq_natCast] at hlo hhi
  split
  · next hle =>
    rw [Nat.min_eq_left hle]
    split
    · next hneg =>
      rw [show a / (2 ^ w : Nat) = -1 by rw [Int.ediv_eq_iff_of_pos (by positivity)]; omega]
      have hp : 0 < 2 ^ w := Nat.two_pow_pos w
      have hmod : (-1 : Int) % (2 ^ w : Nat) = ((2 ^ w - 1 : Nat) : Int) := by
        rw [← Int.add_emod_right, Int.emod_eq_of_lt] <;> omega
      rw [wrapInt, hmod, Int.toNat_natCast]
    · next hpos =>
      rw [Int.ediv_eq_zero_of_lt (by omega) hhi]
      exact (wrapInt_natCast w 0).trans (Nat.zero_mod _)
  · next hlt =>
    rw [Nat.min_eq_right (by omega)]
    push_cast
    rfl

/-- The bounds of R159 on signed integers. -/
theorem clampI_signed (w : Nat) : clampI true w = fun p q : Int =>
    let m : Int := if q = -2 ^ (w - 1) then 2 ^ (w - 1) - 1 else if q < 0 then -q else q
    min (max p (-m)) m := by
  funext p q
  have hm : (if q == -((2 ^ (w - 1) : Nat) : Int) then ((2 ^ (w - 1) : Nat) : Int) - 1 else (q.natAbs : Int))
      = if q = -2 ^ (w - 1) then 2 ^ (w - 1) - 1 else if q < 0 then -q else q := by
    simp only [beq_iff_eq, Nat.cast_pow, Nat.cast_ofNat]
    congr 1
    split <;> omega
  simp only [clampI, if_true, hm]

/-- The conditions of VCMP (R161). -/
theorem laneCond_eq (c : Nat) (p q : Int) : laneCond c p q = match c with
    | 0 => decide (p = q) | 1 => decide (p ≠ q) | 2 => decide (p < q) | 3 => decide (p ≤ q)
    | 4 => decide (q < p) | _ => decide (q ≤ p) := by
  match c with
  | 0 | 2 | 3 | 4 | _ + 5 => rfl
  | 1 => exact Bool.eq_iff_iff.2 (by simp [laneCond])

end Sys2Proof.Machine
end

section
/-! PROOF. What a row operation leaves (R153, R154, R157): its row and flags on their way, the generator after its draws. -/

namespace Sys2Proof

open Machine

/-! The issue. -/

/-- Whether `a` is the bundle of a row operation begun in `b`, once its effect has put the result `x` on its way. -/
def RowOut.LeftBy (x : RowOut) (b : State) (a : Acc) : Prop :=
  ∃ fl, a = { b.acc with
    k := b.self.awaits (.row x.may) (b.self.rowDest x.td x.rowd) [BitVec.ofNat 1024 x.val] x.flags (b.now + x.lat)
    rnd := ⟨x.seed, fl⟩ }

/-- A row operation is one of the V slots and asks its issue for nothing: no mark, no wait, no line, no check of its own. -/
theorem rowResult_asksNothing {k : Core} {i : Instr} {x : RowOut} (h : rowResult k i = some x) (s : State) :
    i.slots.head? = some .v0 ∧ Quiet s .v0 i ∧ (∀ o, i ≠ .semadd o) ∧ spReads (s.begun.ctx .v0) i = [] := by
  unfold rowResult at h
  split at h
  case h_45 => cases h
  all_goals exact ⟨rfl, ⟨rfl, fun _ => rfl, nofun, rfl, rfl, rfl, rfl, rfl⟩, nofun, rfl⟩

/-- The step of a row operation whose effect puts its result on its way. -/
theorem exec_row {s : State} {i : Instr} {x : RowOut} (h : s.issues .v0 i 2 = true) (hx : rowResult s.begun.self i = some x)
    (ha : x.LeftBy s.begun (slotEffect i (s.begun.ctx .v0) s.begun.acc)) :
    exec i s = .next (s.leaves s.begun
      ((s.begun.self.awaits (.row x.may) (s.begun.self.rowDest x.td x.rowd) [BitVec.ofNat 1024 x.val] x.flags
        (s.now + x.lat)).seeded x.seed)
      (s.self.pc + 2) 0) := by
  obtain ⟨hslot, hquiet, hsemadd, hreads⟩ := rowResult_asksNothing hx s
  obtain ⟨-, -, -, -, hheld, hbad, -⟩ := issues_parts h
  obtain ⟨fl, ha⟩ := ha
  have hmeet : { s.begun.acc with s := meetReads s.cur (spReads (s.begun.ctx .v0) i) s.begun } = s.begun.acc := by
    rw [hreads, meetReads_nil]; rfl
  rw [exec_effect hslot h (by omega) (fun _ => by omega) hquiet hsemadd ((congrArg (slotEffect i _) hmeet).trans ha) rfl rfl
    hheld hbad rfl, ← begun_pc_self]
  rfl

/-! The results. -/

section
variable (b : State)

/-- A row result of a latency above one cycle is on its way. -/
theorem put_leftBy (x : RowOut) (fl : BitVec 5) (hlat : 1 < x.lat) :
    x.LeftBy b (({ b.acc with rnd := ⟨x.seed, fl⟩ } : Acc).put (.row x.may) ((b.ctx .v0).destRow x.td x.rowd) [rowOf x.val] x.flags
      x.lat) :=
  ⟨fl, by simp only [Acc.put, Nat.not_le.2 hlat, if_false]; rfl⟩

variable {td : BitVec 8} {rowd : BitVec 5} {lat : Nat}

/-- A row of elements that are not rounded. -/
theorem plainOut_leftBy {w n : Nat} {g g' : Nat → Nat} (hlat : 1 < lat) (h : ∀ i < n, g' i % 2 ^ w = g i % 2 ^ w) :
    (plainOut b.self td rowd w n lat g).LeftBy b (b.acc.putRow (b.ctx .v0) td rowd (mapRow w n g') lat) := by
  rw [mapRow_congr h]
  exact put_leftBy b (plainOut b.self td rowd w n lat g) 0 hlat

theorem ofNat_mod_two_pow (w v : Nat) : BitVec.ofNat w (v % 2 ^ w) = BitVec.ofNat w v :=
  BitVec.eq_of_toNat_eq (by simp)

/-- A row that is one number. -/
theorem wholeRow_leftBy (v : Nat) (hlat : 1 < lat) :
    (plainOut b.self td rowd 1024 1 lat fun _ => v).LeftBy b (b.acc.putRow (b.ctx .v0) td rowd v lat) := by
  have hrow : rowOf (plainOut b.self td rowd 1024 1 lat fun _ => v).val = rowOf v := by
    simp only [plainOut, List.range_one, List.map_cons, List.map_nil, pack, Nat.zero_shiftLeft, Nat.add_zero, rowOf]
    exact ofNat_mod_two_pow 1024 v
  have h := put_leftBy b (plainOut b.self td rowd 1024 1 lat fun _ => v) 0 hlat
  rwa [hrow] at h

/-- A row of elements each rounded once. -/
theorem roundedOut_leftBy {ty : BitVec 5} {f : Fmt} (hf : fmtOf ty = f) {m : Mode} {sat : Bool} {n : Nat}
    {g g' : Nat → XVal × BitVec 5} (hlat : 1 < lat) (h : ∀ i, g' i = g i) :
    (roundedOut b.self td rowd ty m sat n lat g).LeftBy b
      (let p := roundRow f m sat n g' { b.acc.rnd with flags := 0 }
       ({ b.acc with rnd := p.2 } : Acc).putRowF (b.ctx .v0) td rowd p.1 p.2.flags lat) := by
  obtain rfl : g' = g := funext h
  subst hf
  exact put_leftBy b (roundedOut b.self td rowd ty m sat n lat g') _ hlat

end

/-! Operands. -/

/-- The elements of an operand row, as an effect reads them. -/
@[simp] theorem ctx_el (s : State) (sl : Slot) (ty : BitVec 5) (t : BitVec 8) (r : BitVec 5) :
    (s.ctx sl).el ty t r = rowElem s.self ty t r := by
  funext i
  simp only [Ctx.el, elem, Nat.shiftRight_eq_div_pow]
  rfl

theorem rowElem_lt (k : Core) (ty : BitVec 5) (t : BitVec 8) (r : BitVec 5) (i : Nat) :
    rowElem k ty t r i < 2 ^ (fmtOf ty).width := Nat.mod_lt _ (Nat.two_pow_pos _)

/-! Element-wise operations (R157, R159). -/

section
variable (b : State) {td : BitVec 8} {rowd ty : BitVec 5}

/-- An arithmetic operation: floats rounded once, integers wrapped or clamped. -/
theorem arithRow_leftBy (op : ElemOp) (hty : groupA ty = true) (rm : BitVec 3) (sat : BitVec 1) (ea eb ed : Nat → Nat) :
    (elementwise b.self td rowd ty rm sat ea eb ed op.flt op.int).LeftBy b
      (arithRow op ty rm sat td rowd 4 ea eb ed (b.ctx .v0) b.acc) := by
  have hn := lanes_eq (groupW_of_groupA hty)
  cases hf : fmtOf ty with
  | int s w =>
    simp only [elementwise, arithRow, hf, hn, convInt_eq]
    exact plainOut_leftBy b (by decide) fun _ _ => rfl
  | flt f =>
    simp only [elementwise, arithRow, hf, hn, ctx_mode]
    exact roundedOut_leftBy b hf (by decide) fun _ => rfl

/-- An operation that gives one of its operands or a bound. -/
theorem exactRow_leftBy (ff : XVal → XVal → XVal) {fi fi' : Int → Int → Int} (hty : groupA ty = true)
    (h : ∀ s w, fmtOf ty = .int s w → fi' = fi) (ea eb : Nat → Nat) :
    (selecting b.self td rowd ty ea eb ff fi).LeftBy b (b.acc.putRow (b.ctx .v0) td rowd (exactRow ff fi' ty ea eb) 2) := by
  have hn := lanes_eq (groupW_of_groupA hty)
  cases hf : fmtOf ty with
  | int s w =>
    simp only [selecting, exactRow, hf, hn, h s w hf]
    exact plainOut_leftBy b (by decide) fun _ _ => rfl
  | flt f =>
    simp only [selecting, exactRow, hf, hn]
    exact plainOut_leftBy b (by decide) fun _ _ => rfl

end

end Sys2Proof
end

section
/-! PROOF. The row instructions (O18; R157 to R170): the effect of each puts the row of its table on its way. -/

namespace Sys2Proof

open Machine

/-- The effect of a row operation puts its result on its way. -/
def RowEffect (b : State) (i : Instr) : Prop :=
  ∀ x, rowResult b.self i = some x → x.LeftBy b (slotEffect i (b.ctx .v0) b.acc)

theorem rowEffect_of {b : State} {i : Instr} {x : RowOut} (h : rowResult b.self i = some x)
    (hx : x.LeftBy b (slotEffect i (b.ctx .v0) b.acc)) : RowEffect b i :=
  fun _ hy => Option.some.inj (h.symm.trans hy) ▸ hx

section
variable (b : State)

/-! Arithmetic and selections (R157 to R159, R165). -/

theorem arithRow_rowEffect (op : ElemOp) {i : Instr} {td : BitVec 8} {rowd ty : BitVec 5} {rm : BitVec 3} {sat : BitVec 1}
    {ea eb ed ea' eb' ed' : Nat → Nat} (hty : groupA ty = true)
    (hr : rowResult b.self i = some (elementwise b.self td rowd ty rm sat ea eb ed op.flt op.int))
    (he : slotEffect i (b.ctx .v0) b.acc = arithRow op ty rm sat td rowd 4 ea' eb' ed' (b.ctx .v0) b.acc)
    (ha : ea' = ea) (hb : eb' = eb) (hd : ed' = ed) : RowEffect b i := by
  subst ha hb hd
  exact rowEffect_of hr (he ▸ arithRow_leftBy b op hty ..)

theorem exactRow_rowEffect {i : Instr} {td : BitVec 8} {rowd ty : BitVec 5} {ff : XVal → XVal → XVal} {fi fi' : Int → Int → Int}
    {ea eb ea' eb' : Nat → Nat} (hty : groupA ty = true)
    (hr : rowResult b.self i = some (selecting b.self td rowd ty ea eb ff fi))
    (he : slotEffect i (b.ctx .v0) b.acc = b.acc.putRow (b.ctx .v0) td rowd (exactRow ff fi' ty ea' eb') 2)
    (ha : ea' = ea) (hb : eb' = eb) (hi : ∀ s w, fmtOf ty = .int s w → fi' = fi) : RowEffect b i := by
  subst ha hb
  exact rowEffect_of hr (he ▸ exactRow_leftBy b ff hty hi ..)

theorem vclamp_rowEffect {o : VThree} (hty : groupA o.ty = true) : RowEffect b (.vclamp o) :=
  exactRow_rowEffect b hty rfl rfl (ctx_el ..) (ctx_el ..) fun s w hf => by
    rw [hf]
    cases s
    · rfl
    · exact clampI_signed w

/-! Signs (R158). -/

theorem vabs_rowEffect {o : VThree} (hty : groupASigned o.ty = true) : RowEffect b (.vabs o) := by
  refine rowEffect_of rfl ?_
  show RowOut.LeftBy _ b (effVabs o (b.ctx .v0) b.acc)
  unfold effVabs signRow
  rw [ctx_el, lanes_eq (groupW_of_groupA (groupA_of_groupASigned hty))]
  cases hf : fmtOf o.ty with
  | int s w =>
    obtain ⟨rfl, hw⟩ := signed_of_groupASigned hty hf
    exact plainOut_leftBy b (by decide) fun _ _ => convInt_natAbs hw ..
  | flt f => exact plainOut_leftBy b (by decide) fun _ _ => rfl

theorem vneg_rowEffect {o : VThree} (hty : groupASigned o.ty = true) : RowEffect b (.vneg o) := by
  refine rowEffect_of rfl ?_
  show RowOut.LeftBy _ b (effVneg o (b.ctx .v0) b.acc)
  unfold effVneg signRow
  rw [ctx_el, lanes_eq (groupW_of_groupA (groupA_of_groupASigned hty))]
  cases hf : fmtOf o.ty with
  | int s w =>
    obtain ⟨rfl, hw⟩ := signed_of_groupASigned hty hf
    exact plainOut_leftBy b (by decide) fun _ _ => convInt_neg hw ..
  | flt f =>
    refine plainOut_leftBy b (by decide) fun i _ => ?_
    have hlt : rowElem b.self o.ty o.ta o.rowa i < 2 ^ (f.exp + f.man + 1) := by
      have := rowElem_lt b.self o.ty o.ta o.rowa i
      rwa [hf, Fmt.width, FloatFmt.width, Nat.add_assoc, Nat.add_comm] at this
    have hsign : f.width - 1 = f.exp + f.man := by rw [FloatFmt.width]; omega
    simp only [hsign, xor_signBit hlt]

/-! Bits and elements (R157, R160 to R166). -/

/-- A row operation that computes each element of its row, unrounded, from its place. -/
theorem mapRow_rowEffect {i : Instr} {td : BitVec 8} {rowd ty : BitVec 5} {lat : Nat} {g g' : Nat → Nat} (hty : groupW ty = true)
    (hlat : 1 < lat)
    (hr : rowResult b.self i = some (plainOut b.self td rowd (fmtOf ty).width (1024 / (fmtOf ty).width) lat g))
    (he : slotEffect i (b.ctx .v0) b.acc = b.acc.putRow (b.ctx .v0) td rowd (mapRow (laneWidth ty) (lanes ty) g') lat)
    (hg : ∀ j < lanes ty, g' j = g j) : RowEffect b i := by
  refine rowEffect_of hr ?_
  rw [he, laneWidth]
  rw [lanes_eq hty] at hg ⊢
  exact plainOut_leftBy b hlat fun j hj => congrArg (· % _) (hg j hj)

theorem vnot_rowEffect (o : VThree) : RowEffect b (.vnot o) := by
  refine rowEffect_of rfl ?_
  rw [← BitVec.toNat_not]
  exact wholeRow_leftBy b _ (by decide)

theorem vshl_rowEffect {o : VThree} (hty : groupW o.ty = true) : RowEffect b (.vshl o) :=
  mapRow_rowEffect b hty (by decide) rfl rfl fun j _ => by simp only [ctx_el, laneWidth, Nat.shiftLeft_eq]

theorem vshr_rowEffect {o : VThree} (hty : groupW o.ty = true) : RowEffect b (.vshr o) :=
  mapRow_rowEffect b hty (by decide) rfl rfl fun j _ => by simp only [ctx_el, laneWidth, Nat.shiftRight_eq_div_pow]

theorem vsar_rowEffect {o : VThree} (hty : groupW o.ty = true) : RowEffect b (.vsar o) :=
  mapRow_rowEffect b hty (by decide) rfl rfl fun j _ => by
    obtain ⟨hlo, hhi⟩ := toSigned_bounds (fmtOf o.ty).width (rowElem b.self o.ty o.ta o.rowa j)
    simp only [ctx_el, laneWidth, wrapInt_shift hlo hhi]

theorem vpopc_rowEffect {o : VThree} (hty : groupW o.ty = true) : RowEffect b (.vpopc o) :=
  mapRow_rowEffect b hty (by decide) rfl rfl fun j _ => by
    simp only [ctx_el, laneWidth, popCount, List.countP_eq_length_filter]

theorem vsel_rowEffect {o : VThree} (hty : groupW o.ty = true) : RowEffect b (.vsel o) :=
  mapRow_rowEffect b hty (by decide) rfl rfl fun j _ => by
    simp only [ctx_el, bne_iff_ne, ne_eq, ite_not]

theorem viota_rowEffect {o : VThree} (hty : groupW o.ty = true) : RowEffect b (.viota o) :=
  mapRow_rowEffect b hty (by decide) rfl rfl fun _ _ => rfl

theorem vperm_rowEffect {o : VThree} (hty : groupW o.ty = true) : RowEffect b (.vperm o) :=
  mapRow_rowEffect b hty (by decide) rfl rfl fun _ _ => by simp only [ctx_el, lanes_eq hty]

theorem vbcast_rowEffect {o : VScalar} (hty : groupW o.ty = true) : RowEffect b (.vbcast o) :=
  mapRow_rowEffect b hty (by decide) rfl rfl fun _ _ => rfl

theorem vrot_rowEffect {o : VScalar} (hty : groupW o.ty = true) : RowEffect b (.vrot o) :=
  mapRow_rowEffect b hty (by decide) rfl rfl fun j _ => by
    simp only [ctx_el, lanes_eq hty, Nat.add_mod_mod, ← Nat.add_assoc]
    rfl

theorem vmulh_rowEffect {o : VThree} (hty : isIntTy o.ty = true) : RowEffect b (.vmulh o) := by
  obtain ⟨s, w, hf⟩ := int_of_isIntTy hty
  refine rowEffect_of rfl ?_
  show RowOut.LeftBy _ b (effVmulh o (b.ctx .v0) b.acc)
  unfold effVmulh
  rw [ctx_el, ctx_el, lanes_eq (groupW_of_groupA (groupA_of_isIntTy hty))]
  simp only [hf]
  exact plainOut_leftBy b (by decide) fun _ _ => by rw [wrapInt_div]

/-- VINS replaces one element of its row (R166). -/
theorem vins_rowEffect {o : VScalar} (hty : groupW o.ty = true) (hidx : o.idx.toNat < lanes o.ty) : RowEffect b (.vins o) := by
  have hrow : (b.self.row (physTile b.self.regs.rrb o.td) o.rowd.toNat).toNat < 2 ^ (laneWidth o.ty * lanes o.ty) :=
    toNat_lt_of_width (width_mul_lanes hty) _
  have hsel : scalarElem b.self o.ty o.sb 0 < 2 ^ laneWidth o.ty := Nat.mod_lt _ (Nat.two_pow_pos _)
  have hval := mapRow_replace hrow hidx hsel
  refine mapRow_rowEffect b (g' := fun i => if i = o.idx.toNat then scalarElem b.self o.ty o.sb 0 else
    elem (laneWidth o.ty) (b.self.row (physTile b.self.regs.rrb o.td) o.rowd.toNat).toNat i) hty (by decide) rfl ?_ fun i _ => ?_
  · rw [hval]
    rfl
  · rw [elem, Nat.shiftRight_eq_div_pow]
    rfl

/-! Comparisons (R161). -/

theorem vcmp_rowEffect {o : VThree} (hty : groupA o.ty = true) : RowEffect b (.vcmp o) := by
  have hn := lanes_eq (groupW_of_groupA hty)
  refine rowEffect_of rfl ?_
  show RowOut.LeftBy _ b (effVcmp o (b.ctx .v0) b.acc)
  unfold effVcmp floatTy
  rw [ctx_el, ctx_el]
  cases hf : fmtOf o.ty with
  | int s w =>
    simp only [hn, hf, laneWidth, laneCond_eq, Bool.false_eq_true, if_false, Fmt.width, List.foldl_map,
      BitVec.ofNat_eq_ofNat, BitVec.or_zero, List.foldl_fixed]
    exact put_leftBy b _ 0 (by decide : 1 < 2)
  | flt f =>
    simp only [hn, hf, laneWidth, if_true]
    exact put_leftBy b _ 0 (by decide : 1 < 2)

/-! Scaling and conversions (R167, R168). -/

theorem vscale_rowEffect {o : VScalar} (hty : groupF o.ty = true) : RowEffect b (.vscale o) := by
  obtain ⟨f, hf⟩ := flt_of_groupF hty
  refine rowEffect_of rfl ?_
  show RowOut.LeftBy _ b (effVscale o (b.ctx .v0) b.acc)
  unfold effVscale
  rw [ctx_el, ctx_mode, lanes_eq (groupW_of_groupA (groupA_of_groupF hty))]
  simp only [hf]
  refine roundedOut_leftBy b hf (by decide) fun i => ?_
  have hcode : elem 8 ((b.ctx .v0).rd o.sb).toNat ((o.idx.toNat + i / 32) % 8)
      = (b.self.regs.rd o.sb).toNat / 2 ^ (8 * ((o.idx.toNat + i / 32) % 8)) % 256 := by
    rw [elem, Nat.shiftRight_eq_div_pow]
    rfl
  rw [hcode]
  generalize (b.self.regs.rd o.sb).toNat / 2 ^ (8 * ((o.idx.toNat + i / 32) % 8)) % 256 = c
  by_cases hc : c = 255 <;> simp [scaleExp, hc]

/-- VCVT: a type converted to itself changes NaN alone, integers wrap or clamp, and all else is rounded once. -/
theorem vcvt_rowEffect (o : VConv) : RowEffect b (.vcvt o) := by
  have hel : ∀ i, elem (fmtOf o.tys).width ((b.ctx .v0).row o.ta o.rowa).toNat i = rowElem b.self o.tys o.ta o.rowa i :=
    congrFun (ctx_el b .v0 o.tys o.ta o.rowa)
  refine rowEffect_of rfl ?_
  show RowOut.LeftBy _ b (effVcvt o (b.ctx .v0) b.acc)
  unfold effVcvt
  simp only [ctx_mode, hel]
  by_cases hself : o.ty = o.tys
  · rw [if_pos hself, if_pos (beq_iff_eq.2 hself)]
    refine plainOut_leftBy b (by decide) fun i _ => ?_
    cases hf : fmtOf o.ty with
    | int s w => exact Nat.mod_mod ..
    | flt f =>
      simp only [selfConv, Fmt.width]
      split
      · rfl
      · exact Nat.mod_mod ..
  · rw [if_neg hself, if_neg (by simpa using hself)]
    cases hs : fmtOf o.tys with
    | flt fs => exact roundedOut_leftBy b rfl (by decide) fun _ => rfl
    | int s w =>
      cases hd : fmtOf o.ty with
      | flt fd => exact roundedOut_leftBy b hd (by decide) fun _ => rfl
      | int s' w' =>
        simp only [convInt_eq]
        exact plainOut_leftBy b (by decide) fun _ _ => rfl

/-! Transcendental functions (R170). -/

theorem transRow_rowEffect (g : XVal → XVal × BitVec 5) {i : Instr} {o : VThree} (hty : groupF o.ty = true)
    (hr : rowResult b.self i = some (rowResult.transcendental b.self o g))
    (he : slotEffect i (b.ctx .v0) b.acc = transRow g o (b.ctx .v0) b.acc) : RowEffect b i := by
  obtain ⟨f, hf⟩ := flt_of_groupF hty
  refine rowEffect_of hr ?_
  rw [he]
  unfold transRow
  rw [ctx_el, lanes_eq (groupW_of_groupA (groupA_of_groupF hty))]
  simp only [rowResult.transcendental, hf, Fmt.value]
  exact put_leftBy b ⟨o.td, o.rowd, _, _, b.self.regs.seed, 16, true⟩ 0 (by decide : 1 < 16)

/-! Reductions (R97, R169). -/

theorem mapRnd_unrounded {α β : Type} {f : α → Rnd → β × Rnd} (h : ∀ x r, (f x r).2 = r) (l : List α) (r : Rnd) :
    (mapRnd f l r).2 = r := by
  induction l generalizing r with
  | nil => rfl
  | cons x xs ih => exact (ih _).trans (h x r)

theorem tree_unrounded {α : Type} {op : α → α → Rnd → α × Rnd} (h : ∀ p q r, (op p q r).2 = r) (fuel : Nat) (v : List α)
    (r : Rnd) : (tree op fuel v r).2 = r := by
  induction fuel generalizing v r with
  | zero => rfl
  | succ fuel ih =>
    unfold tree
    split
    · rfl
    · exact (ih _ _).trans (mapRnd_unrounded (fun (p : α × α) r => h p.1 p.2 r) _ r)

theorem reduceI_leftBy {o : VThree} {s : Bool} {w : Nat} (hty : groupA o.ty = true) (hf : fmtOf o.ty = .int s w)
    (leafI : Bool → Nat → Nat → Int) (foldI : Int → Int → Int) (leafF : FloatFmt → Nat → Rnd → XVal × Rnd)
    (opF : XVal → XVal → Rnd → XVal × Rnd) (rounds : Bool) :
    (reduction b.self o leafI foldI leafF opF rounds).LeftBy b (reduceI o s w (leafI s w) foldI (b.ctx .v0) b.acc) := by
  have hW := groupW_of_groupA hty
  obtain ⟨m, hm⟩ := Nat.exists_eq_succ_of_ne_zero (lanes_pos hW).ne'
  have hn : 1024 / w = m + 1 := by rw [← Nat.succ_eq_add_one, ← hm, lanes_eq hW, hf, Fmt.width]
  simp only [reduceI, hm, List.range_succ_eq_map, List.map_cons, List.map_map, convInt_eq, reduction, hf, Fmt.width, hn,
    Nat.add_sub_cancel]
  exact put_leftBy b _ 0 (by decide : 1 < 8)

theorem reduceF_leftBy {o : VThree} {f : FloatFmt} (hty : groupA o.ty = true) (hf : fmtOf o.ty = .flt f)
    (leafI : Bool → Nat → Nat → Int) (foldI : Int → Int → Int) (leafF : FloatFmt → Nat → Rnd → XVal × Rnd)
    (opF : XVal → XVal → Rnd → XVal × Rnd) (rounds : Bool)
    (hsame : rounds = false → (∀ i r, (leafF f i r).2 = r) ∧ ∀ p q r, (opF p q r).2 = r) :
    (reduction b.self o leafI foldI leafF opF rounds).LeftBy b (reduceF o f (leafF f) opF rounds (b.ctx .v0) b.acc) := by
  have hn : lanes o.ty = 1024 / f.width := by rw [lanes_eq (groupW_of_groupA hty), hf, Fmt.width]
  have hseed : b.acc.rnd.seed = b.self.regs.seed := rfl
  unfold reduceF reduction
  simp only [hn, hf, hseed, ctx_mode, Fmt.width]
  generalize hp : tree opF 8 _ _ = p
  cases rounds with
  | false =>
    obtain ⟨hleaf, hop⟩ := hsame rfl
    have hrnd : p.2 = ⟨b.self.regs.seed, 0⟩ := by rw [← hp, tree_unrounded hop, mapRnd_unrounded hleaf]
    simp only [hrnd, Bool.false_and, Bool.false_eq_true, if_false, Bool.not_false, if_true]
    exact put_leftBy b _ 0 (by decide : 1 < 8)
  | true =>
    by_cases hty : o.ty = 0x08
    · simp only [hty, bne_self_eq_false, Bool.and_false, Bool.false_eq_true, if_false, Bool.not_true, beq_self_eq_true, if_true]
      exact put_leftBy b _ _ (by decide : 1 < 8)
    · simp only [hty, bne_iff_ne, ne_eq, not_false_eq_true, Bool.true_and, if_true, Bool.not_true, Bool.false_eq_true, if_false,
        beq_iff_eq]
      exact put_leftBy b _ _ (by decide : 1 < 8)

theorem reduction_rowEffect {i : Instr} {o : VThree} (hty : groupA o.ty = true) {leafI : Bool → Nat → Nat → Int}
    {foldI : Int → Int → Int} {leafF : FloatFmt → Nat → Rnd → XVal × Rnd} {opF : XVal → XVal → Rnd → XVal × Rnd} {rounds : Bool}
    (hr : rowResult b.self i = some (reduction b.self o leafI foldI leafF opF rounds))
    (hint : ∀ s w, fmtOf o.ty = .int s w →
      slotEffect i (b.ctx .v0) b.acc = reduceI o s w (leafI s w) foldI (b.ctx .v0) b.acc)
    (hflt : ∀ f, fmtOf o.ty = .flt f →
      slotEffect i (b.ctx .v0) b.acc = reduceF o f (leafF f) opF rounds (b.ctx .v0) b.acc)
    (hsame : rounds = false → ∀ f, (∀ j r, (leafF f j r).2 = r) ∧ ∀ p q r, (opF p q r).2 = r) : RowEffect b i := by
  refine rowEffect_of hr ?_
  cases hf : fmtOf o.ty with
  | int s w => exact hint s w hf ▸ reduceI_leftBy b hty hf ..
  | flt f => exact hflt f hf ▸ reduceF_leftBy b hty hf _ _ _ _ _ fun h => hsame h f

theorem vrsum_rowEffect {o : VThree} (hty : groupA o.ty = true) : RowEffect b (.vrsum o) := by
  refine reduction_rowEffect b hty rfl (fun s w hf => ?_) (fun f hf => ?_) nofun
  all_goals
    show effVrsum o (b.ctx .v0) b.acc = _
    simp only [effVrsum, hf, ctx_el]

theorem vdot_rowEffect {o : VThree} (hty : groupA o.ty = true) : RowEffect b (.vdot o) := by
  refine reduction_rowEffect b hty rfl (fun s w hf => ?_) (fun f hf => ?_) nofun
  all_goals
    show effVdot o (b.ctx .v0) b.acc = _
    simp only [effVdot, hf, ctx_el]

theorem vrmax_rowEffect {o : VThree} (hty : groupA o.ty = true) : RowEffect b (.vrmax o) := by
  refine reduction_rowEffect b hty rfl (fun s w hf => ?_) (fun f hf => ?_) fun _ _ => ⟨fun _ _ => rfl, fun _ _ _ => rfl⟩
  all_goals
    show effVrmax o (b.ctx .v0) b.acc = _
    simp only [effVrmax, hf, ctx_el]

theorem vrmin_rowEffect {o : VThree} (hty : groupA o.ty = true) : RowEffect b (.vrmin o) := by
  refine reduction_rowEffect b hty rfl (fun s w hf => ?_) (fun f hf => ?_) fun _ _ => ⟨fun _ _ => rfl, fun _ _ _ => rfl⟩
  all_goals
    show effVrmin o (b.ctx .v0) b.acc = _
    simp only [effVrmin, hf, ctx_el]

end

/-! Every row instruction. -/

/-- The operand fields of an operation that issues are legal. -/
theorem fieldsOk_of_issues {s : State} {sl : Slot} {i : Instr} {room : Nat} (h : s.issues sl i room = true) : i.fieldsOk = true := by
  obtain ⟨-, -, -, -, -, -, -, hwf, -⟩ := issues_parts h
  simp only [SlotWord.wf, SlotWord.fieldsOk, Bool.and_eq_true] at hwf
  obtain ⟨⟨⟨⟨hfields, -⟩, -⟩, -⟩, -⟩ := hwf
  exact hfields

/-- The effect of every operation of well-formed fields puts the row of its table on its way. -/
theorem rowEffect_of_fieldsOk (b : State) {i : Instr} (h : i.fieldsOk = true) : RowEffect b i := by
  cases i with
  | vadd o => exact arithRow_rowEffect b opAdd (groupA_of_vArith h) rfl rfl (ctx_el ..) (ctx_el ..) (ctx_el ..)
  | vsub o => exact arithRow_rowEffect b opSub (groupA_of_vArith h) rfl rfl (ctx_el ..) (ctx_el ..) (ctx_el ..)
  | vmul o => exact arithRow_rowEffect b opMul (groupA_of_vArith h) rfl rfl (ctx_el ..) (ctx_el ..) (ctx_el ..)
  | vfma o => exact arithRow_rowEffect b opFma (groupA_of_vArith h) rfl rfl (ctx_el ..) (ctx_el ..) (ctx_el ..)
  | vadds o => exact arithRow_rowEffect b opAdd (groupA_of_vsArith h) rfl rfl (ctx_el ..) rfl (ctx_el ..)
  | vsubs o => exact arithRow_rowEffect b opSub (groupA_of_vsArith h) rfl rfl (ctx_el ..) rfl (ctx_el ..)
  | vmuls o => exact arithRow_rowEffect b opMul (groupA_of_vsArith h) rfl rfl (ctx_el ..) rfl (ctx_el ..)
  | vfmas o => exact arithRow_rowEffect b opFma (groupA_of_vsArith h) rfl rfl (ctx_el ..) rfl (ctx_el ..)
  | vmin o => exact exactRow_rowEffect b (group_of_vPlain h) rfl rfl (ctx_el ..) (ctx_el ..) fun _ _ _ => rfl
  | vmax o => exact exactRow_rowEffect b (group_of_vPlain h) rfl rfl (ctx_el ..) (ctx_el ..) fun _ _ _ => rfl
  | vmins o =>
    simp only [Instr.fieldsOk, Bool.and_eq_true] at h
    obtain ⟨hfields, -⟩ := h
    exact exactRow_rowEffect b (group_of_vsPlain hfields) rfl rfl (ctx_el ..) rfl fun _ _ _ => rfl
  | vmaxs o =>
    simp only [Instr.fieldsOk, Bool.and_eq_true] at h
    obtain ⟨hfields, -⟩ := h
    exact exactRow_rowEffect b (group_of_vsPlain hfields) rfl rfl (ctx_el ..) rfl fun _ _ _ => rfl
  | vclamp o => exact vclamp_rowEffect b (group_of_vPlain h)
  | vabs o =>
    simp only [Instr.fieldsOk, Bool.and_eq_true] at h
    obtain ⟨⟨hty, -⟩, -⟩ := h
    exact vabs_rowEffect b hty
  | vneg o =>
    simp only [Instr.fieldsOk, Bool.and_eq_true] at h
    obtain ⟨⟨hty, -⟩, -⟩ := h
    exact vneg_rowEffect b hty
  | vmulh o => exact vmulh_rowEffect b (group_of_vPlain h)
  | vand o | vor o | vxor o | vmov o | vzero o => exact rowEffect_of rfl (wholeRow_leftBy b _ (by decide))
  | vnot o => exact vnot_rowEffect b o
  | vshl o => exact vshl_rowEffect b (groupW_of_vPlain_int h)
  | vshr o => exact vshr_rowEffect b (groupW_of_vPlain_int h)
  | vsar o => exact vsar_rowEffect b (groupW_of_vPlain_int h)
  | vpopc o =>
    simp only [Instr.fieldsOk, Bool.and_eq_true] at h
    obtain ⟨⟨⟨hty, -⟩, -⟩, -⟩ := h
    exact vpopc_rowEffect b (groupW_of_groupA (groupA_of_isIntTy hty))
  | vcmp o =>
    simp only [Instr.fieldsOk, Bool.and_eq_true] at h
    obtain ⟨⟨⟨⟨⟨hty, -⟩, -⟩, -⟩, -⟩, -⟩ := h
    exact vcmp_rowEffect b hty
  | vsel o => exact vsel_rowEffect b (group_of_vPlain h)
  | viota o =>
    simp only [Instr.fieldsOk, Bool.and_eq_true] at h
    obtain ⟨⟨⟨⟨⟨hty, -⟩, -⟩, -⟩, -⟩, -⟩ := h
    exact viota_rowEffect b (groupW_of_groupA (groupA_of_isIntTy_or_groupF hty))
  | vbcast o =>
    simp only [Instr.fieldsOk, Bool.and_eq_true] at h
    obtain ⟨⟨⟨hfields, -⟩, -⟩, -⟩ := h
    exact vbcast_rowEffect b (group_of_vsPlain hfields)
  | vins o =>
    simp only [Instr.fieldsOk, Bool.and_eq_true] at h
    obtain ⟨⟨⟨hfields, -⟩, -⟩, hidx⟩ := h
    exact vins_rowEffect b (group_of_vsPlain hfields) (of_decide_eq_true hidx)
  | vcvt o => exact vcvt_rowEffect b o
  | vperm o => exact vperm_rowEffect b (groupW_of_vPlain_int h)
  | vrot o => exact vrot_rowEffect b (group_of_vsPlain h)
  | vscale o =>
    simp only [Instr.fieldsOk, Bool.and_eq_true] at h
    obtain ⟨⟨⟨⟨hty, -⟩, -⟩, -⟩, -⟩ := h
    exact vscale_rowEffect b hty
  | vrsum o =>
    simp only [Instr.fieldsOk, Bool.and_eq_true] at h
    obtain ⟨⟨hty, -⟩, -⟩ := h
    exact vrsum_rowEffect b hty
  | vdot o => exact vdot_rowEffect b (groupA_of_vArith h)
  | vrmax o =>
    simp only [Instr.fieldsOk, Bool.and_eq_true] at h
    obtain ⟨⟨⟨hty, -⟩, -⟩, -⟩ := h
    exact vrmax_rowEffect b hty
  | vrmin o =>
    simp only [Instr.fieldsOk, Bool.and_eq_true] at h
    obtain ⟨⟨⟨hty, -⟩, -⟩, -⟩ := h
    exact vrmin_rowEffect b hty
  | vexp2 o => exact transRow_rowEffect b exp2 (groupF_of_vTrans h) rfl rfl
  | vlog2 o => exact transRow_rowEffect b log2F (groupF_of_vTrans h) rfl rfl
  | vrcp o => exact transRow_rowEffect b rcpF (groupF_of_vTrans h) rfl rfl
  | vrsq o => exact transRow_rowEffect b rsqF (groupF_of_vTrans h) rfl rfl
  | vtanh o => exact transRow_rowEffect b tanhF (groupF_of_vTrans h) rfl rfl
  | _ => exact nofun

theorem rowResultsClaim : RowResultsClaim := fun _ _ x h hx =>
  exec_row h hx (rowEffect_of_fieldsOk _ (fieldsOk_of_issues h) x hx)

/-! Special values (R172 to R176). -/

/-- A negative number is less than a positive one. -/
theorem xlt_negative_positive (m : Nat) (e : Int) {k : Nat} (hk : 0 < k) (l : Int) : xlt (.fin true m e) (.fin false k l) = true := by
  have hpos : 0 < k <<< (l - min e l).toNat := by rw [Nat.shiftLeft_eq]; positivity
  simp only [xlt, if_true, Bool.false_eq_true, if_false, decide_eq_true_eq]
  generalize k <<< _ = y at hpos ⊢
  generalize m <<< _ = x
  omega

theorem transcendentalSpecialsClaim : TranscendentalSpecialsClaim := by
  refine ⟨⟨rfl, rfl, rfl⟩, fun n m e h => ?_, fun m e h => ?_, ⟨rfl, rfl, fun _ => rfl, rfl, fun _ _ => rfl⟩,
    ⟨rfl, fun _ => rfl, fun _ => rfl⟩, ⟨rfl, rfl, fun _ => rfl, rfl, fun _ _ => rfl⟩, rfl, fun _ => rfl, fun _ => rfl,
    fun n m e h => ?_⟩
  · simp only [exp2, h, Bool.not_false, if_true]
  · simp only [exp2, xlt_negative_positive m e (by decide : 0 < 128), h, Bool.not_true, Bool.false_eq_true, if_false, Bool.not_false, if_true]
  · simp only [tanhF, XVal.abs, h, Bool.not_false, if_true]

/-- Settles O18: the effect of every row instruction puts the row of its table on its way (`rowEffect_of_fieldsOk`), and what asks
its issue for nothing issues as its effect (`exec_row`); the special values are the cases of each function's definition, the one
of large negative operands of VEXP2 by `xlt_negative_positive`. -/
theorem rowInstructions : Obligations.RowInstructions := ⟨rowResultsClaim, transcendentalSpecialsClaim⟩

end Sys2Proof
end

section
/-! PROOF. The issue of an operation that ends its restart region (R34, R62): the effect of its plain bundle, retired, and the mark at
the next bundle; and the checks of a probe, one by one. -/

namespace Sys2Proof.Machine

/-! Probes. -/

/-- Several checks pass where each of them does. -/
theorem first_eq_go {ps : List Probe} : Probe.first ps = .go ↔ ∀ p ∈ ps, p = .go := by
  induction ps with
  | nil => simp [Probe.first]
  | cons p ps ih => cases p <;> simp [Probe.first, ih]

@[simp] theorem trapIf_eq_go {b : Bool} {t : Trap} {w1 w2 : W64} : Probe.trapIf b t w1 w2 = .go ↔ b = false := by
  cases b <;> simp [Probe.trapIf]

@[simp] theorem stallIf_eq_go {b mark : Bool} : Probe.stallIf b mark = .go ↔ b = false := by
  cases b <;> simp [Probe.stallIf]

/-- A read of lines that are ready waits for nothing (R203, R218, R293). -/
theorem probeLines_go {b : State} (sl : Slot) {a n : Nat} (h : linesReady b a n = true) : probeLines (b.ctx sl) a n = .go :=
  first_eq_go.1 (loadProbe_go (sl := sl) (w := 0) rfl h) _ (by simp)

/-! The issue. -/

/-- An operation asks for nothing before its bundle issues, whatever it ends after it: no mark, no semaphore, no write-down, no walk,
no admission, and no check of its own stops it. -/
structure Unhindered (s : State) (sl : Slot) (i : Instr) : Prop where
  always : marksAlways i = false
  before : ∀ x, marksBefore x i = false
  semwait : ∀ o, i ≠ .semwait o
  semadd : ∀ o, i ≠ .semadd o
  down : downBefore s.tried.self i = s.tried.self
  walks : walksBefore (s.begun.ctx sl) i s.tried = s.tried
  probe : slotProbe none (s.begun.ctx sl) i = .go
  answer : slotAnswer (s.begun.ctx sl) i = .go

theorem downAtomic_of_isAtomic_false {i : Instr} (h : isAtomic i = false) (x : Ctx) (k : Core) : downAtomic x k i = k := by
  cases i <;> first | rfl | cases h

/-- The step of an unhindered operation is the issue of its plain bundle. -/
theorem exec_unhindered {s : State} {sl : Slot} {i : Instr} (h0 : i.slots.head? = some sl) (h : s.issues sl i 2 = true)
    (hu : Unhindered s sl i) : exec i s = .next (drain s.cur (plainIssue s.tried s.begun sl i)) := by
  obtain ⟨hma, hm, hsw, hsa, hd, hwl, hp, hans⟩ := hu
  obtain ⟨-, -, -, -, -, hbad, -⟩ := issues_parts h
  have hat : isAtomic i = false := by
    simp only [marksAlways, Bool.or_eq_false_iff] at hma
    exact hma.1
  have hissue := issueNow_plain (m := s.tried) (b := s.begun) rfl (tried_touched s) hbad hp hans
    (downAtomic_of_isAtomic_false hat _ _) fun o ho => absurd ho (hsa o)
  rw [exec_slot h0, issueOne_fetched h (by omega), tryIssue_unmarked h hma hm hsw hd hwl (by rw [hp]; rfl)]
  exact congrArg (fun t => Host.Outcome.next (drain s.cur t)) hissue

/-- The state and the core that the effect of an operation begun in `s` leaves, its restart region ended; `r` is what its draws
left. -/
structure EndsRegion (s : State) (sl : Slot) (i : Instr) (t : State) (k : Core) (r : Rnd) : Prop where
  effect : slotEffect i (s.begun.ctx sl) { s.begun.acc with s := meetReads s.cur (spReads (s.begun.ctx sl) i) s.begun }
    = { s.begun.acc with s := t, k, rnd := r, mark := true }
  held : k.regs.held = s.begun.self.regs.held
  bad : k.bad = s.begun.self.bad
  now : t.now = s.now

/-- The bundle of an operation that reads no scratchpad, as its effect finds it. -/
theorem acc_noReads {s : State} {x : Ctx} {i : Instr} (hrd : spReads x i = []) :
    ({ s.begun.acc with s := meetReads s.cur (spReads x i) s.begun } : Acc) = s.begun.acc := by
  rw [hrd, meetReads_nil]; rfl

section
variable {s : State} {sl : Slot} {i : Instr} (h : s.issues sl i 2 = true) {t : State} {k : Core} {r : Rnd}
  (he : EndsRegion s sl i t k r)
include h he

/-- The issue of an operation whose effect ends the restart region. -/
theorem plainIssue_marks :
    let u := takeMark s.cur (s.self.pc + 2) (t.setCore s.cur ((k.seeded r.seed).retired s.now (s.self.pc + 2) 0))
    plainIssue s.tried s.begun sl i
      = if zeroStore i then u.setCore s.cur ((u.core s.cur).queueDown (s.self.seq - 1) fun e => e.cls.getLsbD 0) else u := by
  obtain ⟨ha, hh, hb, hn⟩ := he
  obtain ⟨-, -, -, -, hheld, hbad, -⟩ := issues_parts h
  have hseq : s.tried.self.seq = s.self.seq := by rw [tried_self]
  unfold plainIssue
  rw [show s.tried.cur = s.cur from rfl, ha]
  dsimp only
  rw [retire_plain _ _ _ _ _ rfl (hh.trans hheld) (hb.trans hbad)]
  dsimp only [State.acc]
  rw [hn, hseq, begun_pc_self]
  rfl

variable (h0 : i.slots.head? = some sl) (hu : Unhindered s sl i)
include h0 hu

/-- The step of an operation whose effect ends the restart region. -/
theorem exec_marks (hz : zeroStore i = false) :
    exec i s = .next (s.leavesMark t (k.seeded r.seed) (s.self.pc + 2) 0) := by
  rw [exec_unhindered h0 h hu, plainIssue_marks h he, hz]
  rfl

/-- The step of one that writes scratchpad of class 0 besides (R288, R293). -/
theorem exec_marks_down (hz : zeroStore i = true) :
    exec i s = .next (s.leavesDown t (k.seeded r.seed) (s.self.pc + 2) 0) := by
  rw [exec_unhindered h0 h hu, plainIssue_marks h he, hz]
  rfl

end

theorem seeded_same {k : Core} {v : BitVec 32} (h : k.regs.seed = v) : k.seeded v = k := by
  subst h; rfl

/-- The step of one that draws no random bits and writes no register at once. -/
theorem exec_marks_core {s : State} {sl : Slot} {i : Instr} (h0 : i.slots.head? = some sl) (h : s.issues sl i 2 = true)
    (hu : Unhindered s sl i) (hz : zeroStore i = false) {t : State} {k : Core}
    (ha : slotEffect i (s.begun.ctx sl) { s.begun.acc with s := meetReads s.cur (spReads (s.begun.ctx sl) i) s.begun }
      = { s.begun.acc with s := t, k, mark := true })
    (hr : k.regs = s.begun.self.regs) (hb : k.bad = s.begun.self.bad) (hn : t.now = s.now) :
    exec i s = .next (s.leavesMark t k (s.self.pc + 2) 0) := by
  rw [exec_marks h (r := s.begun.acc.rnd) ⟨ha, congrArg _ hr, hb, hn⟩ h0 hu hz,
    show k.seeded s.begun.acc.rnd.seed = k from seeded_same (congrArg _ hr)]

end Sys2Proof.Machine
end

section
/-! PROOF. The ring instructions (R189, R191, R205 to R208), and how an operand tile is fetched through the operand cache (R196, R197,
R450). -/

namespace Sys2Proof.Machine

/-! Write-downs (R254). -/

/-- The write-down of some lines changes the L1 and the committed effects alone. -/
theorem queueDown_eq (k : Core) (n : Nat) (pick : L1Line → Bool) :
    k.queueDown n pick = { k with outq := (k.queueDown n pick).outq, l1 := (k.queueDown n pick).l1 } := by
  unfold Core.queueDown Core.meetL1
  split <;> rfl

theorem queueDown_landScales (k : Core) (n : Nat) (pick : L1Line → Bool) :
    k.landScales.queueDown n pick = (k.queueDown n pick).landScales := by
  unfold Core.queueDown Core.meetL1
  rw [show k.landScales.l1 = k.l1 from rfl]
  split <;> rfl

/-- A write-down that has nothing to do once the scale writes have landed has nothing to do before. -/
theorem queueDown_tried {s : State} {pick : L1Line → Bool}
    (h : s.begun.self.queueDown s.begun.self.seq pick = s.begun.self) :
    s.tried.self.queueDown s.tried.self.seq pick = s.tried.self := by
  rw [tried_landed, queueDown_landScales, show s.tried.self.landScales.seq = s.tried.self.seq from rfl] at h
  have hout : (s.tried.self.queueDown s.tried.self.seq pick).outq = s.tried.self.outq := (congrArg Core.outq h :)
  have hl1 : (s.tried.self.queueDown s.tried.self.seq pick).l1 = s.tried.self.l1 := (congrArg Core.l1 h :)
  rw [queueDown_eq, hout, hl1]

/-! The checks of the ring instructions. -/

section
variable {b : State} {o : MRing}

theorem probeRset_go (hbusy : b.self.ringBusy o.ring.toNat = false)
    (hfit : (b.self.regs.rd o.rb).toNat % 512 = 0 ∨ ((b.self.regs.rd o.ra).toNat < 2 ^ 24 ∧
      (b.self.regs.rd o.ra).toNat % 4096 = 0 ∧
      (b.self.regs.rd o.ra).toNat % 2 ^ 21 + (b.self.regs.rd o.rb).toNat % 512 * 4096 ≤ 0x180000)) :
    probeRset o (b.ctx .m) = .go := by
  simp only [probeRset, first_eq_go, List.forall_mem_cons, trapIf_eq_go, stallIf_eq_go]
  refine ⟨?_, hbusy, nofun⟩
  simp only [show ∀ n, (b.ctx .m).rd n = b.self.regs.rd n from fun _ => rfl, laneTop]
  generalize (b.self.regs.rd o.ra).toNat = base at *
  rcases hfit with hsize | ⟨hlt, halign, htop⟩
  · rw [hsize]; rfl
  · rw [Nat.div_eq_of_lt hlt, halign, decide_eq_false (Nat.not_lt.2 htop)]
    simp

/-- RPUSH passes where the ring that it names has room, in a core that runs, and every earlier access has performed (R192, R193,
R199). -/
theorem probeRpush_go {t : Nat} (ht : pushCore o b.cur = t) (hdone : b.self.unperformed = false)
    (hrun : (b.core t).run ≠ .stopped) (hsize : ((b.core t).ring o.ring.toNat).size ≠ 0)
    (hroom : ((b.core t).ring o.ring.toNat).keep = true ∨ ((b.core t).ring o.ring.toNat).count
      + ((b.core t).ring o.ring.toNat).occ.length + (o.fn.toNat + 1) ≤ ((b.core t).ring o.ring.toNat).size) :
    probeRpush o (b.ctx .m) = .go := by
  have hcore : (if t == b.cur then b.self else b.core t) = b.core t := by
    by_cases hc : t = b.cur
    · rw [if_pos (by simpa using hc), hc]; rfl
    · rw [if_neg (by simpa using hc)]
  unfold probeRpush
  simp only [show (b.ctx .m).c = b.cur from rfl, show (b.ctx .m).k = b.self from rfl, show (b.ctx .m).s = b from rfl, ht, hcore,
    hdone]
  generalize (b.core t).ring o.ring.toNat = r at *
  simp only [first_eq_go, List.forall_mem_cons, trapIf_eq_go, stallIf_eq_go, Bool.or_eq_false_iff, Bool.and_eq_false_iff,
    beq_eq_false_iff_ne, Bool.not_eq_false', decide_eq_false_iff_not]
  exact ⟨⟨hsize, hroom.imp_right (by omega)⟩, hroom.imp_right (by omega), ⟨hrun, trivial⟩, nofun⟩

theorem probeRpop_go (hsize : (b.self.ring o.ring.toNat).size ≠ 0)
    (hcount : (b.self.ring o.ring.toNat).keep = true ∨ o.fn.toNat + 1 ≤ (b.self.ring o.ring.toNat).count) :
    probeRpop o (b.ctx .m) = .go := by
  simp only [probeRpop, trapIf_eq_go, Bool.or_eq_false_iff, Bool.and_eq_false_iff, beq_eq_false_iff_ne, Bool.not_eq_false',
    decide_eq_false_iff_not]
  exact ⟨hsize, hcount.imp_right Nat.not_lt.2⟩

end

/-! The instructions. -/

/-- RPUSH gives the tiles to the core's own ring, or to one of another lane's core. -/
theorem exec_rpush {s : State} {o : MRing} (h : s.issues .m (.rpush o) 2 = true) (hu : Unhindered s .m (.rpush o)) :
    let t := pushCore o s.cur
    let z := s.begun.core t
    let p := (z.ring o.ring.toNat).push (o.fn.toNat + 1)
    exec (.rpush o) s = .next
      (if t = s.cur then s.leavesMark s.begun (s.begun.self.setRing o.ring.toNat p) (s.self.pc + 2) 0
       else s.leavesMark (s.begun.setCore t (z.setRing o.ring.toNat p)) s.begun.self (s.self.pc + 2) 0) := by
  by_cases hown : pushCore o s.cur = s.cur
  · dsimp only
    rw [if_pos hown, hown]
    exact exec_marks_core rfl h hu rfl (by rw [acc_noReads rfl]; exact if_pos (beq_iff_eq.2 hown)) rfl rfl rfl
  · dsimp only
    rw [if_neg hown]
    exact exec_marks_core rfl h hu rfl
      (by rw [acc_noReads rfl]; exact if_neg fun hc => hown (beq_iff_eq.1 hc)) rfl rfl rfl

/-- Slots handed back empty leave their core, but for what the ring keeps of them. -/
theorem releaseSlots_core (c n : Nat) (s : State) :
    (releaseSlots c n s).core c = (s.core c).setRing n { (s.core c).ring n with occ := [] } := by
  unfold releaseSlots
  dsimp only
  rw [State.setCluster_core, State.setCore_same]

/-- What RPOP leaves of a ring that no MMA in flight has popped: its slots are handed back at once. -/
theorem effRpop_free {b : State} {o : MRing} (hbusy : b.self.ringBusy o.ring.toNat = false) :
    let t := releaseSlots b.cur o.ring.toNat
      (b.setCore b.cur (b.self.setRing o.ring.toNat ((b.self.ring o.ring.toNat).pops (o.fn.toNat + 1))))
    effRpop o (b.ctx .m) b.acc = { b.acc with s := t, k := t.core b.cur, mark := true } := by
  unfold effRpop
  dsimp only
  rw [if_neg (show ¬ (b.ctx .m).k.ringBusy o.ring.toNat = true from fun hc => by cases hbusy.symm.trans hc)]
  rfl

/-- RPOP hands back what it pops, where no MMA in flight has popped the ring (R207). -/
theorem exec_rpop {s : State} {o : MRing} (h : s.issues .m (.rpop o) 2 = true) (hgo : probeRpop o (s.begun.ctx .m) = .go)
    (hbusy : s.begun.self.ringBusy o.ring.toNat = false) :
    let t := releaseSlots s.cur o.ring.toNat (s.begun.setCore s.cur
      (s.begun.self.setRing o.ring.toNat ((s.begun.self.ring o.ring.toNat).pops (o.fn.toNat + 1))))
    exec (.rpop o) s = .next (s.leavesMark t (t.core s.cur) (s.self.pc + 2) 0) := by
  intro t
  have hcore : t.core s.cur = _ := releaseSlots_core s.cur o.ring.toNat _
  rw [State.setCore_same] at hcore
  refine exec_marks_core rfl h ⟨rfl, fun _ => rfl, nofun, nofun, rfl, rfl, hgo, rfl⟩ rfl
    (by rw [acc_noReads rfl]; exact effRpop_free hbusy) ?_ ?_ rfl <;>
    rw [hcore] <;> rfl

/-- A word of a ring (R189). -/
theorem ring_word (r : Ring) (fn : BitVec 4) : r.word fn.toNat = BitVec.ofNat 64
    (if fn = 0 then (if r.keep then 2 ^ 33 else 0) + r.size * 2 ^ 24 + r.base.toNat
      else r.gen.toNat * 2 ^ 48 + r.count * 2 ^ 32 + (if r.size = 0 then 0 else (r.head + r.count) % r.size) * 2 ^ 16 + r.head) := by
  have hfn : (fn.toNat == 0) = true ↔ fn = 0 := by simp [← BitVec.toNat_inj]
  unfold Ring.word
  by_cases h : fn = 0
  · rw [if_pos (hfn.2 h), if_pos h]
    cases r.keep <;> rfl
  · rw [if_neg fun hc => h (hfn.1 hc), if_neg h]
    simp only [beq_iff_eq]

theorem ringsClaim : RingsClaim := by
  intro s o
  refine ⟨fun h hbusy hfit => ?_, fun h hdone hdown hrun hsize hroom => ?_, fun h hsize hcount hbusy => ?_, fun h hbusy => ?_⟩
  · exact exec_marks_core rfl h ⟨rfl, fun _ => rfl, nofun, nofun, rfl, rfl, probeRset_go hbusy hfit, rfl⟩ rfl
      (by rw [acc_noReads rfl]; rfl) rfl rfl rfl
  · have hgo := probeRpush_go rfl hdone hrun hsize hroom
    have hu : Unhindered s .m (.rpush o) := ⟨rfl, fun _ => rfl, nofun, nofun, queueDown_tried hdown, rfl, hgo, rfl⟩
    exact exec_rpush h hu
  · exact exec_rpop h (probeRpop_go hsize hcount) hbusy
  · have hgo : slotProbe none (s.begun.ctx .m) (.rget o) = .go := stallIf_eq_go.2 hbusy
    dsimp only
    rw [← ring_word, exec_scalar rfl h ⟨rfl, fun _ => rfl, nofun, rfl, rfl, rfl, hgo, rfl⟩ nofun rfl o.rd _ 1 rfl, begun_pc_self]
    rfl

/-! The operand cache. -/

/-- The entries of the cache that a fetch of ring `n` leaves where they are: those of another tag. -/
def otherEntries (opc : List OpEntry) (n : Nat) (r : Ring) : List OpEntry :=
  opc.filter fun q => q.ring != n || q.gen != r.gen || q.slot != r.head

/-- Whether an entry holds the tile at the head of ring `n`. -/
def OpEntry.tags (e : OpEntry) (n : Nat) (r : Ring) : Bool := e.ring == n && e.gen == r.gen && e.slot == r.head

theorem tags_iff {e : OpEntry} {n : Nat} {r : Ring} : e.tags n r = true ↔ e.ring = n ∧ e.gen = r.gen ∧ e.slot = r.head := by
  simp [OpEntry.tags, and_assoc]

theorem filter_not_tags (opc : List OpEntry) (n : Nat) (r : Ring) : (opc.filter fun e => !e.tags n r) = otherEntries opc n r := by
  simp only [OpEntry.tags, otherEntries, Bool.not_and, bne]

section
variable (x : Ctx) (n : Nat) (a : Acc)

/-- A tile that no good entry holds is read from scratchpad, and entered as the newest. -/
theorem fetchTile_miss (h : (a.k.opc.find? fun e => e.tags n (x.k.ring n) && !e.bad) = none) :
    let r := x.k.ring n
    let now := x.s.spRows x.c (r.slotAddr r.head) 32
    let rest := otherEntries a.k.opc n r
    fetchTile x n a = (now, { a with k := { a.k with
      opc := (if rest.length < 16 then rest else rest.drop 1) ++ [⟨n, r.gen, r.head, now, false⟩] } }) := by
  unfold OpEntry.tags at h
  simp only [fetchTile, h, ← filter_not_tags]
  rfl

/-- A tile that a good entry holds is read as the entry or as scratchpad, and the entry becomes the newest. -/
theorem fetchTile_hit {e : OpEntry} (h : (a.k.opc.find? fun e => e.tags n (x.k.ring n) && !e.bad) = some e) :
    let r := x.k.ring n
    fetchTile x n a = (if Config.staleTile a.s.fresh.1 then e.rows else x.s.spRows x.c (r.slotAddr r.head) 32,
      { a with s := a.s.fresh.2, k := { a.k with opc := otherEntries a.k.opc n r ++ [e] } }) := by
  unfold OpEntry.tags at h
  simp only [fetchTile, h, ← filter_not_tags]
  rfl

/-- A fetch changes the operand cache, and the counter of free values, of nothing else. -/
theorem fetchTile_changes : ∃ t opc, (fetchTile x n a).2 = { a with s := t, k := { a.k with opc } } ∧ t.now = a.s.now := by
  cases h : a.k.opc.find? fun e => e.tags n (x.k.ring n) && !e.bad with
  | none => exact ⟨a.s, _, congrArg Prod.snd (fetchTile_miss x n a h), rfl⟩
  | some e => exact ⟨a.s.fresh.2, _, congrArg Prod.snd (fetchTile_hit x n a h), rfl⟩

end

theorem operandFetchClaim : OperandFetchClaim := by
  intro x n a
  refine ⟨fun hall => ?_, fun e he htag hgood huniq => ?_⟩
  · refine fetchTile_miss x n a (List.find?_eq_none.2 fun e he => ?_)
    intro hhit
    obtain ⟨htag, hgood⟩ := Bool.and_eq_true_iff.1 hhit
    rw [hall e he (tags_iff.1 htag)] at hgood
    cases hgood
  · have hfind : (a.k.opc.find? fun e => e.tags n (x.k.ring n) && !e.bad) = some e := by
      cases hf : a.k.opc.find? fun e => e.tags n (x.k.ring n) && !e.bad with
      | none => exact absurd (by simp [tags_iff.2 htag, hgood]) (List.find?_eq_none.1 hf e he)
      | some e' =>
        have hhit := List.find?_some hf
        rw [Bool.and_eq_true] at hhit
        rw [huniq e' (List.mem_of_find?_eq_some hf) (tags_iff.1 hhit.1)]
    rw [fetchTile_hit x n a hfind]
    refine ⟨?_, rfl⟩
    dsimp only
    split
    · exact .inl rfl
    · exact .inr rfl

/-- Settles O20: each ring instruction's check passes and its effect is its step (`exec_marks_core`, `exec_rpush`, `exec_rpop`); a
fetch misses or hits as the search of the cache does (`fetchTile_miss`, `fetchTile_hit`). -/
theorem ringsAndOperands : Obligations.RingsAndOperands := ⟨ringsClaim, operandFetchClaim⟩

end Sys2Proof.Machine
end

section
/-! PROOF. The issue of MMA and MMAZ (R191, R196 to R200, R211): two fetches, two pops, one accumulation in flight. -/

namespace Sys2Proof.Machine

/-- MMA and MMAZ pass where both rings can give a tile, the matrix unit is free, and the lines of both tiles are ready (R192 to R194). -/
theorem probeMac_go {b : State} {o : MMac} (hp : (b.self.ring o.rga.toNat).size ≠ 0) (hq : (b.self.ring o.rgb.toNat).size ≠ 0)
    (hpe : (b.self.ring o.rga.toNat).empty = false) (hqe : (b.self.ring o.rgb.toNat).empty = false) (hfree : b.self.mma = none)
    (hpl : linesReady b ((b.self.ring o.rga.toNat).slotAddr (b.self.ring o.rga.toNat).head) 32 = true)
    (hql : linesReady b ((b.self.ring o.rgb.toNat).slotAddr (b.self.ring o.rgb.toNat).head) 32 = true) :
    probeMac o (b.ctx .m) = .go := by
  simp only [probeMac, first_eq_go, List.forall_mem_cons, trapIf_eq_go, stallIf_eq_go]
  rw [show (b.ctx .m).k = b.self from rfl]
  exact ⟨by simp [hp, hq], by simp [hpe, hqe], by simp [hfree], probeLines_go .m hpl, probeLines_go .m hql, nofun⟩

/-- The accumulation that an MMA or MMAZ puts in flight: its operand tiles, what it starts from, the scale registers as they stand. -/
def macInFlight (b : State) (o : MMac) (ta tb old : List Row) : Mma :=
  { tc := physTile b.self.regs.rrb o.tc, keep := true, fa := o.fa, fb := o.fb, a := ta, b := tb
    sa := b.self.regs.scale o.ka.toNat, sb := b.self.regs.scale o.kb.toNat, old, rings := [o.rga.toNat, o.rgb.toNat]
    due := b.now + (if o.fa = 0x08 then 16 else 8), seq := b.self.seq }

section
variable {b u : State} {o : MMac} {ta tb : List Row} {a a' : Acc}
  (h1 : fetchTile (b.ctx .m) o.rga.toNat { b.acc with s := u } = (ta, a))
  (h2 : fetchTile (b.ctx .m) o.rgb.toNat a = (tb, a'))
include h1 h2

/-- The two fetches of an MMA leave the bundle as it was begun, but for the operand cache and the counter of free values. -/
theorem fetchTiles_change : ∃ t opc, a' = { b.acc with s := t, k := { b.self with opc } } ∧ t.now = u.now := by
  obtain ⟨t, opc, ha, ht⟩ := fetchTile_changes (b.ctx .m) o.rga.toNat { b.acc with s := u }
  obtain ⟨t', opc', ha', ht'⟩ := fetchTile_changes (b.ctx .m) o.rgb.toNat a
  rw [h1] at ha
  rw [h2] at ha'
  subst ha
  exact ⟨t', opc', ha', ht'.trans ht⟩

/-- What the issue of an MMA or MMAZ leaves: both rings popped, the operand cache as the fetches leave it, the accumulation in
flight. -/
theorem macIssue_eq (old : List Row) (hu : u.now = b.now) :
    macIssue o old (b.ctx .m) { b.acc with s := u } = { b.acc with
      s := a'.s, mark := true
      k := { (a'.k.setRing o.rga.toNat (b.self.ring o.rga.toNat).pop).setRing o.rgb.toNat (b.self.ring o.rgb.toNat).pop with
        mma := some (macInFlight b o ta tb old) } } := by
  obtain ⟨t, opc, rfl, ht⟩ := fetchTiles_change h1 h2
  have hcycles : macCycles o.fa = if o.fa = 0x08 then 16 else 8 := by simp only [macCycles, beq_iff_eq]
  unfold macIssue
  simp only [h1, h2, hcycles, ht, hu]
  rfl

end

/-- The step of an MMA or MMAZ, both starting from `old` as their effect says. -/
theorem exec_mac {s : State} {o : MMac} {i : Instr} {old : List Row} (h : s.issues .m i 2 = true)
    (hi : i = .mma o ∧ old = s.begun.self.rows (physTile s.begun.self.regs.rrb o.tc) ∨ i = .mmaz o ∧ old = List.replicate 32 0)
    (hgo : probeMac o (s.begun.ctx .m) = .go) {ta tb : List Row} {a a' : Acc}
    (h1 : fetchTile (s.begun.ctx .m) o.rga.toNat
      { s.begun.acc with s := meetReads s.cur (spReads (s.begun.ctx .m) i) s.begun } = (ta, a))
    (h2 : fetchTile (s.begun.ctx .m) o.rgb.toNat a = (tb, a')) :
    exec i s = .next (s.leavesMark a'.s
      { (a'.k.setRing o.rga.toNat (s.begun.self.ring o.rga.toNat).pop).setRing o.rgb.toNat (s.begun.self.ring o.rgb.toNat).pop with
        mma := some (macInFlight s.begun o ta tb old) } (s.self.pc + 2) 0) := by
  have heff : slotEffect i (s.begun.ctx .m) { s.begun.acc with s := meetReads s.cur (spReads (s.begun.ctx .m) i) s.begun } = _ :=
    Eq.trans (by rcases hi with ⟨rfl, rfl⟩ | ⟨rfl, rfl⟩ <;> rfl) (macIssue_eq h1 h2 old (meetReads_now ..))
  have hu : Unhindered s .m i := by
    rcases hi with ⟨rfl, -⟩ | ⟨rfl, -⟩ <;> exact ⟨rfl, fun _ => rfl, nofun, nofun, rfl, rfl, hgo, rfl⟩
  obtain ⟨t, opc, ha', ht⟩ := fetchTiles_change h1 h2
  refine exec_marks_core ?_ h hu ?_ heff ?_ ?_ ?_
  · rcases hi with ⟨rfl, -⟩ | ⟨rfl, -⟩ <;> rfl
  · rcases hi with ⟨rfl, -⟩ | ⟨rfl, -⟩ <;> rfl
  · rw [ha']; rfl
  · rw [ha']; rfl
  · rw [ha', ht, meetReads_now]; rfl

/-- Settles O21: the checks pass (`probeMac_go`), the fetches change the operand cache alone (`fetchTiles_change`), and the effect pops
both rings and puts the accumulation in flight (`macIssue_eq`). -/
theorem matrixIssue : Obligations.MatrixIssue := by
  intro s o i old k p q hi h hp hq hpe hqe hfree hpl hql b
  obtain ⟨ta, a, h1⟩ : ∃ ta a, fetchTile (s.begun.ctx .m) o.rga.toNat { s.begun.acc with s := b } = (ta, a) := ⟨_, _, rfl⟩
  obtain ⟨tb, a', h2⟩ : ∃ tb a', fetchTile (s.begun.ctx .m) o.rgb.toNat a = (tb, a') := ⟨_, _, rfl⟩
  simp only [h1, h2]
  exact exec_mac h hi (probeMac_go hp hq hpe hqe hfree hpl hql) h1 h2

end Sys2Proof.Machine
end

section
/-! PROOF. MOUT, MOUTS and MZERO (R202 to R204): the conversion of an accumulator row, element by element or as one MX block (R91), what
each puts on its way, and how it lands (R194, R212, R219, R293). -/

namespace Sys2Proof.Machine

/-! MX blocks (R91). -/

/-- The formats of MX output (R202). -/
def mxFormats : List FloatFmt := [e4m3, e5m2, e2m1]

/-- The exponent of a value's magnitude, if it is neither zero nor special. -/
def finiteTop : XVal → Option Int
  | .fin _ m e => some (topExp m e)
  | _ => none

/-- The greatest of the exponents of a block. -/
theorem blockTop_eq (xs : List XVal) : blockTop xs = match xs.filterMap finiteTop with
    | [] => none
    | t :: ts => some (ts.foldl max t) := by
  induction xs with
  | nil => rfl
  | cons x xs ih =>
    cases x with
    | fin n m e =>
      have hcons : (XVal.fin n m e :: xs).filterMap finiteTop = topExp m e :: xs.filterMap finiteTop := rfl
      rw [hcons]
      unfold blockTop
      rw [ih]
      cases xs.filterMap finiteTop with
      | nil => rfl
      | cons t ts => exact congrArg some (List.foldl_assoc ..).symm
    | _ => exact ih

theorem blockScale_eq {f : FloatFmt} (hf : f ∈ mxFormats) (t : Int) :
    (blockScale f t : Int) = (let emax : Int := if f.width = 4 then 2 else if f.man = 3 then 8 else 15
      let k : Int := t - emax + 127
      if k < 0 then 0 else if 254 < k then 254 else k) := by
  have hemax : emaxElem f = if f.width = 4 then 2 else if f.man = 3 then 8 else 15 := by
    revert f; decide
  unfold blockScale
  rw [hemax]
  dsimp only
  generalize t - (if f.width = 4 then 2 else if f.man = 3 then 8 else 15 : Int) + 127 = k
  split_ifs <;> omega

theorem signed_zero (f : FloatFmt) (neg : Bool) : f.signed neg 0 = if neg then 2 ^ (f.width - 1) else 0 := by
  rw [FloatFmt.signed, Nat.add_zero, FloatFmt.width, Nat.add_assoc, Nat.add_sub_cancel_left]

/-- A block of values is quantised as R91 says. -/
theorem mxQuantise_eq {f : FloatFmt} (hf : f ∈ mxFormats) (sat : Bool) (block : List XVal) (r : Rnd) :
    mxQuantise f sat block r = quantised f sat block r := by
  have htop := blockTop_eq block
  unfold mxQuantise quantised
  split
  · rfl
  · split
    · next hnone =>
      split
      · simp only [signed_zero]
      · next hcons =>
        rw [hnone, show block.filterMap finiteTop = _ :: _ from hcons] at htop
        cases htop
    · next hsome =>
      split
      · next hnil =>
        rw [hsome, show block.filterMap finiteTop = [] from hnil] at htop
        cases htop
      · next hcons =>
        rw [hsome, show block.filterMap finiteTop = _ :: _ from hcons] at htop
        cases htop
        dsimp only
        rw [← blockScale_eq hf]
        rfl

/-! The conversion of an accumulator (R202). -/

/-- The formats of MX output are those of its types. -/
theorem mxFormats_of_outRules {ty : BitVec 5} {rm : BitVec 3} {f : FloatFmt} (h : outRules ty rm 1 = true)
    (hf : fmtOf ty = .flt f) : f ∈ mxFormats := by
  have hty : codeIn ty 0x0B 0x0D = true := by
    simp only [outRules, Bool.and_eq_true, Bool.or_eq_true] at h
    obtain ⟨⟨-, hmx | ⟨hty, -⟩⟩, -⟩ := h
    · cases hmx
    · exact hty
  have hmem : fmtOf ty = .flt e4m3 ∨ fmtOf ty = .flt e5m2 ∨ fmtOf ty = .flt e2m1 := by
    clear hf h; revert ty; decide
  rw [hf] at hmem
  simpa [mxFormats] using hmem

theorem elems_eq_rowElems (row : Row) : elems 32 32 row.toNat = Sys2Proof.rowElems 32 row :=
  List.map_congr_left fun i _ => by rw [elem, Nat.shiftRight_eq_div_pow]

theorem outRow_eq {ty : BitVec 5} (m : Mode) (sat mx : Bool) (row : Row) (r : Rnd)
    (hmx : mx = true → ∀ f, fmtOf ty = .flt f → f ∈ mxFormats) :
    outRow ty m sat mx row r = convertedRow ty m sat mx row r := by
  unfold outRow convertedRow
  rw [elems_eq_rowElems]
  cases hf : fmtOf ty with
  | int s w =>
    simp only [convInt]
    push_cast
    rfl
  | flt f =>
    cases mx with
    | false => rfl
    | true =>
      dsimp only
      rw [mxQuantise_eq (hmx rfl f hf)]

theorem outRows_eq {ty : BitVec 5} (m : Mode) (sat mx : Bool) (rows : List Row) (r : Rnd)
    (hmx : mx = true → ∀ f, fmtOf ty = .flt f → f ∈ mxFormats) :
    outRows ty m sat mx rows r = convertedRows ty m sat mx rows r := by
  induction rows generalizing r with
  | nil => rfl
  | cons row rows ih =>
    unfold outRows at ih ⊢
    simp only [mapRnd, convertedRows, outRow_eq m sat mx row r hmx, ih]

/-! What is put on its way. -/

/-- The flags of a conversion: none but of one to a floating type (R120). -/
def outFlags (ty fl : BitVec 5) : Option (BitVec 5) := match fmtOf ty with | .flt _ => some fl | .int _ _ => none

theorem outFlags_eq (ty fl : BitVec 5) : (if floatTy ty then some fl else none) = outFlags ty fl := by
  unfold floatTy outFlags
  cases fmtOf ty <;> rfl

/-- The accumulator that MOUT and MOUTS convert, converted. -/
def convertedAcc (k : Core) (ty : BitVec 5) (rm : BitVec 3) (sat mx : BitVec 1) (tc : BitVec 8) : List (Nat × Nat) × Rnd :=
  convertedRows ty (modeField k.regs rm) (sat == 1) (mx == 1) (k.rows (physTile k.regs.rrb tc)) ⟨k.regs.seed, 0⟩

/-- The conversion of an output whose fields are legal. -/
theorem outRows_convertedAcc {b : State} {ty : BitVec 5} {rm : BitVec 3} {mx : BitVec 1} (hrules : outRules ty rm mx = true)
    (sat : BitVec 1) (tc : BitVec 8) :
    outRows ty ((b.ctx .m).mode rm) (sat == 1) (mx == 1) ((b.ctx .m).rows tc) { b.acc.rnd with flags := 0 }
      = convertedAcc b.self ty rm sat mx tc := by
  rw [outRows_eq _ _ _ _ _ fun hmx f hf => mxFormats_of_outRules (by rwa [eq_of_beq hmx] at hrules) hf, ctx_mode]
  rfl

section
variable {b : State} {rs : List (Nat × Nat)} {r : Rnd}

/-- What MOUT puts on its way. -/
theorem effMout_eq {o : MOut} (hrules : outRules o.ty o.rm o.mx = true)
    (hrs : convertedAcc b.self o.ty o.rm o.sat o.mx o.tc = (rs, r)) :
    effMout o (b.ctx .m) b.acc = { b.acc with
      rnd := r, mark := true
      k := { b.self with mout := b.self.mout ++ [{
        tile := some (physTile b.self.regs.rrb o.td, rs.map fun e => rowOf e.1)
        scale := if o.mx == 1 then some (o.kd.toNat, rs.map fun e => BitVec.ofNat 8 e.2) else none
        lines := none, flags := outFlags o.ty r.flags, due := b.now + (if o.mx == 1 then 6 else 4), seq := b.self.seq }] } } := by
  unfold effMout
  dsimp only
  rw [outRows_convertedAcc hrules, hrs]
  dsimp only
  rw [outFlags_eq, show (b.ctx .m).dropK = false from rfl, Bool.not_false, Bool.and_true]
  rfl

/-- What MOUTS puts on its way. -/
theorem effMouts_eq {o : MOuts} (hrules : outRules o.ty o.rm o.mx = true)
    (hrs : convertedAcc b.self o.ty o.rm o.sat o.mx o.tc = (rs, r)) :
    effMouts o (b.ctx .m) b.acc = { b.acc with
      rnd := r, mark := true
      k := { b.self with mout := b.self.mout ++ [{
        tile := none, scale := none
        lines := some (moutsAddr o (b.ctx .m), moutsSize o, (rs.flatMap fun e => bytesOf (4 * (fmtOf o.ty).width) (rowOf e.1))
          ++ (if o.mx == 1 then rs.map (fun e => BitVec.ofNat 8 e.2) ++ List.replicate 96 0 else []))
        flags := outFlags o.ty r.flags, due := b.now + (if o.mx == 1 then 10 else 8), seq := b.self.seq }] } } := by
  unfold effMouts
  dsimp only
  rw [outRows_convertedAcc hrules, hrs]
  dsimp only
  rw [outFlags_eq]
  rfl

end

theorem probeMouts_go {b : State} {o : MOuts} (halign : moutsAddr o (b.ctx .m) % 128 = 0)
    (hlt : moutsAddr o (b.ctx .m) < 2 ^ 24) (htop : moutsAddr o (b.ctx .m) % 2 ^ 21 + moutsSize o ≤ 0x180000)
    (hfree : b.self.linesBusy (moutsAddr o (b.ctx .m)) (moutsSize o) = false) : probeMouts o (b.ctx .m) = .go := by
  simp only [probeMouts, first_eq_go, List.forall_mem_cons, trapIf_eq_go, stallIf_eq_go]
  exact ⟨by simp only [spOk, halign, hlt, laneTop, htop, decide_true, beq_self_eq_true, Bool.and_self, Bool.not_true], hfree, nofun⟩

theorem matrixOutputsClaim : MatrixOutputsClaim := by
  intro s
  refine ⟨fun o h => ?_, fun o h => ?_, fun o h => ?_⟩
  · obtain ⟨rs, r, hrs⟩ : ∃ rs r, convertedAcc s.begun.self o.ty o.rm o.sat o.mx o.tc = (rs, r) := ⟨_, _, rfl⟩
    have hrules : outRules o.ty o.rm o.mx = true := by
      have hfields := fieldsOk_of_issues h
      simp only [Instr.fieldsOk, Bool.and_eq_true] at hfields
      obtain ⟨⟨-, hrules⟩, -⟩ := hfields
      exact hrules
    have heff := effMout_eq hrules hrs
    unfold convertedAcc at hrs
    dsimp only
    rw [hrs]
    exact exec_marks h (r := r) ⟨by rw [acc_noReads rfl]; exact heff, rfl, rfl, rfl⟩ rfl
      ⟨rfl, fun _ => rfl, nofun, nofun, rfl, rfl, rfl, rfl⟩ rfl
  · intro mx w size a halign hlt htop hfree
    obtain ⟨rs, r, hrs⟩ : ∃ rs r, convertedAcc s.begun.self o.ty o.rm o.sat o.mx o.tc = (rs, r) := ⟨_, _, rfl⟩
    have hrules : outRules o.ty o.rm o.mx = true := by
      have hfields := fieldsOk_of_issues h
      simp only [Instr.fieldsOk, Bool.and_eq_true] at hfields
      obtain ⟨-, hrules⟩ := hfields
      exact hrules
    have hgo := probeMouts_go halign hlt htop hfree
    have heff := effMouts_eq hrules hrs
    unfold convertedAcc at hrs
    rw [hrs]
    exact exec_marks_down h (r := r) ⟨by rw [acc_noReads rfl]; exact heff, rfl, rfl, rfl⟩ rfl
      ⟨rfl, fun _ => rfl, nofun, nofun, rfl, rfl, hgo, rfl⟩ rfl
  · exact exec_marks_core rfl h ⟨rfl, fun _ => rfl, nofun, nofun, rfl, rfl, rfl, rfl⟩ rfl
      (by rw [acc_noReads rfl]; rfl) rfl rfl rfl

/-! Landing. -/

/-- Lines filled: who waited for them issues at once. -/
theorem fillLines_eq (s : State) (cl l n : Nat) :
    s.fillLines cl l n = readersWoken cl (s.setCluster cl ((s.cluster cl).setFull l n true)) := rfl

/-- The lines of a MOUTS in their banks, full (R203). -/
theorem landLines_eq (s : State) (cl a n : Nat) (bs : List Byte) :
    s.landLines cl (a, n, bs) = readersWoken cl (s.setCluster cl (((s.cluster cl).setSp a bs).setFull (lineKey a) (n / 128) true)) := by
  rw [State.landLines, fillLines_eq, State.setCluster_same, State.setCluster_twice]

section
variable {s : State} {c i : Nat} {m : MOutPend} (hm : (s.core c).mout[i]? = some m) (hdue : m.due ≤ s.now)
include hm hdue

/-- A result of the output path that writes no lines lands: its rows, then its scale bytes. -/
theorem mOutputLand_regs (hl : m.lines = none) {t : Nat} {rows : List Row} (ht : m.tile = some (t, rows)) :
    let k := (({ s.core c with mout := removeAt (s.core c).mout i } : Core).orFlags (m.flags.getD 0)).setRows t 0 rows
    (m.scale = none → mOutputLand c i s = s.setCore c k) ∧
    (∀ n bs, m.scale = some (n, bs) → mOutputLand c i s = s.setCore c (k.landRegs 0 (landScale n m.seq bs))) := by
  refine ⟨fun hs => ?_, fun n bs hs => ?_⟩ <;>
    simp only [mOutputLand, hm, hl, ht, hs, hdue, decide_true, Bool.not_false, Bool.and_self, if_true]

/-- One that writes lines lands in their banks, where nothing comes before it (R219, R293). -/
theorem mOutputLand_lines (hs : m.scale = none) (ht : m.tile = none) {a n : Nat} {bs : List Byte} (hl : m.lines = some (a, n, bs))
    (hearlier : (s.core c).earlierZero m.seq false = false)
    (hempty : ∀ j < n / 128, s.emptiesFirst (coreCluster c) (lineKey a + j) m.due = false) :
    mOutputLand c i s = (s.setCore c (({ s.core c with mout := removeAt (s.core c).mout i } : Core).orFlags
      (m.flags.getD 0))).landLines (coreCluster c) (a, n, bs) := by
  have hnone : ((List.range (n / 128)).any fun j => s.emptiesFirst (coreCluster c) (lineKey a + j) m.due) = false :=
    List.any_eq_false.2 fun j hj => by simp [hempty j (List.mem_range.1 hj)]
  simp only [mOutputLand, hm, hl, ht, hs, hdue, hearlier, hnone, decide_true, Bool.or_self, Bool.not_false, Bool.and_self, if_true]

end

theorem matrixOutputsLandClaim : MatrixOutputsLandClaim := by
  intro s c i m hm hdue hfirst k cl
  have hstep : exec (.mOutputLand c i) s = .next (drain c (mOutputLand c i s)) := rfl
  refine ⟨fun t rows ht hs hl => ?_, fun t rows n bs ht hs hl => ?_, fun a n bs ht hs hl => ?_⟩
  · rw [hstep, (mOutputLand_regs hm hdue hl ht).1 hs]
  · rw [hstep, (mOutputLand_regs hm hdue hl ht).2 n bs hs]
  · obtain ⟨hearlier, hempty⟩ := hfirst a n bs hl
    rw [hstep, mOutputLand_lines hm hdue hs ht hl hearlier hempty, landLines_eq]
    rfl

/-- Settles O23: each output's effect puts the converted accumulator on its way (`outRows_convertedAcc`, `effMout_eq`, `effMouts_eq`) and
ends the region (`exec_marks`, `exec_marks_down`); what is due lands in its tile and its scale register (`mOutputLand_regs`), or in its
lines (`mOutputLand_lines`). -/
theorem matrixOutputs : Obligations.MatrixOutputs := ⟨matrixOutputsClaim, matrixOutputsLandClaim⟩

end Sys2Proof.Machine
end

section
/-! PROOF. The reads of the X slot (R228, R322 to R324, R378, R396): each gives the word of its table at issue; EPOP takes the oldest
element of its queue and ends the restart region. -/

namespace Sys2Proof.Machine

/-- An operation of the X slot that asks for nothing before its bundle issues, and reads no scratchpad line. -/
structure XAsksNothing (s : State) (i : Instr) : Prop where
  slot : i.slots.head? = some .x
  quiet : Quiet s .x i
  semadd : ∀ o, i ≠ .semadd o
  reads : spReads (s.begun.ctx .x) i = []

/-- Each operation of `readWord` asks for nothing, and its effect is that its register gets the word after one cycle. -/
theorem readWord_effect {s : State} {i : Instr} {rd : BitVec 5} {v : W64} (h : readWord s.begun i = some (rd, v)) :
    XAsksNothing s i ∧ slotEffect i (s.begun.ctx .x) s.begun.acc = s.begun.acc.putX (s.begun.ctx .x) rd v 1 := by
  unfold readWord at h
  split at h
  case h_7 => cases h
  all_goals
    simp only [Option.some.injEq, Prod.mk.injEq] at h
    obtain ⟨rfl, rfl⟩ := h
    refine ⟨⟨rfl, ⟨rfl, fun _ => rfl, nofun, rfl, rfl, rfl, rfl, rfl⟩, nofun, rfl⟩, ?_⟩
  case h_1 o =>
    refine congrArg (fun n => s.begun.acc.putX (s.begun.ctx .x) o.rd (BitVec.ofNat 64 (n * 2 ^ 48
      + s.begun.self.resv.get 0 o.q.toNat * 2 ^ 32 + (s.begun.self.elems.get [] o.q.toNat).length * 2 ^ 16
      + s.begun.roomIn o.q.toNat (pushTarget s.begun.cur o.q.toNat) s.begun.self.launch)) 1) ?_
    simp only [beq_iff_eq]
    rfl
  all_goals rfl

/-- The word that a read gives is its register's after one cycle, and nothing else changes. -/
theorem exec_readWord {s : State} {i : Instr} {rd : BitVec 5} {v : W64} (hi : readWord s.begun i = some (rd, v))
    (h : s.issues .x i 2 = true) :
    exec i s = .next (s.leaves s.begun (s.begun.self.gets s.now rd v 1) (s.self.pc + 2) 0) := by
  obtain ⟨⟨h0, hq, hns, hrd⟩, heff⟩ := readWord_effect hi
  rw [exec_scalar h0 h hq hns hrd rd v 1 heff, begun_pc_self]

/-- EPOP waits for nothing where its queue holds an element, where it is told not to wait, and where none is to come (R322). -/
theorem probeEpop_go {b : State} {o : XPop}
    (h : b.self.elems.get [] o.q.toNat = [] → o.fn.getLsbD 0 = true ∨ b.self.resv.get 0 o.q.toNat = 0) :
    probeEpop o (b.ctx .x) = .go := by
  refine stallIf_eq_go.2 ?_
  show ((b.self.elems.get [] o.q.toNat).isEmpty && !o.fn.getLsbD 0 && b.self.resv.get 0 o.q.toNat != 0) = false
  cases hq : b.self.elems.get [] o.q.toNat with
  | nil => rcases h hq with h | h <;> simp [h]
  | cons => rfl

/-- EPOP of a queue that holds nothing and to which nothing is to come gives zero. -/
theorem exec_epop_empty {s : State} {o : XPop} (h : s.issues .x (.epop o) 2 = true)
    (hq : s.begun.self.elems.get [] o.q.toNat = [])
    (hw : o.fn.getLsbD 0 = true ∨ s.begun.self.resv.get 0 o.q.toNat = 0) :
    exec (.epop o) s = .next (s.leaves s.begun (s.begun.self.gets s.now o.rd 0 1) (s.self.pc + 2) 0) := by
  have heff : effEpop o (s.begun.ctx .x) s.begun.acc = s.begun.acc.putX (s.begun.ctx .x) o.rd 0 1 := by
    unfold effEpop
    dsimp only
    rw [show s.begun.acc.k.elems.get [] o.q.toNat = [] from hq]
  rw [exec_scalar rfl h ⟨rfl, fun _ => rfl, nofun, rfl, rfl, rfl, probeEpop_go fun _ => hw, rfl⟩ nofun rfl o.rd 0 1 heff,
    begun_pc_self]

/-- The core once the oldest element of one of its result queues has been taken: its clean lines are dropped (R255). -/
abbrev Core.popped (k : Core) (q : Nat) (vs : List W64) : Core := { k.dropClean with elems := k.elems.put q vs }

/-- EPOP of a queue that holds an element takes the oldest, as an acquire. -/
theorem exec_epop_cons {s : State} {o : XPop} {v : W64} {vs : List W64} (h : s.issues .x (.epop o) 2 = true)
    (hq : s.begun.self.elems.get [] o.q.toNat = v :: vs) :
    exec (.epop o) s = .next (s.leavesMark s.begun ((s.begun.self.popped o.q.toNat vs).gets s.now o.rd v 1)
      (s.self.pc + 2) 0) := by
  have htake : effEpop o (s.begun.ctx .x) s.begun.acc
      = ({ s.begun.acc with mark := true, k := s.begun.self.popped o.q.toNat vs } : Acc).putX (s.begun.ctx .x) o.rd v 1 := by
    unfold effEpop
    dsimp only
    rw [show s.begun.acc.k.elems.get [] o.q.toNat = v :: vs from hq]
    rfl
  have heff : slotEffect (.epop o) (s.begun.ctx .x)
      { s.begun.acc with s := meetReads s.cur (spReads (s.begun.ctx .x) (.epop o)) s.begun }
      = { s.begun.acc with k := (s.begun.self.popped o.q.toNat vs).gets s.now o.rd v 1, mark := true } := by
    rw [acc_noReads rfl]
    exact htake.trans (putX_plain _ _ _ _ _ rfl rfl)
  have hgo := probeEpop_go (b := s.begun) (o := o) fun hn => absurd (hn.symm.trans hq) (by simp)
  have hseed : ((s.begun.self.popped o.q.toNat vs).gets s.now o.rd v 1).seeded s.begun.acc.rnd.seed
      = (s.begun.self.popped o.q.toNat vs).gets s.now o.rd v 1 := seeded_same (gets_seed ..)
  rw [exec_marks (r := s.begun.acc.rnd) h ⟨heff, gets_held .., gets_bad .., rfl⟩ rfl
    ⟨rfl, fun _ => rfl, nofun, nofun, rfl, rfl, hgo, rfl⟩ rfl, hseed]
  rfl

/-- Settles O30: each read's effect is the word of its table (`readWord_effect`), EPOP's the oldest element of its queue
(`exec_epop_cons`) or zero (`exec_epop_empty`). -/
theorem statusReads : Obligations.StatusReads := by
  intro s
  exact ⟨fun _ _ _ hi h => exec_readWord hi h, fun _ _ _ h hq => exec_epop_cons h hq, fun _ h hq hw => exec_epop_empty h hq hw⟩

end Sys2Proof.Machine
end

section
/-! PROOF. Point-to-point rows (R235 to R239): how a sent row arrives; RECV where the table of scratchpad lines is in its canonical form,
and what goes wrong where it is not. -/

namespace Sys2Proof.Machine

/-! Rows arrive (R237, R239). -/

section
variable {s : State} {c i : Nat} {p : SendPend} (hp : (s.core c).sends[i]? = some p)
include hp

/-- A sent row that is due, and that nothing comes before, is in its line, full. -/
theorem sendArrival_due (hdue : p.due ≤ s.now) (hzero : (s.core c).earlierZero p.seq true = false) (hfree : sendBlocked c p s = false)
    (hempty : s.emptiesFirst (coreCluster c) (p.lane * 16384 + p.off / 128) p.due = false) :
    let q := s.cluster (coreCluster c)
    let l := p.lane * 16384 + p.off / 128
    let t := (s.setCore c { s.core c with sends := removeAt (s.core c).sends i }).setCluster (coreCluster c)
      { q.setLine l p.row with spovr := if q.full.read l == 1 && q.spovr != 0xFFFF then q.spovr + 1 else q.spovr }
    sendArrival c i s = t.fillLines (coreCluster c) l 1 := by
  simp only [sendArrival, hp, hdue, hzero, hfree, hempty, decide_true, Bool.not_false, Bool.and_self, if_true]

theorem sendArrival_early (h : s.now < p.due) : sendArrival c i s = s := by
  simp only [sendArrival, hp, Nat.not_le.2 h, decide_false, Bool.false_and, Bool.false_eq_true, if_false]

end

/-- The line of a row that has arrived: it is full and in error no more, and one that was full before is counted (R237, R239). -/
theorem arrivedLine_eq (q : Cluster) (l : Nat) (row : Row) :
    ({ q.setLine l row with spovr := if q.full.read l == 1 && q.spovr != 0xFFFF then q.spovr + 1 else q.spovr } : Cluster).setFull
      l 1 true
      = { q with
          sp := q.sp.write l row
          badSp := q.badSp.filter (· != l)
          full := q.full.write l 1
          spovr := if q.full.read l = 1 ∧ q.spovr ≠ 0xFFFF then q.spovr + 1 else q.spovr } := by
  have hpast : (if q.full.read l == 1 && q.spovr != 0xFFFF then q.spovr + 1 else q.spovr)
      = if q.full.read l = 1 ∧ q.spovr ≠ 0xFFFF then q.spovr + 1 else q.spovr :=
    if_congr (by rw [Bool.and_eq_true, beq_iff_eq, bne_iff_ne]) rfl rfl
  rw [hpast]
  rfl

theorem rowsArriveClaim : RowsArriveClaim := by
  intro s c i p hp
  have hstep : exec (.sendArrival c i) s = .next (drain c (sendArrival c i s)) := rfl
  refine ⟨fun hdue hzero hfree hempty => ?_, fun h => by rw [hstep, sendArrival_early hp h]⟩
  rw [hstep, sendArrival_due hp hdue hzero hfree hempty, fillLines_eq, State.setCluster_same, State.setCluster_twice,
    arrivedLine_eq]

/-! RECV (R238), where the table of lines is in its canonical form. -/

/-- Where no load is picked, none takes its value. -/
theorem settleLoads_none {pick : LoadPend → Bool} {s : State} {k : Core} (h : ∀ l ∈ k.loads, pick l = false) :
    settleLoads pick s k = (s, k) := by
  refine foldl_keeps (p := fun a : State × Core => a = (s, k)) _ (fun a i ha => ?_) _ rfl
  have hno : ((k.loads.drop i).any fun l => l.val.isNone && pick l) = false :=
    List.any_eq_false.2 fun l hl => by simp [h l (List.mem_of_mem_drop hl)]
  simp only [hno, ha, Bool.false_eq_true, if_false]

section
variable {b : State} {o : XP2p} (hwf : (b.cluster (coreCluster b.cur)).sp.wf = true)
  (hloads : ∀ l ∈ b.self.loads, l.cls ≠ 0)
include hwf hloads

/-- What RECV makes of its bundle: its line is empty, and the row that it held is on its way. -/
theorem effRecv_of_wf :
    let a := recvAddr o (b.ctx .x)
    let t := meetReads b.cur [lineKey a] b
    effRecv o (b.ctx .x) { b.acc with s := t } = { b.acc with
      s := t.setCluster (coreCluster b.cur) ((t.cluster (coreCluster b.cur)).setFull (lineKey a) 1 false)
      k := b.self.awaits (.row false) (b.self.rowDest o.ta o.rowa) [b.spView b.cur a] 0 (b.now + 2)
      mark := true } := by
  intro a t
  have hsettle : settleLoads (fun l => l.cls == 0) t b.self = (t, b.self) :=
    settleLoads_none fun l hl => by simpa using hloads l hl
  have hline : ({ b.acc with s := t } : Acc).spView (b.ctx .x) a = b.spView b.cur a := by
    have hcl : (t.cluster (coreCluster b.cur)).spLine (lineKey (a / 128 * 128))
        = (b.cluster (coreCluster b.cur)).spLine (lineKey (a / 128 * 128)) := by
      rw [meetReads_cluster]
      exact meetSp_spLine hwf _ _
    exact congrArg (b.self.overLine (a / 128 * 128)) hcl
  have hrow : ∀ v : Row, rowOf v.toNat = v := fun v => by simp [rowOf]
  unfold effRecv takeLine Acc.settleLoads
  dsimp only
  rw [hline, show settleLoads (fun l => l.cls == 0) t b.acc.k = (t, b.self) from hsettle]
  dsimp only [Acc.putRow, Acc.put]
  rw [if_neg (by omega), hrow, State.setCluster_now, show t.now = b.now from meetReads_now ..]
  rfl

end

/-- What the issue of an operation comes to that takes a mark before its bundle and ends its restart region with it, where it draws no
random bits and writes no register at once. -/
theorem plainIssue_marked {s : State} {sl : Slot} {i : Instr} (h : s.issues sl i 2 = true) {t : State} {k : Core}
    (ha : slotEffect i (s.marked.ctx sl) { s.marked.acc with s := meetReads s.cur (spReads (s.marked.ctx sl) i) s.marked }
      = { s.marked.acc with s := t, k, mark := true })
    (hr : k.regs = s.marked.self.regs) (hb : k.bad = s.marked.self.bad) (hn : t.now = s.now) (hz : zeroStore i = false) :
    plainIssue (implicitMark s.cur s.tried) s.marked sl i
      = takeMark s.cur (s.self.pc + 2) (t.setCore s.cur (k.retired s.now (s.self.pc + 2) 0)) := by
  obtain ⟨-, -, -, -, hheld, hbad, -⟩ := issues_parts h
  have hcur : (implicitMark s.cur s.tried).cur = s.cur := (marked_from s).cur
  have hseed : ({ k with regs := { k.regs with seed := s.marked.self.regs.seed } } : Core) = k := by
    rw [seed_same _ _ (congrArg Regs.seed hr).symm]
  unfold plainIssue
  rw [hcur, ha, hz]
  dsimp only
  rw [retire_plain _ _ _ _ _ rfl ((congrArg Regs.held (hr.trans (marked_regs s))).trans hheld) (hb.trans ((marked_bad s).trans hbad))]
  dsimp only [State.acc]
  rw [hn, marked_pc, hseed]
  rfl

/-- A line that is ready, and that no change of the core's own is still to reach, makes RECV wait for nothing (R238). -/
theorem probeRecv_go {b : State} {o : XP2p} (hoff : probeP2p o (b.ctx .x) = .go)
    (hready : linesReady b (recvAddr o (b.ctx .x)) 1 = true)
    (hpend : (b.self.pending.all fun e => (e.fullBit (lineKey (recvAddr o (b.ctx .x)))).isNone) = true) :
    probeRecv o (b.ctx .x) = .go := by
  refine first_eq_go.2 fun p hp => ?_
  simp only [List.mem_cons, List.not_mem_nil, or_false] at hp
  rcases hp with rfl | rfl | rfl
  · exact hoff
  · exact stallIf_eq_go.2 (List.any_eq_false.2 fun e he => by simpa using List.all_eq_true.1 hpend e he)
  · exact probeLines_go .x hready

/-- RECV of a line that is ready takes the line, where the table of lines is in its canonical form. -/
theorem exec_recv_of_wf {s : State} {o : XP2p} (h : s.issues .x (.recv o) 2 = true) :
    let m := s.marked
    let a := recvAddr o (m.ctx .x)
    let t := meetReads s.cur [lineKey a] m
    (m.cluster (coreCluster s.cur)).sp.wf = true → p2pOff o (m.ctx .x) % 128 = 0 → p2pOff o (m.ctx .x) < 0x180000 →
    linesReady m a 1 = true → spError m [lineKey a] = false →
    (m.self.pending.all fun e => (e.fullBit (lineKey a)).isNone) = true →
    exec (.recv o) s = .next (s.leavesMark
      (t.setCluster (coreCluster s.cur) ((t.cluster (coreCluster s.cur)).setFull (lineKey a) 1 false))
      (m.self.awaits (.row false) (m.self.rowDest o.ta o.rowa) [m.spView s.cur a] 0 (s.now + 2)) (s.self.pc + 2) 0) := by
  intro m a t hwf halign htop hready herr hpend
  have hcur : m.cur = s.cur := (marked_from s).cur
  obtain ⟨-, -, -, -, -, -, -, -, -, -, hbusy, -⟩ := issues_parts h
  have hoff : probeP2p o (m.ctx .x) = .go := by
    refine trapIf_eq_go.2 ?_
    rw [halign, show decide (laneTop ≤ p2pOff o (m.ctx .x)) = false from decide_eq_false (Nat.not_le.2 htop)]
    rfl
  have hbegun : probeP2p o (s.begun.ctx .x) = .go := by
    refine Eq.trans ?_ hoff
    have hregs : p2pOff o (s.begun.ctx .x) = p2pOff o (m.ctx .x) :=
      congrArg (fun r : Regs => ((r.rd o.ra).toNat + o.imm.toNat) % 2 ^ 64) (marked_regs s).symm
    simp only [probeP2p, hregs]
  have hmark : (marksAlways (.recv o) || marksBefore (s.begun.ctx .x) (.recv o)) = true := by
    have hfree : s.begun.self.isBusy (rx s.begun.self.regs.rrb o.ra) = false :=
      Bool.eq_false_iff.2 (List.any_eq_false.1 hbusy _ (List.mem_append_left _ List.mem_cons_self))
    show (!s.begun.self.isBusy (rx s.begun.self.regs.rrb o.ra) && probeP2p o (s.begun.ctx .x) == .go) = true
    rw [hfree, hbegun]
    rfl
  have hloads : ∀ l ∈ m.self.loads, l.cls ≠ 0 := by
    simp only [linesReady, Bool.and_eq_true] at hready
    obtain ⟨⟨-, hnone⟩, -⟩ := hready
    exact fun l hl => by simpa using List.all_eq_true.1 hnone l hl
  have heff := effRecv_of_wf (b := m) (o := o) (by rw [hcur]; exact hwf) hloads
  rw [hcur] at heff
  rw [exec_marked rfl h hmark rfl rfl rfl rfl (probeRecv_go hoff hready hpend) (answerSp_go herr) nofun rfl rfl,
    plainIssue_marked h heff rfl rfl (by rw [State.setCluster_now, meetReads_now, marked_now]) rfl, marked_now]
  rfl

/-! The refutation. -/

/-- Core 0 about to issue, in a launch that is not strict; its cluster's table of scratchpad lines is out of order, with line 3 full
and in error. Writes keep the order (`Store.wf_write`), but the statement ranges over every state. -/
def disordered : State :=
  { State.reset with
    cores := [(0, { run := .placed, tiles := 128, tbank := 0 })]
    clusters := [(0, { sp := [(5, 1), (3, 1)], badSp := [3], full := [(3, 1)] })] }

/-- A RECV of line 3 of its core's own lane. -/
def recvThird : XP2p := { lane := 0, ta := 0, rowa := 0, ra := 0, imm := 0x180, step := 0 }

/-- The rows of the result that a step has put on its way last for core 0. -/
def lastResult (r : Host.Outcome State Fault Refusal) : Option (List Row) :=
  match r with
  | .next t => (t.core 0).land.getLast?.map (·.val)
  | _ => none

/-- The zero that is to replace line 3 is written before line 5, where it changes nothing: RECV takes the line's 1. -/
theorem recvThird_takes : lastResult (exec (.recv recvThird) disordered) = some [1] := by decide +kernel

theorem not_rowTransfersClaim : ¬ RowTransfersClaim := by
  intro h
  obtain ⟨-, hmoves⟩ := h disordered recvThird
  obtain ⟨-, hrecv, -⟩ := hmoves (by decide +kernel) (by decide +kernel)
  have hnext := congrArg lastResult (hrecv (by decide +kernel) (by decide +kernel))
  rw [recvThird_takes] at hnext
  revert hnext
  decide +kernel

/-- Refutes O37: its clause that RECV takes the line as its core sees it, which ranges over every state, fails where the table of lines
is out of its canonical order and the line is in error (`disordered`); in canonical order that clause holds (`exec_recv_of_wf`), and rows
arrive as the statement says (`rowsArriveClaim`). -/
theorem not_rowTransfers : ¬ Obligations.RowTransfers := fun ⟨htransfers, _⟩ => not_rowTransfersClaim htransfers

end Sys2Proof.Machine
end

section
/-! PROOF. Committed effects reach their place (R214, R219, R223, R290, R293): a store of plain bytes writes its own bytes of memory and
no other, where no granule of them is in error beyond correction. -/

namespace Sys2Proof.Machine

/-! A store of plain bytes. -/

/-- What a write finds in granules none of which is in error beyond correction changes no byte. -/
theorem meetWrite_of_alive {gs : List Nat} {s : State} (h : ∀ g ∈ gs, s.dead.contains g = false) :
    (s.meetWrite gs).mem = s.mem ∧ (s.meetWrite gs).dead = s.dead := by
  refine ite_keeps (p := fun t : State => t.mem = s.mem ∧ t.dead = s.dead) _ ⟨rfl, rfl⟩ ?_
  induction gs generalizing s with
  | nil => exact ⟨rfl, rfl⟩
  | cons g gs ih =>
    have hg : (meetGranule s g).mem = s.mem ∧ (meetGranule s g).dead = s.dead := by
      unfold meetGranule
      dsimp only
      rw [h g List.mem_cons_self, if_neg Bool.false_ne_true]
      split <;> exact ⟨rfl, rfl⟩
    obtain ⟨hm, hd⟩ := ih (s := meetGranule s g) fun x hx => by rw [hg.2]; exact h x (List.mem_cons_of_mem _ hx)
    exact ⟨hm.trans hg.1, hd.trans hg.2⟩

/-- A write of plain bytes of granules none of which is in error beyond correction writes those bytes. -/
theorem writeGranule_plain {src : Src} (hp : src.isPlain = true) {ws : List (Nat × Byte)} {s : State}
    (h : ∀ w ∈ ws, s.dead.contains (w.1 / 256) = false) :
    (writeGranule src s ws).mem = ws.foldl (fun m w => m.write w.1 w.2) s.mem ∧ (writeGranule src s ws).dead = s.dead := by
  have ht : ∀ es, touchedGranules src ws es = nubNat (ws.map fun w => w.1 / 256) := fun es => if_pos hp
  have halive : ∀ g ∈ nubNat (ws.map fun w => w.1 / 256), s.dead.contains g = false := fun g hg => by
    obtain ⟨w, hw, rfl⟩ := List.mem_map.1 (mem_nubNat.1 hg)
    exact h w hw
  obtain ⟨hm, hd⟩ := meetWrite_of_alive halive
  unfold writeGranule
  dsimp only
  rw [ht, if_pos hp]
  have hw : (ws.foldl (fun s w => s.setByte w.1 w.2) (s.meetWrite (nubNat (ws.map fun w => w.1 / 256)))).mem
        = ws.foldl (fun m w => m.write w.1 w.2) s.mem
      ∧ (ws.foldl (fun s w => s.setByte w.1 w.2) (s.meetWrite (nubNat (ws.map fun w => w.1 / 256)))).dead = s.dead := by
    rw [foldl_setByte_mem, foldl_setByte_dead, hm]
    exact ⟨rfl, hd⟩
  exact ite_keeps (p := fun t : State => t.mem = _ ∧ t.dead = s.dead) _
    (foldl_keeps (p := fun t : State => t.mem = _ ∧ t.dead = s.dead) (fun s g => countGranule s (g * 256))
      (fun _ _ ht => ht) _ hw) hw

/-- Bytes written elsewhere leave a byte as it was. -/
theorem read_writes_other {a : Nat} {ws : List (Nat × Byte)} (h : ∀ w ∈ ws, w.1 ≠ a) (m : Store 8) :
    (ws.foldl (fun m w => m.write w.1 w.2) m).read a = m.read a := by
  induction ws generalizing m with
  | nil => rfl
  | cons w ws ih =>
    rw [List.foldl_cons, ih (fun x hx => h x (List.mem_cons_of_mem _ hx)), Store.read_write_other (h w List.mem_cons_self).symm]

section
variable {src : Src} (hp : src.isPlain = true) {ws : List (Nat × Byte)} {s : State}
  (hd : ∀ w ∈ ws, s.dead.contains (w.1 / 256) = false)
include hp hd

/-- A byte that a store of plain bytes does not name is as before. -/
theorem read_deliverTo_other {a : Nat} (ha : ∀ w ∈ ws, w.1 ≠ a) : (s.deliverTo src ws).mem.read a = s.mem.read a := by
  refine (foldl_keeps (p := fun t : State => t.mem.read a = s.mem.read a ∧ t.dead = s.dead)
    (fun s g => writeGranule src s (ws.filter fun w => w.1 / 256 == g)) (fun t g ⟨hr, ht⟩ => ?_) _ ⟨rfl, rfl⟩).1
  have hsub : ∀ w ∈ ws.filter (fun w => w.1 / 256 == g), w ∈ ws := fun w hw => (List.mem_filter.1 hw).1
  obtain ⟨hm, hd'⟩ := writeGranule_plain hp (s := t) (ws := ws.filter fun w => w.1 / 256 == g)
    fun w hw => by rw [ht]; exact hd w (hsub w hw)
  rw [hm, read_writes_other (fun w hw => ha w (hsub w hw)), hr, hd', ht]
  exact ⟨rfl, rfl⟩

end

/-- A byte stored alone reads as stored. -/
theorem read_deliverTo_one {src : Src} (hp : src.isPlain = true) {a : Nat} {v : Byte} {s : State} (h : s.mem.wf = true)
    (hd : s.dead.contains (a / 256) = false) : (s.deliverTo src [(a, v)]).mem.read a = v := by
  have hone : s.deliverTo src [(a, v)] = writeGranule src s [(a, v)] := by
    simp [State.deliverTo, nubNat]
  rw [hone, (writeGranule_plain hp (by simpa using hd)).1]
  exact Store.read_write_same h a v

/-! Committed effects perform. -/

section
variable {s : State} {c i seq due : Nat} {e : Effect} (ho : (s.core c).outq[i]? = some ⟨seq, due, e⟩)
  (hm : (s.core c).mayPerform s.now i = true)
include ho hm

/-- A committed effect that may perform, and fills no line, does so. -/
theorem performAt_of_may (he : ∀ l n, e ≠ .spfill l n) :
    performAt c i s = performEff c (s.setCore c { s.core c with outq := removeAt (s.core c).outq i }) e := by
  have hmay : s.mayPerform c i = true := by
    unfold State.mayPerform
    rw [hm, ho]
    cases e
    case spfill => exact absurd rfl (he _ _)
    all_goals rfl
  unfold performAt
  dsimp only
  rw [if_pos hmay, ho]

end

theorem setSeeps_mem (src : Src) (sc c : Nat) (ls : List Nat) (s : State) :
    (ls.foldl (fun t l => t.setSeep src (l * 128) sc c) s).mem = s.mem :=
  foldl_keeps (p := fun t : State => t.mem = s.mem) (fun t l => t.setSeep src (l * 128) sc c) (fun _ _ h => h) ls rfl

/-- What a global store leaves of memory are the bytes delivered. -/
theorem performEff_store_mem (c : Nat) (s : State) (src : Src) (ws : List (Nat × Byte)) (cls sc : Nat) (rel : Bool) :
    (performEff c s (.store src ws cls sc rel)).mem = (s.deliverTo src ws).mem := by
  unfold performEff
  dsimp only
  split
  · exact setSeeps_mem ..
  · rfl

/-- The step of a committed effect on scratchpad. -/
theorem exec_storeReachesBank {s : State} {c i seq due : Nat} {e : Effect} (ho : (s.core c).outq[i]? = some ⟨seq, due, e⟩)
    (hm : (s.core c).mayPerform s.now i = true) (he : (∃ a bs, e = .sp a bs) ∨ ∃ l n, e = .spclr l n) :
    exec (.storeReachesBank c i) s
      = .next (drain c (performEff c (s.setCore c { s.core c with outq := removeAt (s.core c).outq i }) e)) := by
  have hstep : storeReachesBank c i s = performAt c i s := by
    rcases he with ⟨a, bs, rfl⟩ | ⟨l, n, rfl⟩ <;> rw [storeReachesBank, ho]
  have hfill : ∀ l n, e ≠ .spfill l n := by rcases he with ⟨a, bs, rfl⟩ | ⟨l, n, rfl⟩ <;> nofun
  exact congrArg (fun t => Host.Outcome.next (drain c t)) (hstep.trans (performAt_of_may ho hm hfill))

/-- The step of a committed global store. -/
theorem exec_storeReachesPoc {s : State} {c i seq due : Nat} {src : Src} {ws : List (Nat × Byte)} {cls sc : Nat} {rel : Bool}
    (ho : (s.core c).outq[i]? = some ⟨seq, due, .store src ws cls sc rel⟩) (hm : (s.core c).mayPerform s.now i = true) :
    exec (.storeReachesPointOfCoherence c i) s
      = .next (drain c (performEff c (s.setCore c { s.core c with outq := removeAt (s.core c).outq i })
          (.store src ws cls sc rel))) := by
  have hstep : storeReachesPoc c i s = performAt c i s := by rw [storeReachesPoc, ho]
  exact congrArg (fun t => Host.Outcome.next (drain c t)) (hstep.trans (performAt_of_may ho hm nofun))

/-- Settles O36: a committed effect that may perform does so by its step (`performAt_of_may`); a store of plain bytes delivers its own
bytes and no other (`read_deliverTo_other`, `read_deliverTo_one`), and what performs after it leaves memory (`drain_mem`). -/
theorem storesArrive : Obligations.StoresArrive := by
  rintro s c i ⟨seq, due, e⟩ ho hm
  refine ⟨?_, ?_, ?_, ?_⟩
  · rintro a bs rfl
    exact exec_storeReachesBank ho hm (.inl ⟨a, bs, rfl⟩)
  · rintro l n rfl
    exact exec_storeReachesBank ho hm (.inr ⟨l, n, rfl⟩)
  · rintro src ws cls sc rel rfl
    rw [exec_storeReachesPoc ho hm]
    unfold performEff
    simp only [Bool.and_eq_true, bne_iff_ne]
  · rintro src ws cls sc rel rfl hp hwf halive
    have hd : ∀ w ∈ ws, s.dead.contains (w.1 / 256) = false := fun w hw => by
      simpa using List.all_eq_true.1 halive w hw
    refine ⟨_, exec_storeReachesPoc ho hm, fun a ha => ?_, ?_⟩
    · have ha : ∀ w ∈ ws, w.1 ≠ a := fun w hw => by simpa using List.all_eq_true.1 ha w hw
      rw [drain_mem, performEff_store_mem]
      exact read_deliverTo_other (s := s.setCore c _) hp hd ha
    · rintro a v rfl
      rw [drain_mem, performEff_store_mem]
      exact read_deliverTo_one hp hwf (hd _ List.mem_cons_self)

end Sys2Proof.Machine
end

section
/-! PROOF. BARC and BARG (R231, R232, R255), and how a barrier releases (R232 to R234, R419). -/

namespace Sys2Proof.Machine

/-! The instructions (R231, R232). -/

/-- The plain bundle of a barrier, once nothing else makes it wait, comes to its barrier on the state that its mark leaves (R454). -/
theorem tryIssue_barrier {s : State} {sl : Slot} {i : Instr} (h : s.issues sl i 2 = true)
    (hm : marksBefore (s.begun.ctx sl) i = true)
    (hd : downBefore (implicitMark s.cur s.tried).self i = (implicitMark s.cur s.tried).self)
    (hwl : ∀ x t, walksBefore x i t = t) (hst : (slotProbe none (s.marked.ctx sl) i).isStall = false)
    (hfence : ∀ p, fenceTime p i = none) {g : Bool} (hb : barrierOf [plainIWord sl i] = some g) :
    tryIssue s.cur (plainHeader sl) [plainIWord sl i] false s.tried
      = barrierStep s.cur g (plainHeader sl) [plainIWord sl i] [plainIWord sl i] (s.tried.self.pc + 2) false
          (implicitMark s.cur s.tried) := by
  obtain ⟨-, -, -, -, -, hbad, -, -, hroom, htiles, hbusy, hgate⟩ := issues_parts h
  have hmark := marked_from s
  have hself := implicitMark_self s
  have hland : (implicitMark s.cur s.tried).landed s.cur = s.marked := rfl
  have hwk : wakeBanks s.cur [plainIWord sl i] s.tried = none :=
    wakeBanks_none _ (by rw [show s.tried.core s.cur = s.tried.self from rfl, ← begun_tileOn, ← begun_rrb]; exact htiles)
  have hx0 : ctxs s.cur (s.tried.landed s.cur) (s.tried.self.pc + 2) [plainIWord sl i] = [(plainIWord sl i, s.begun.ctx sl)] := by
    rw [← begun_pc]; exact ctxs_one s.begun sl i
  have hx := marked_ctxs s sl i
  have hnext : s.tried.self.pc + 1 + BitVec.ofNat 13 (presCount (plainHeader sl).pres) = s.tried.self.pc + 2 := by
    rw [presCount_header, BitVec.add_assoc]; rfl
  have hrb : regsBusy (implicitMark s.cur s.tried).self [plainIWord sl i] = false := by
    have hib : (implicitMark s.cur s.tried).self.isBusy = s.tried.self.isBusy :=
      funext fun r => by simp only [Core.isBusy, hmark.busy]
    rw [begun_rrb, ← hmark.regs, tried_landed, landScales_isBusy, ← hib] at hbusy
    simpa [regsBusy] using hbusy
  have hneed : ¬ 64 < (implicitMark s.cur s.tried).self.gated.length + bundleNeed (plainHeader sl) [plainIWord sl i] := by
    have : gateNeed i ≤ 64 := Nat.le_trans (Nat.le_add_left ..) hgate
    rw [hmark.gated]
    simpa [bundleNeed, Header.plain] using this
  have hft : ¬ 4095 < (implicitMark s.cur s.tried).self.pc.toNat % 4096 + 1 + presCount (plainHeader sl).pres := by
    rw [begun_pc, ← hmark.pc] at hroom
    rw [presCount_header]
    omega
  have hprep : prepare s.cur [plainIWord sl i] [plainIWord sl i] (s.tried.self.pc + 2) s.tried = implicitMark s.cur s.tried := by
    simp only [prepare, hx0, List.any_cons, List.any_nil, Bool.or_false, hm, Bool.or_true, if_true, List.foldl_cons, List.foldl_nil,
      hself, hd, implicitMark_setSelf, hrb, Bool.false_eq_true, if_false, hland, hx, hwl]
  have hpb : predsBusy (s.tried.core s.cur) [plainIWord sl i] = false := by simp [predsBusy, Ctl.plain]
  have hen : [plainIWord sl i].filter (fun w => w.enabled (s.tried.core s.cur)) = [plainIWord sl i] := rfl
  have hhold : fenceHold s.cur [plainIWord sl i] (implicitMark s.cur s.tried) = none := by
    simp only [fenceHold, List.findSome?, hfence]
  unfold tryIssue
  rw [hwk]
  simp only [hpb, Bool.false_eq_true, if_false, hen, show (s.tried.core s.cur).pc = s.tried.self.pc from rfl, hnext, hprep, hself,
    hland, hx, List.map_cons, List.map_nil, wordProbe_plain (b := s.marked) (by rw [marked_bad]; exact hbad), hst, hrb, hneed,
    List.any_cons, List.any_nil, Bool.or_false, Bool.or_self, decide_false, hhold, hft, Bool.and_false, hb]

/-- A restart mark leaves the release of its core's barrier standing. -/
theorem takeMark_pass (c : Nat) (pc : BitVec 13) (s : State) : ((takeMark c pc s).core c).pass = (s.core c).pass := by
  have h := agrees_field (f := Core.pass) (fun _ => rfl) ((keeps_commit c s).core c)
  rw [State.setCore_same] at h
  unfold takeMark
  dsimp only
  rw [State.setCore_same]
  exact h

theorem implicitMark_pass (s : State) : (implicitMark s.cur s.tried).self.pass = s.self.pass := by
  rw [← implicitMark_self]
  have ht : s.tried.self.pass = s.self.pass := by rw [tried_self]
  unfold implicitMark
  split
  · exact ht
  · exact (takeMark_pass ..).trans ht

/-- How a core arrives, at either barrier. -/
theorem arrive_eq (c : Nat) (g : Bool) (s : State) :
    arrive c g s = s.setCore c { s.core c with
      arrC := (s.core c).arrC || !g, arrG := (s.core c).arrG || g, arrAt := s.now } := by
  cases g <;> simp [arrive]

/-- The barrier's operation: the cluster's, or the launch's (R231). -/
abbrev barrierOp (g : Bool) (o : XSem) : Instr := if g then .barg o else .barc o

section
variable {s : State} {o : XSem} {g : Bool} (h : s.issues .x (barrierOp g o) 2 = true)
  (hd : (implicitMark s.cur s.tried).self.queueDown (implicitMark s.cur s.tried).self.seq (fun _ => true)
    = (implicitMark s.cur s.tried).self)
include h hd

/-- A barrier's bundle goes to its barrier, on the state that its mark leaves. -/
theorem exec_barrier : exec (barrierOp g o) s = .next (drain s.cur
    (barrierStep s.cur g (plainHeader .x) [plainIWord .x (barrierOp g o)] [plainIWord .x (barrierOp g o)]
      (s.tried.self.pc + 2) false (implicitMark s.cur s.tried))) := by
  have h0 : (barrierOp g o).slots.head? = some .x := by cases g <;> rfl
  have htry := tryIssue_barrier h (by cases g <;> rfl) (by cases g <;> exact hd)
    (by cases g <;> exact fun _ _ => rfl) (by cases g <;> rfl) (by cases g <;> exact fun _ => rfl) (g := g) (by cases g <;> rfl)
  rw [exec_slot h0, issueOne_fetched h (by omega), htry]

/-- A core that nothing keeps from its barrier arrives. -/
theorem exec_barrier_arrives (hp : s.self.pass = none) (hs : (implicitMark s.cur s.tried).self.settled = true)
    (hpush : g = true → (implicitMark s.cur s.tried).pushedBy s.cur = false) :
    exec (barrierOp g o) s = .next (drain s.cur (arrive s.cur g (implicitMark s.cur s.tried))) := by
  have hgo : (!g || !(implicitMark s.cur s.tried).pushedBy s.cur) = true := by
    cases g
    · rfl
    · rw [hpush rfl]; rfl
  rw [exec_barrier h hd, barrierStep]
  simp only [implicitMark_self, implicitMark_pass, hp, hs, hgo, headerWait, show ((plainHeader .x).wen == 1) = false from rfl,
    Bool.false_eq_true, if_false, List.isEmpty_nil, Bool.not_true, Bool.false_and, Bool.and_self, if_true]

/-- A core whose barrier has released, its time being over, issues its bundle. -/
theorem exec_barrier_passes {t : Nat} (hp : s.self.pass = some t) (ht : t ≤ s.now) :
    exec (barrierOp g o) s = .next (drain s.cur (plainIssue (implicitMark s.cur s.tried) s.marked .x (barrierOp g o))) := by
  have hm := marked_from s
  have hcur : (implicitMark s.cur s.tried).cur = s.cur := hm.cur
  obtain ⟨-, -, -, -, -, hbad, -⟩ := issues_parts h
  have hissue := issueNow_plain (m := implicitMark s.cur s.tried) (b := s.marked) (sl := .x) (i := barrierOp g o)
    (by rw [hcur]; rfl) (implicitMark_touched (tried_touched s)) ((marked_bad s).trans hbad) (by cases g <;> rfl) (by cases g <;> rfl)
    (by cases g <;> rfl) (by cases g <;> nofun)
  rw [hcur, show (implicitMark s.cur s.tried).self.pc = s.tried.self.pc from hm.pc] at hissue
  rw [exec_barrier h hd, ← hissue, barrierStep]
  simp only [implicitMark_self, implicitMark_pass, hp, show (implicitMark s.cur s.tried).now = s.now from hm.now, ht, if_true]

end

/-- What the issue of a barrier's bundle comes to: an acquire, its barrier over (R232, R255). -/
theorem plainIssue_barrier {s : State} {o : XSem} {g : Bool} (h : s.issues .x (barrierOp g o) 2 = true) :
    plainIssue (implicitMark s.cur s.tried) s.marked .x (barrierOp g o) = s.marked.setCore s.cur
      (({ s.marked.self.dropClean with pass := none, passed := none } : Core).retired s.now (s.self.pc + 2) 0) := by
  obtain ⟨-, -, -, -, hheld, hbad, -⟩ := issues_parts h
  have heff : ∀ x a, slotEffect (barrierOp g o) x a = { a with k := { a.k.dropClean with pass := none, passed := none } } := by
    cases g <;> exact fun _ _ => rfl
  have hreads : ∀ x, spReads x (barrierOp g o) = [] := by cases g <;> exact fun _ => rfl
  have hat : isAtomic (barrierOp g o) = false := by cases g <;> rfl
  have hzero : zeroStore (barrierOp g o) = false := by cases g <;> rfl
  have hcur : (implicitMark s.cur s.tried).cur = s.cur := (marked_from s).cur
  unfold plainIssue
  rw [hcur, hreads, meetReads_nil, heff, hat, hzero]
  dsimp only
  rw [retire_plain _ _ _ _ _ rfl ((congrArg Regs.held (marked_regs s)).trans hheld) ((marked_bad s).trans hbad)]
  dsimp only [State.acc]
  rw [marked_pc, marked_now]
  rfl

theorem barrierInstructionsClaim : BarrierInstructionsClaim := by
  intro s o g i m w k h hd
  refine ⟨fun hp hs hpush => ?_, fun t hp ht => ?_⟩
  · refine (exec_barrier_arrives (g := g) h hd hp hs hpush).trans ?_
    rw [arrive_eq, implicitMark_self, show (implicitMark s.cur s.tried).now = s.now from (marked_from s).now]
  · refine (exec_barrier_passes (g := g) h hd hp ht).trans ?_
    rw [plainIssue_barrier h]
    rfl

/-! The end of snapshots (R252, R419). -/

/-- Two states at one tick, of the same packages, whose launches have the same descriptors. -/
structure SameDescs (s t : State) : Prop where
  desc : ∀ l, (t.launch l).desc = (s.launch l).desc
  pkgs : t.pkgs = s.pkgs
  now : t.now = s.now

theorem SameDescs.refl (s : State) : SameDescs s s := ⟨fun _ => rfl, rfl, rfl⟩

theorem SameDescs.trans {s t u : State} (h : SameDescs s t) (h' : SameDescs t u) : SameDescs s u :=
  ⟨fun l => (h'.desc l).trans (h.desc l), h'.pkgs.trans h.pkgs, h'.now.trans h.now⟩

theorem sameDescs_foldl {α : Type} (f : State → α → State) (h : ∀ t a, SameDescs t (f t a)) (l : List α) (s : State) :
    SameDescs s (l.foldl f s) :=
  foldl_keeps (p := SameDescs s) f (fun t a ht => ht.trans (h t a)) l (.refl s)

theorem sameDescs_queueWalk (s : State) (f space root : Nat) (va : W64) (who : WalkFor) :
    SameDescs s (s.queueWalk f space root va who) := ⟨fun _ => rfl, rfl, rfl⟩

theorem sameDescs_rewalk (s : State) (space : Nat) : SameDescs s (s.rewalk space) :=
  sameDescs_foldl _ (fun t _ => ite_keeps (p := SameDescs t) _
    (sameDescs_foldl _ (fun u _ => ite_keeps (p := SameDescs u) _ (sameDescs_queueWalk ..) (.refl u)) _ t) (.refl t)) _ s

theorem sameDescs_endSnaps (s : State) (l : Nat) : SameDescs s (s.endSnaps l) := by
  have hset : SameDescs s (s.setLaunch l { s.launch l with snaps := [] }) := by
    refine ⟨fun m => ?_, rfl, rfl⟩
    by_cases hm : m = l
    · subst hm; rw [State.setLaunch_same]
    · rw [State.setLaunch_other _ _ _ _ hm]
  exact ite_keeps (p := SameDescs s) _ (.refl s) (hset.trans (sameDescs_rewalk ..))

theorem SameDescs.launchLinks {s t : State} (h : SameDescs s t) (l : Nat) : t.launchLinks l = s.launchLinks l := by
  unfold State.launchLinks State.pkg
  rw [h.desc, h.pkgs]

/-! The release. -/

/-- The cores of a cluster pass its barrier at a tick that does not change on the way. -/
theorem release_cluster (cs : List Nat) (s : State) :
    cs.foldl (fun s c => s.setCore c ((s.core c).release false (s.now + 12))) s
      = cs.foldl (fun t c => t.setCore c ((t.core c).release false (s.now + 12))) s := by
  have key : ∀ t : State, t.now = s.now →
      cs.foldl (fun s c => s.setCore c ((s.core c).release false (s.now + 12))) t
        = cs.foldl (fun t c => t.setCore c ((t.core c).release false (s.now + 12))) t := by
    induction cs with
    | nil => exact fun _ _ => rfl
    | cons c cs ih =>
      intro t ht
      rw [List.foldl_cons, List.foldl_cons, ht]
      exact ih _ ht
  exact key s rfl

/-- A launch's barrier of which a core waits, that every core has reached and that no command of the pumphouse holds, comes after the
snapshots ordered for the launch. -/
theorem barrierRelease_launch {s : State} {l : Nat}
    (hw : ((s.parts l).flatMap s.placedCores).any (fun c => (s.core c).arrG) = true)
    (ha : ((s.parts l).flatMap s.placedCores).all (s.arrived true) = true)
    (hh : s.engineHolds (fun p => p.host && (s.parts l).contains p.lid
      && decide (p.at' < s.lastArrival ((s.parts l).flatMap s.placedCores))) = false) :
    barrierRelease true l s = afterSnaps (s.parts l) (fun s' => ((s.parts l).flatMap s.placedCores).foldl
      (fun t c => t.setCore c ((t.core c).release true (s'.now + 960 + 480 * s'.launchLinks l))) s') s := by
  simp only [barrierRelease, if_true, hw, ha, hh, Bool.not_false, Bool.and_self]

theorem clusterBarrierReleasesClaim : ClusterBarrierReleasesClaim := by
  intro s n
  have hstep : ∀ g n, exec (.barrierRelease g n) s = .next (barrierRelease g n s) := fun _ _ => rfl
  refine ⟨fun hw ha => ?_, fun ha => ?_, fun l ha => ?_, fun l => ?_⟩
  · have hr : barrierRelease false n s = (clusterCores n).foldl
        (fun s c => s.setCore c ((s.core c).release false (s.now + 12)))
        (s.setCluster n { s.cluster n with barcs := (s.cluster n).barcs + 1 }) := by
      simp only [barrierRelease, Bool.false_eq_true, if_false, hw, ha, Bool.and_self, if_true]
    rw [hstep, hr, release_cluster]
    rfl
  · simp only [hstep, barrierRelease, Bool.false_eq_true, if_false, ha, Bool.and_false]
  · simp only [hstep, barrierRelease, if_true, ha, Bool.and_false, Bool.false_and, Bool.false_eq_true, if_false]
  · intro ps cs before hw ha
    refine ⟨fun hh => ?_, fun hh hsnap => ?_, fun hh hsnap => ?_⟩
    · have hh' : s.engineHolds (fun p => p.host && (s.parts l).contains p.lid
          && decide (p.at' < s.lastArrival ((s.parts l).flatMap s.placedCores))) = true := hh
      simp only [hstep, barrierRelease, if_true, hh', Bool.not_true, Bool.and_false, Bool.false_eq_true, if_false]
    · have hno : ¬ ps.all s.snapsDone = true := by
        obtain ⟨q, hq, hf⟩ := hsnap
        exact fun hall => by simp [List.all_eq_true.1 hall q hq] at hf
      rw [hstep, barrierRelease_launch hw ha hh]
      exact congrArg _ (if_neg hno)
    · have hends := sameDescs_foldl State.endSnaps sameDescs_endSnaps ps s
      rw [hstep, barrierRelease_launch hw ha hh, afterSnaps, if_pos (List.all_eq_true.2 hsnap), hends.now, hends.launchLinks]
      rfl

/-- Settles O32: a barrier's bundle comes to its barrier on the state that its mark leaves (`exec_barrier`), where its core arrives
(`exec_barrier_arrives`) or passes (`exec_barrier_passes`, `plainIssue_barrier`); a release comes after the snapshots ordered for its
launch, whose end changes neither tick nor distance (`sameDescs_endSnaps`). -/
theorem barriers : Obligations.Barriers := ⟨barrierInstructionsClaim, clusterBarrierReleasesClaim⟩

end Sys2Proof.Machine
end

section
/-! PROOF. Copy commands (R317 to R319, R330 to R334): how a command starts and ends, the addresses of a CPY's runs, a CPY of one run inside
the scratchpad. -/

namespace Sys2Proof.Machine

/-! A command that starts. -/

theorem removeAt_append {α : Type} (l : List α) (x : α) : removeAt (l ++ [x]) l.length = l := by
  induction l with
  | nil => rfl
  | cons y l ih => exact congrArg (y :: ·) ih

theorem getElem?_length {α : Type} (l : List α) : l[l.length]? = none := by simp

/-- A command without ORD does not wait for earlier ones. -/
theorem ordWaits_false {s : State} {cl : Nat} {p : Push} (h : lineOrd p.line = false) : ordWaits s cl p = false := by
  rw [ordWaits, h, Bool.false_and]

/-- The start of a command whose line keeps the limits that every line has (R317, R319) is judged by its kind. -/
theorem lineLimits_ok {s : State} {cl : Nat} {p : Push} (hfl : lineFl p.line < 8)
    (hsig : lineSig p.line = true → sclOk s p.lid (clusterDie cl) p.line = true) :
    ¬ (8 ≤ lineFl p.line || (lineSig p.line && !sclOk s p.lid (clusterDie cl) p.line)) = true := by
  cases hs : lineSig p.line
  · simpa using hfl
  · simpa [hsig hs] using hfl

section
variable {s : State} {cl : Nat} {p : Push} (hfl : lineFl p.line < 8)
  (hsig : lineSig p.line = true → sclOk s p.lid (clusterDie cl) p.line = true)
include hfl hsig

theorem copyStart_kind (hk : p.kind = 0 ∨ 5 ≤ p.kind) : copyStart s cl p = .error 0x02 := by
  unfold copyStart
  dsimp only
  rw [if_neg (lineLimits_ok hfl hsig)]
  split
  case h_5 => rfl
  all_goals omega

theorem copyStart_cpy (hk : p.kind = 1) :
    copyStart s cl p = if cpyOk p.line then .ok (.runs (cpyPlan p.line p.opnd.toNat)) else .error 0x03 := by
  unfold copyStart
  dsimp only
  rw [if_neg (lineLimits_ok hfl hsig), hk]
  rfl

theorem copyStart_cpyt (hk : p.kind = 2) :
    copyStart s cl p = if cpyOk p.line then .ok (.runs (cpyPlan p.line 0)) else .error 0x03 := by
  unfold copyStart
  dsimp only
  rw [if_neg (lineLimits_ok hfl hsig), hk]
  rfl

theorem copyStart_cpyf (hk : p.kind = 3) :
    copyStart s cl p = (cpyfPlan p.line p.opnd.toNat (descOf (s.fds p.lid) (lineNum p.line 16 1))
      ((descOf (s.fds p.lid) (lineNum p.line 16 1)).indexOf (clusterDie cl))).map .runs := by
  unfold copyStart
  dsimp only
  rw [if_neg (lineLimits_ok hfl hsig), hk]
  rfl

end

/-- A command that has come to its end. -/
theorem copyGo_ends {cl i : Nat} {r r' : Run} {s v : State} (h : copyWork cl r s = (.ends r', v)) :
    copyGo cl i r s = ended cl r'.push r'.status r'.count r'.zeroed (v.setEngq (copyQueue cl)
      { v.engq (copyQueue cl) with running := removeAt (v.engq (copyQueue cl)).running i }) := by
  simp only [copyGo, h]
  rfl

/-- A command that waits. -/
theorem copyGo_waits {cl i : Nat} {r r' : Run} {s v : State} (h : copyWork cl r s = (.waits r', v)) :
    copyGo cl i r s = v.setEngq (copyQueue cl)
      { v.engq (copyQueue cl) with running := replaceAt (v.engq (copyQueue cl)).running i r' } := by
  simp only [copyGo, h]

theorem copyWork_error {cl st : Nat} {r : Run} {s : State} (h : copyStart s cl r.push = .error st) :
    copyWork cl r s = (.ends { r with status := st }, s) := by
  simp only [copyWork, h]

theorem copyWork_runs {cl : Nat} {r : Run} {s : State} {plan : CopyPlan} (h : copyStart s cl r.push = .ok (.runs plan)) :
    copyWork cl r s = copyRuns (copyCtx s cl r.push) cl plan (plan.runs + 1) r s := by
  simp only [copyWork, h]

section
variable {s : State} {cl : Nat} {p : Push} {ps : List Push} (he : (s.engq (copyQueue cl)).entries = p :: ps)
include he

/-- The head of a copy engine's queue among the running commands. -/
theorem startHead_copy : startHead (copyQueue cl) p s = s.setEngq (copyQueue cl) { s.engq (copyQueue cl) with
    entries := ps, running := (s.engq (copyQueue cl)).running ++ [{ push := p }] } := by
  rw [startHead, he]
  rfl

variable (hroom : (s.engq (copyQueue cl)).running.length < 4) (hord : lineOrd p.line = false)
include hroom hord

/-- The head of a copy engine's queue, of a kind that the step starts, starts. -/
theorem copyCommand_starts {kinds : Nat → Bool} (hk : kinds p.kind = true)
    (hheld : p.kind = 3 → s.reshardHolds (clusterDie cl) (copyQueue cl) p = false) :
    copyCommand kinds cl (s.engq (copyQueue cl)).running.length s
      = copyGo cl (s.engq (copyQueue cl)).running.length { push := p } (startHead (copyQueue cl) p s) := by
  have hfree : (p.kind == 0x03 && s.reshardHolds (clusterDie cl) (copyQueue cl) p) = false := by
    by_cases h3 : p.kind = 3
    · rw [hheld h3, Bool.and_false]
    · simp [h3]
  have hhead : copyHead s cl kinds = some p := by
    simp only [copyHead, he, hk, hroom, ordWaits_false hord, hfree, decide_true, Bool.not_false, Bool.and_self, if_true]
  have hlen : ((startHead (copyQueue cl) p s).engq (copyQueue cl)).running.length - 1
      = (s.engq (copyQueue cl)).running.length := by
    rw [startHead_copy he, State.setEngq_same, List.length_append]
    rfl
  unfold copyCommand
  dsimp only
  rw [getElem?_length, hhead]
  dsimp only
  rw [hlen]

/-- A command that fails at its start ends there, having left its queue. -/
theorem copyCommand_fails {kinds : Nat → Bool} (hk : kinds p.kind = true)
    (hheld : p.kind = 3 → s.reshardHolds (clusterDie cl) (copyQueue cl) p = false) {st : Nat} (hst : copyStart s cl p = .error st) :
    copyCommand kinds cl (s.engq (copyQueue cl)).running.length s
      = ended cl p st 0 false (s.setEngq (copyQueue cl) { s.engq (copyQueue cl) with entries := ps }) := by
  have hwork := copyWork_error (r := { push := p }) (s := startHead (copyQueue cl) p s) (cl := cl) hst
  rw [copyCommand_starts he hroom hord hk hheld, copyGo_ends hwork, startHead_copy he, State.setEngq_same, State.setEngq_twice,
    removeAt_append]

end

/-! The addresses of runs (R331). -/

/-- A run's offset on one of its axes, its number given by the indices of its axes, the innermost first. -/
theorem runOffset (c st : Nat → Nat) (base i1 i2 i3 i4 i5 : Nat) (h1 : i1 < c 0) (h2 : i2 < c 1) (h3 : i3 < c 2) (h4 : i4 < c 3)
    (h5 : i5 < c 4) :
    ((List.range 5).foldl (fun (a : Nat × Nat) i => (a.1 + a.2 % c i * st i, a.2 / c i))
      (base, i1 + c 0 * (i2 + c 1 * (i3 + c 2 * (i4 + c 3 * i5))))).1
      = base + ((List.range 5).map fun j => [i1, i2, i3, i4, i5].getD j 0 * st j).sum := by
  have hmod : ∀ {i m n : Nat}, i < m → (i + m * n) % m = i := fun h => by rw [Nat.add_mul_mod_self_left, Nat.mod_eq_of_lt h]
  have hdiv : ∀ {i m n : Nat}, i < m → (i + m * n) / m = n := fun {i m n} h => by
    rw [Nat.add_mul_div_left _ _ (by omega), Nat.div_eq_of_lt h, Nat.zero_add]
  rw [show List.range 5 = [0, 1, 2, 3, 4] from rfl]
  simp only [List.foldl_cons, List.foldl_nil, hmod h1, hdiv h1, hmod h2, hdiv h2, hmod h3, hdiv h3, hmod h4, hdiv h4,
    Nat.mod_eq_of_lt h5, List.map_cons, List.map_nil, List.sum_cons, List.sum_nil, List.getD_cons_zero, List.getD_cons_succ]
  omega

/-- The number of a run is below that of the runs. -/
theorem runNumber_lt (c : Nat → Nat) (i1 i2 i3 i4 i5 : Nat) (h1 : i1 < c 0) (h2 : i2 < c 1) (h3 : i3 < c 2) (h4 : i4 < c 3)
    (h5 : i5 < c 4) : i1 + c 0 * (i2 + c 1 * (i3 + c 2 * (i4 + c 3 * i5))) < (List.range 5).foldl (fun p i => p * c i) 1 := by
  have step : ∀ {i m j n : Nat}, i < m → j < n → i + m * j < m * n := fun {i m j n} h h' => by
    have : m * (j + 1) ≤ m * n := Nat.mul_le_mul_left m h'
    rw [Nat.mul_succ] at this
    omega
  have h := step h1 (step h2 (step h3 (step h4 h5)))
  rw [show List.range 5 = [0, 1, 2, 3, 4] from rfl]
  simpa only [List.foldl_cons, List.foldl_nil, Nat.one_mul, Nat.mul_assoc] using h

theorem copyRunAddressesClaim : CopyRunAddressesClaim := by
  intro r op i1 i2 i3 i4 i5 c n i at' h1 h2 h3 h4 h5 hsrc hdst k
  refine ⟨runNumber_lt c i1 i2 i3 i4 i5 h1 h2 h3 h4 h5,
    ⟨[.mem (at' (lineNum r 16 8) 48) n], [[.mem (at' (lineNum r 24 8 + op) 88) n]]⟩, ?_, rfl, rfl⟩
  have hoff : ∀ base s1, ((List.range 5).foldl (fun (a : Nat × Nat) i =>
      (a.1 + a.2 % cpyCount r i * lineNum r (s1 + 8 * i) 8, a.2 / cpyCount r i)) (base, k)).1 % 2 ^ 64 = at' base s1 := fun base s1 =>
    congrArg (· % 2 ^ 64) (runOffset c (fun j => lineNum r (s1 + 8 * j) 8) base i1 i2 i3 i4 i5 h1 h2 h3 h4 h5)
  simp only [cpyPlan, hoff, hsrc, hdst, cpyPiece, Bool.false_eq_true, if_false]
  rfl

end Sys2Proof.Machine
end

section
/-! PROOF. CPY, CPYF and CPYT (R217, R330 to R334): a run inside the scratchpad, the commands at the head of a copy engine's queue, the
time buffer. -/

namespace Sys2Proof.Machine

/-! A command of one run inside the scratchpad (R217, R331). -/

/-- The address of a scratchpad byte as a CPY line names it. -/
theorem scratch_testBit {a : Nat} (ha : a < 2 ^ 24) : (2 ^ 63 + a).testBit 63 = true := by
  rw [Nat.testBit_two_pow_add_eq, Nat.testBit_lt_two_pow (Nat.lt_of_lt_of_le ha (by decide))]
  rfl

/-- The part of scratchpad that such an address names (R330). -/
theorem cpyPiece_scratch {a n : Nat} (ha : a < 2 ^ 24) (hn : a % 2 ^ 21 + n ≤ 0x180000) :
    cpyPiece true (2 ^ 63 + a) n = .ok [.sp a n] := by
  have hmod : (2 ^ 63 + a) % 2 ^ 63 = a := by rw [Nat.add_mod_left]; omega
  have hok : (decide (a < 2 ^ 24) && (2 ^ 63 + a).testBit 63 && decide (a % 2 ^ 21 + n ≤ laneTop)) = true := by
    rw [scratch_testBit ha, decide_eq_true ha, decide_eq_true (show a % 2 ^ 21 + n ≤ laneTop from hn)]
    rfl
  simp only [cpyPiece, if_true, hmod, hok]

/-- An address with its bit of scratchpad set, within its limits, and what its operand adds to it (R330, R331). -/
theorem scratch_sum {d op b : Nat} (hd : d < 2 ^ 64) (hbit : d.testBit 63 = true) (hsum : d % 2 ^ 63 + op = b) (hb : b < 2 ^ 24) :
    (d + op) % 2 ^ 64 = 2 ^ 63 + b := by
  have hge : 2 ^ 63 ≤ d := Nat.ge_two_pow_of_testBit hbit
  omega

/-- What `oneRun` says of a line, part by part. -/
structure OneRun (r : Row) (op a b n : Nat) : Prop where
  src : lineNum r 16 8 = 2 ^ 63 + a
  dst : lineNum r 24 8 % 2 ^ 63 + op = b
  bit : (lineNum r 24 8).testBit 63 = true
  size : lineNum r 32 4 = n
  limits : cpyAddrOk (lineNum r 24 8) = true
  srcLt : a < 2 ^ 24
  dstLt : b < 2 ^ 24
  pos : 1 ≤ n
  most : n ≤ 2 ^ 20
  srcEnd : a % 2 ^ 21 + n ≤ 0x180000
  dstEnd : b % 2 ^ 21 + n ≤ 0x180000
  counts : ∀ i < 5, cpyCount r i = 1
  rest : lineNum r 46 2 = 0

theorem oneRun_parts {p : Push} {op a b n : Nat} (h : oneRun p op a b n = true) : OneRun p.line op a b n := by
  simp only [oneRun, Bool.and_eq_true, beq_iff_eq, decide_eq_true_eq, List.all_eq_true, List.mem_range] at h
  obtain ⟨⟨⟨⟨⟨⟨⟨⟨⟨⟨⟨⟨h1, h2⟩, h3⟩, h4⟩, h5⟩, h6⟩, h7⟩, h8⟩, h9⟩, h10⟩, h11⟩, h12⟩, h13⟩ := h
  exact ⟨h1, h2, h3, h4, h5, h6, h7, h8, h9, h10, h11, h12, h13⟩

section
variable {r : Row} {op a b n : Nat} (h : OneRun r op a b n)
include h

theorem OneRun.ok : cpyOk r = true := by
  have hsrc : cpyAddrOk (2 ^ 63 + a) = true := by
    have ha := h.srcLt
    rw [cpyAddrOk, scratch_testBit ha, if_pos rfl, beq_iff_eq]
    omega
  have hcounts : (List.range 5).all (fun i => 1 ≤ cpyCount r i) = true :=
    List.all_eq_true.2 fun i hi => by rw [h.counts i (List.mem_range.1 hi)]; rfl
  simp only [cpyOk, h.src, hsrc, h.limits, h.size, h.pos, h.most, hcounts, h.rest, decide_true, beq_self_eq_true, Bool.and_self]

theorem OneRun.runs : (cpyPlan r op).runs = 1 := by
  simp only [cpyPlan, show List.range 5 = [0, 1, 2, 3, 4] from rfl, List.foldl_cons, List.foldl_nil, h.counts 0 (by decide),
    h.counts 1 (by decide), h.counts 2 (by decide), h.counts 3 (by decide), h.counts 4 (by decide)]

theorem OneRun.plan : (cpyPlan r op).plan 0 = .ok ⟨[.sp a n], [[.sp b n]]⟩ := by
  have hoff : ∀ base s1, ((List.range 5).foldl (fun (a : Nat × Nat) i =>
      (a.1 + a.2 % cpyCount r i * lineNum r (s1 + 8 * i) 8, a.2 / cpyCount r i)) (base, 0)).1 = base := fun base s1 => by
    simp [show List.range 5 = [0, 1, 2, 3, 4] from rfl]
  have hsrc : (2 ^ 63 + a) % 2 ^ 64 = 2 ^ 63 + a := by have := h.srcLt; omega
  have hdst := scratch_sum (show lineNum r 24 8 < 2 ^ 64 from BitVec.isLt _) h.bit h.dst h.dstLt
  simp only [cpyPlan, hoff, h.src, h.bit, h.size, hsrc, hdst, scratch_testBit h.srcLt, cpyPiece_scratch h.srcLt h.srcEnd,
    cpyPiece_scratch h.dstLt h.dstEnd]

end

/-- Bytes moved inside a cluster's scratchpad, of which no line is in error: all are read, then written, and the lines are set full
(R217, R331). -/
theorem doRun_scratch (x : EngCtx) (cl : Nat) (plan : CopyPlan) (hplan : plan.runs = 1) (a b n : Nat) {s : State}
    (hbad : (s.cluster cl).badSp = []) :
    doRun x cl plan 0 ⟨[.sp a n], [[.sp b n]]⟩ s = (false, ranOne cl a b n s) := by
  have hlines : lastLines plan 0 (RunPlan.lines ⟨[.sp a n], [[.sp b n]]⟩) = metLines b n := by
    simp [lastLines, hplan, RunPlan.lines, pieceLines, metLines]
  have hmeet : ∀ ls, x.meetLines cl ls s = (false, s) := fun ls => by simp [EngCtx.meetLines, hbad]
  have hbyte : ∀ i, (s.cluster cl).spByte i = ((s.cluster cl).sp.read (lineKey i)).extractLsb' (8 * (i % 128)) 8 := fun i => by
    simp [Cluster.spByte, Cluster.spLine, hbad]
  have htake : ∀ l : List Byte, l.length = n → l.take n = l := fun l hl => List.take_of_length_le (by omega)
  simp only [doRun, readPieces, hmeet, hbyte, List.append_nil, Bool.or_false, List.foldl_cons, List.foldl_nil, writePieces, hlines]
  rw [htake _ (by simp)]
  unfold ranOne filledBy State.fillSet
  simp only [List.isEmpty_iff]
  rfl

/-- The cluster of the bytes moved is written. -/
theorem ranOne_setSelf (cl a b n : Nat) (s : State) :
    (ranOne cl a b n s).setCluster cl ((ranOne cl a b n s).cluster cl) = ranOne cl a b n s := by
  have hwoken : ∀ (t : State) (k : Cluster), (readersWoken cl (t.setCluster cl k)).setCluster cl
      ((readersWoken cl (t.setCluster cl k)).cluster cl) = readersWoken cl (t.setCluster cl k) := fun t k => by
    have hk : (readersWoken cl (t.setCluster cl k)).cluster cl = k := State.setCluster_same ..
    rw [hk]
    show ({ (t.setCluster cl k).setCluster cl k with agenda := (readersWoken cl (t.setCluster cl k)).agenda } : State) = _
    rw [State.setCluster_twice]
    rfl
  unfold ranOne filledBy
  dsimp only
  split
  · rw [State.setCluster_same, State.setCluster_twice]
  · exact hwoken ..

/-- A run that touched no page leaves the engine's translations as they are. -/
theorem consume_nil {x : EngCtx} {cl : Nat} (hx : x.who = .copy cl) {s : State} (hs : s.setCluster cl (s.cluster cl) = s) :
    x.consume [] s = s := by
  have hgot : ∀ sp got, dropGot sp [] got = got := fun sp got => by simp [dropGot]
  have hdone : x.done [] s = s := by
    simp only [EngCtx.done, hx, hgot]
    exact hs
  simp only [EngCtx.consume, hdone, hx, List.any_nil, Bool.not_false, List.filter_true]
  rw [show ({ s.cluster cl with pins := (s.cluster cl).pins } : Cluster) = s.cluster cl from rfl, hs, ite_self]

/-- A command of one run inside the scratchpad runs to its end. -/
theorem copyRuns_scratch {cl : Nat} {p : Push} {x : EngCtx} {plan : CopyPlan} {a b n : Nat} {s : State} (hx : x.who = .copy cl)
    (hruns : plan.runs = 1) (hplan : plan.plan 0 = .ok ⟨[.sp a n], [[.sp b n]]⟩) (hw : lineWaitf p.line = false)
    (hf : fillable cl (metLines b n) s) :
    copyRuns x cl plan (plan.runs + 1) { push := p } s = (.ends { push := p, prog := 1, count := 1 }, ranOne cl a b n s) := by
  obtain ⟨hbad, hempty⟩ := hf
  have hlines : lastLines plan 0 (RunPlan.lines ⟨[.sp a n], [[.sp b n]]⟩) = metLines b n := by
    simp [lastLines, hruns, RunPlan.lines, pieceLines, metLines]
  have hwaits : (waitsLine cl p ⟨[.sp a n], [[.sp b n]]⟩ s || fillWaits cl (metLines b n) s) = false := by
    rw [waitsLine, hw, fillWaits]
    simpa using hempty
  have hpages : RunPlan.pages ⟨[.sp a n], [[.sp b n]]⟩ = [] := rfl
  have hscout : x.scoutPages s plan 0 p.scout [] = [] := by simp [EngCtx.scoutPages, hruns]
  rw [hruns]
  simp only [copyRuns, hruns, hplan, hpages, EngCtx.prepare, hscout, EngCtx.scout, hlines, hwaits,
    doRun_scratch x cl plan hruns a b n hbad, List.map_nil, consume_nil hx (ranOne_setSelf cl a b n s)]
  rfl

theorem ranOne_setEngq (cl a b n t : Nat) (q : EngQueue) (s : State) :
    ranOne cl a b n (s.setEngq t q) = (ranOne cl a b n s).setEngq t q := by
  unfold ranOne filledBy
  dsimp only
  split <;> rfl

/-- The last of a copy engine's running commands, of one run inside the scratchpad, moves its bytes and ends. -/
theorem copyGo_scratch {cl : Nat} {p : Push} {op a b n : Nat} {s : State} {q : EngQueue}
    (hstart : copyStart (s.setEngq (copyQueue cl) { q with running := q.running ++ [{ push := p }] }) cl p
      = if cpyOk p.line then .ok (.runs (cpyPlan p.line op)) else .error 0x03)
    (hw : lineWaitf p.line = false) (h : OneRun p.line op a b n) (hf : fillable cl (metLines b n) s) :
    copyGo cl q.running.length { push := p } (s.setEngq (copyQueue cl) { q with running := q.running ++ [{ push := p }] })
      = ended cl p 0x01 1 false (ranOne cl a b n (s.setEngq (copyQueue cl) q)) := by
  rw [h.ok, if_pos rfl] at hstart
  have hwork := (copyWork_runs (r := { push := p }) hstart).trans (copyRuns_scratch rfl h.runs h.plan hw hf)
  rw [copyGo_ends hwork, ranOne_setEngq, State.setEngq_same, State.setEngq_twice, removeAt_append, ranOne_setEngq]

/-! Commands at the head of a copy engine's queue (R332, R334). -/

theorem copyCommandsClaim : CopyCommandsClaim := by
  intro s cl p ps t q m taken f he hroom hord hfl hsig
  have hkind : ∀ k, (k == 0x03) = false → (k == 0x04) = false → (k == 0x02) = false →
      (k != 0x03 && k != 0x04 && (decide (m < m) || k != 0x02)) = true := fun k h3 h4 h2 => by
    simp only [bne, h3, h4, h2, Bool.not_false, Bool.or_true, Bool.and_self]
  have hcpy : exec (.cpyCommand cl m) s
      = .next (copyCommand (fun k => k != 0x03 && k != 0x04 && (decide (m < m) || k != 0x02)) cl m s) := rfl
  have hcpyf : exec (.cpyfCommand cl m) s = .next (copyCommand (· == 0x03) cl m s) := rfl
  refine ⟨fun hk => ?_, fun hk hbad => ?_, fun a b n hk hw hone hf => ?_, fun hk hheld => ?_⟩
  · have hks : ∀ j, 1 ≤ j → j ≤ 4 → (p.kind == j) = false := fun j h1 h4 => by rw [beq_eq_false_iff_ne]; omega
    rw [hcpy, copyCommand_fails he hroom hord (hkind _ (hks 3 (by omega) (by omega)) (hks 4 (by omega) (by omega))
      (hks 2 (by omega) (by omega))) (by omega) (copyStart_kind hfl hsig hk)]
  · rw [hcpy, copyCommand_fails he hroom hord (by rw [hk]; exact hkind 1 rfl rfl rfl) (by omega)
      ((copyStart_cpy hfl hsig hk).trans (by rw [hbad]; rfl))]
  · rw [hcpy, copyCommand_starts he hroom hord (by rw [hk]; exact hkind 1 rfl rfl rfl) (by omega), startHead_copy he]
    exact congrArg _ (copyGo_scratch (s := s) (q := { q with entries := ps }) (copyStart_cpy hfl hsig hk) hw (oneRun_parts hone) hf)
  · intro d u
    have hk3 : (p.kind == 0x03) = true := by rw [hk]; rfl
    have hstart := copyStart_cpyf (s := s) hfl hsig hk
    refine ⟨fun st hst => ?_, fun plan hplan => ?_⟩
    · rw [hcpyf, copyCommand_fails he hroom hord hk3 (fun _ => hheld) (hstart.trans (by rw [hst]; rfl))]
    · have hwork : copyWork cl { push := p } u = copyRuns (copyCtx u cl p) cl plan (plan.runs + 1) { push := p } u :=
        copyWork_runs (r := { push := p }) (hstart.trans (by rw [hplan]; rfl))
      have hgo : exec (.cpyfCommand cl m) s = .next (copyGo cl m { push := p } u) := by
        rw [hcpyf, copyCommand_starts he hroom hord hk3 fun _ => hheld]
      exact ⟨fun r v hr => by rw [hgo, copyGo_ends (hwork.trans hr)], fun r v hr => by rw [hgo, copyGo_waits (hwork.trans hr)]⟩

/-! The time buffer (R333). -/

/-- A command put into a time buffer in order: after every command of its time or an earlier one, before every later one. -/
theorem timedPut_eq (x : Timed) {ts : List Timed} (h : (ts.map fun y => y.time.toNat).Pairwise (· ≤ ·)) :
    timedPut x ts = ts.filter (fun y => y.time.toNat ≤ x.time.toNat) ++ [x]
      ++ ts.filter (fun y => x.time.toNat < y.time.toNat) := by
  induction ts with
  | nil => rfl
  | cons y ys ih =>
    obtain ⟨hy, hys⟩ := List.pairwise_cons.1 h
    by_cases hlt : x.time.toNat < y.time.toNat
    · have hall : ∀ z ∈ y :: ys, x.time.toNat < z.time.toNat := by
        intro z hz
        rcases List.mem_cons.1 hz with rfl | hz
        · exact hlt
        · exact Nat.lt_of_lt_of_le hlt (hy _ (List.mem_map.2 ⟨z, hz, rfl⟩))
      rw [timedPut, if_pos hlt, List.filter_eq_nil_iff.2 fun z hz => by simpa using hall z hz,
        List.filter_eq_self.2 fun z hz => by simpa using hall z hz]
      rfl
    · have hle : y.time.toNat ≤ x.time.toNat := Nat.not_lt.1 hlt
      rw [timedPut, if_neg hlt, ih hys]
      simp [hlt, hle]

section
variable {s : State} {cl : Nat}

/-- Whether a buffered CPYT may start: its time has come, it has been in the buffer for sixteen ticks, and no earlier command holds
it. -/
def timedDue (s : State) (cl : Nat) (x : Timed) : Bool :=
  x.time.toNat ≤ (s.tbase (cl / 48)).toNat && x.entered + 16 ≤ s.now && !ordWaits s cl x.push

/-- The buffered CPYT that starts next, if any. -/
def timedNext (s : State) (cl : Nat) : Option Timed :=
  if (s.engq (copyQueue cl)).running.length < 4 then (s.cluster cl).tbuf.find? (timedDue s cl) else none

theorem timedNext_none
    (h : (s.cluster cl).tbuf.all (fun x => !(x.time.toNat ≤ (s.tbase (cl / 48)).toNat && x.entered + 16 ≤ s.now)) = true
      ∨ 4 ≤ (s.engq (copyQueue cl)).running.length) : timedNext s cl = none := by
  unfold timedNext
  split
  · next hlt =>
    rcases h with h | h
    · refine List.find?_eq_none.2 fun x hx => ?_
      have hno := List.all_eq_true.1 h x hx
      rw [Bool.not_eq_true'] at hno
      rw [timedDue, hno, Bool.false_and]
      simp
    · omega
  · rfl

/-- Where no buffered CPYT can start, the CPYT at the head of the queue moves into the buffer, if that has room. -/
theorem cpytTimedStart_moves (hn : timedNext s cl = none) {p : Push} {ps : List Push}
    (he : (s.engq (copyQueue cl)).entries = p :: ps) (hk : p.kind = 2) :
    cpytTimedStart cl s = if (s.cluster cl).tbuf.length < 64 then
      (s.setEngq (copyQueue cl) { s.engq (copyQueue cl) with entries := ps }).setCluster cl
        { s.cluster cl with tbuf := timedPut ⟨p.opnd, s.now, p⟩ (s.cluster cl).tbuf } else s := by
  have hn' : (if (s.engq (copyQueue cl)).running.length < 4 then (s.cluster cl).tbuf.find? (fun x =>
      x.time.toNat ≤ (s.tbase (cl / 48)).toNat && x.entered + 16 ≤ s.now && !ordWaits s cl x.push) else none) = none := hn
  simp only [cpytTimedStart, hn', he, hk, beq_self_eq_true, Bool.true_and, decide_eq_true_eq]

/-- A buffered CPYT that can start leaves the buffer and runs. -/
theorem cpytTimedStart_starts {x : Timed} (hx : timedNext s cl = some x) :
    cpytTimedStart cl s = copyGo cl (s.engq (copyQueue cl)).running.length { push := x.push }
      ((s.setCluster cl { s.cluster cl with tbuf := (s.cluster cl).tbuf.filter fun y => y != x }).setEngq (copyQueue cl)
        { s.engq (copyQueue cl) with running := (s.engq (copyQueue cl)).running ++ [{ push := x.push }] }) := by
  have hx' : (if (s.engq (copyQueue cl)).running.length < 4 then (s.cluster cl).tbuf.find? (fun x =>
      x.time.toNat ≤ (s.tbase (cl / 48)).toNat && x.entered + 16 ≤ s.now && !ordWaits s cl x.push) else none) = some x := hx
  simp only [cpytTimedStart, hx']

end

theorem timedCopiesClaim : TimedCopiesClaim := by
  intro s cl t q k due
  have hstep : exec (.cpytTimedStart cl) s = .next (cpytTimedStart cl s) := rfl
  refine ⟨fun p ps he hk hno hroom hsorted => ?_, fun p ps he hk hno hfull => ?_,
    fun x xs a b n hbuf hdue hord hxs hroom hk hfl hsig hw hone hf => ?_⟩
  · rw [hstep, cpytTimedStart_moves (timedNext_none hno) he hk, if_pos hroom, timedPut_eq _ hsorted]
  · rw [hstep, cpytTimedStart_moves (timedNext_none hno) he hk, if_neg (Nat.not_lt.2 hfull)]
  · have hnext : timedNext s cl = some x := by
      have hd : timedDue s cl x = true := by
        rw [timedDue, show (decide (x.time.toNat ≤ (s.tbase (cl / 48)).toNat) && decide (x.entered + 16 ≤ s.now)) = true from hdue,
          ordWaits_false hord]
        rfl
      rw [timedNext, if_pos hroom, show (s.cluster cl).tbuf = x :: xs from hbuf, List.find?_cons_of_pos hd]
    have hrest : (s.cluster cl).tbuf.filter (fun y => y != x) = xs := by
      rw [show (s.cluster cl).tbuf = x :: xs from hbuf]
      have hne : ∀ y ∈ xs, y ≠ x := fun y hy hyx => by subst hyx; simp [hy] at hxs
      simpa using hne
    have hf' : fillable cl (metLines b n) (s.setCluster cl { s.cluster cl with tbuf := xs }) :=
      ⟨by rw [State.setCluster_same]; exact hf.1, hf.2⟩
    rw [hstep, cpytTimedStart_starts hnext, hrest]
    exact congrArg _ (copyGo_scratch (q := s.engq (copyQueue cl)) (copyStart_cpyt hfl hsig hk) hw (oneRun_parts hone) hf')

/-- Settles O39: a command at the head of its queue starts (`copyCommand_starts`) and fails at once, runs, waits or ends (`copyGo_ends`,
`copyGo_waits`); the runs of a CPY lie where its strides say (`runOffset`), and one run inside the scratchpad moves its bytes
(`copyRuns_scratch`); the time buffer keeps its order (`timedPut_eq`). -/
theorem copyCommands : Obligations.CopyCommands := ⟨copyCommandsClaim, copyRunAddressesClaim, timedCopiesClaim⟩

end Sys2Proof.Machine
end
